-- ==== Sys2Proof/Word.lean ====
section
/-! DEFINITION. The word type of the machine and its plainest arithmetic (00_scope.md R3, R8; 03_formats.md R58). -/

namespace Sys2Proof

/-- A scalar register's contents and every address while it is computed: 64 bits (04_registers.md R60). -/
abbrev Word := BitVec 64

/-- The unit of addressable storage (00_scope.md R3). -/
abbrev Byte := BitVec 8

end Sys2Proof
end

