-- ==== Sys2Proof/Syntax.lean ====
section
/-! DEFINITION. The instruction syntax: one constructor of Instr for each row of spec/opcode_table.json. Rows that
name an event of the machine carry what the environment contributes to the event as arguments. -/

namespace Sys2Proof

/-- A 5-bit scalar register field (03_formats.md R36). -/
abbrev SReg := BitVec 5
/-- A 6-bit vector register field (03_formats.md R36). -/
abbrev VReg := BitVec 6
/-- A 4-bit mask register field (03_formats.md R36). -/
abbrev KReg := BitVec 4
/-- A 3-bit predicate field, naming k0 to k7 (03_formats.md R36). -/
abbrev PReg := BitVec 3
/-- A 4-bit stream register field (03_formats.md R36). -/
abbrev QReg := BitVec 4
/-- A 3-bit tile register field (03_formats.md R36). -/
abbrev ZReg := BitVec 3

/-- An element tag (04_registers.md R62). -/
inductive Tag where
  | i8
  | i16
  | i32
  | i64
  | d8
  | d8s
  | bf16
  | f32
  deriving DecidableEq, Repr

/-- The code of a value in an instruction word. -/
def Tag.code : Tag → Nat
  | .i8 => 0
  | .i16 => 1
  | .i32 => 2
  | .i64 => 3
  | .d8 => 4
  | .d8s => 5
  | .bf16 => 6
  | .f32 => 7

/-- The value a code stands for, where one does. -/
def Tag.ofCode : Nat → Option Tag
  | 0 => some .i8
  | 1 => some .i16
  | 2 => some .i32
  | 3 => some .i64
  | 4 => some .d8
  | 5 => some .d8s
  | 6 => some .bf16
  | 7 => some .f32
  | _ => none

/-- The size field of LD and ST (03_formats.md R47). -/
inductive MemSize where
  | b
  | h
  | w
  | d
  deriving DecidableEq, Repr

/-- The code of a value in an instruction word. -/
def MemSize.code : MemSize → Nat
  | .b => 0
  | .h => 1
  | .w => 2
  | .d => 3

/-- The value a code stands for, where one does. -/
def MemSize.ofCode : Nat → Option MemSize
  | 0 => some .b
  | 1 => some .h
  | 2 => some .w
  | 3 => some .d
  | _ => none

/-- The order field of AMO (03_formats.md R47). -/
inductive AmoOrder where
  | rlx
  | acq
  | rel
  | ar
  deriving DecidableEq, Repr

/-- The code of a value in an instruction word. -/
def AmoOrder.code : AmoOrder → Nat
  | .rlx => 0
  | .acq => 1
  | .rel => 2
  | .ar => 3

/-- The value a code stands for, where one does. -/
def AmoOrder.ofCode : Nat → Option AmoOrder
  | 0 => some .rlx
  | 1 => some .acq
  | 2 => some .rel
  | 3 => some .ar
  | _ => none

/-- The scope field of AMO and FENCE (03_formats.md R47). -/
inductive Scope where
  | hart
  | core
  | cluster
  | die
  | package
  | system
  deriving DecidableEq, Repr

/-- The code of a value in an instruction word. -/
def Scope.code : Scope → Nat
  | .hart => 0
  | .core => 1
  | .cluster => 2
  | .die => 3
  | .package => 4
  | .system => 5

/-- The value a code stands for, where one does. -/
def Scope.ofCode : Nat → Option Scope
  | 0 => some .hart
  | 1 => some .core
  | 2 => some .cluster
  | 3 => some .die
  | 4 => some .package
  | 5 => some .system
  | _ => none

/-- The condition field of BR (03_formats.md R47). -/
inductive BrCond where
  | eq
  | ne
  | lt
  | ge
  | ltu
  | geu
  | always
  deriving DecidableEq, Repr

/-- The code of a value in an instruction word. -/
def BrCond.code : BrCond → Nat
  | .eq => 0
  | .ne => 1
  | .lt => 2
  | .ge => 3
  | .ltu => 4
  | .geu => 5
  | .always => 6

/-- The value a code stands for, where one does. -/
def BrCond.ofCode : Nat → Option BrCond
  | 0 => some .eq
  | 1 => some .ne
  | 2 => some .lt
  | 3 => some .ge
  | 4 => some .ltu
  | 5 => some .geu
  | 6 => some .always
  | _ => none

/-- The frame field of CALL and CALLR: how many registers the window slides (03_formats.md R47). -/
inductive Frame where
  | regs8
  | regs16
  | regs24
  deriving DecidableEq, Repr

/-- The code of a value in an instruction word. -/
def Frame.code : Frame → Nat
  | .regs8 => 0
  | .regs16 => 1
  | .regs24 => 2

/-- The value a code stands for, where one does. -/
def Frame.ofCode : Nat → Option Frame
  | 0 => some .regs8
  | 1 => some .regs16
  | 2 => some .regs24
  | _ => none

/-- The condition of FCMP (03_formats.md R37). -/
inductive FcmpCond where
  | eq
  | lt
  | le
  | un
  deriving DecidableEq, Repr

/-- The code of a value in an instruction word. -/
def FcmpCond.code : FcmpCond → Nat
  | .eq => 0
  | .lt => 1
  | .le => 2
  | .un => 3

/-- The value a code stands for, where one does. -/
def FcmpCond.ofCode : Nat → Option FcmpCond
  | 0 => some .eq
  | 1 => some .lt
  | 2 => some .le
  | 3 => some .un
  | _ => none

/-- The conversion of FCVT (03_formats.md R46). -/
inductive FcvtOp where
  | sitof
  | uitof
  | ftosi
  | ftoui
  | stod
  | dtos
  deriving DecidableEq, Repr

/-- The code of a value in an instruction word. -/
def FcvtOp.code : FcvtOp → Nat
  | .sitof => 0
  | .uitof => 1
  | .ftosi => 2
  | .ftoui => 3
  | .stod => 4
  | .dtos => 5

/-- The value a code stands for, where one does. -/
def FcvtOp.ofCode : Nat → Option FcvtOp
  | 0 => some .sitof
  | 1 => some .uitof
  | 2 => some .ftosi
  | 3 => some .ftoui
  | 4 => some .stod
  | 5 => some .dtos
  | _ => none

/-- The rounding field of VCVT (03_formats.md R50). -/
inductive VRound where
  | frm
  | rne
  | rtz
  | rup
  | rdn
  | satRne
  deriving DecidableEq, Repr

/-- The code of a value in an instruction word. -/
def VRound.code : VRound → Nat
  | .frm => 0
  | .rne => 1
  | .rtz => 2
  | .rup => 3
  | .rdn => 4
  | .satRne => 5

/-- The value a code stands for, where one does. -/
def VRound.ofCode : Nat → Option VRound
  | 0 => some .frm
  | 1 => some .rne
  | 2 => some .rtz
  | 3 => some .rup
  | 4 => some .rdn
  | 5 => some .satRne
  | _ => none

/-- The relation of VCMP (03_formats.md R49). -/
inductive VRel where
  | eq
  | ne
  | lt
  | le
  | gt
  | ge
  deriving DecidableEq, Repr

/-- The code of a value in an instruction word. -/
def VRel.code : VRel → Nat
  | .eq => 0
  | .ne => 1
  | .lt => 2
  | .le => 3
  | .gt => 4
  | .ge => 5

/-- The value a code stands for, where one does. -/
def VRel.ofCode : Nat → Option VRel
  | 0 => some .eq
  | 1 => some .ne
  | 2 => some .lt
  | 3 => some .le
  | 4 => some .gt
  | 5 => some .ge
  | _ => none

/-- The operator of VRED and VSCAN (03_formats.md R51). -/
inductive RedOp where
  | sum
  | min
  | max
  | minu
  | maxu
  | and
  | or
  | xor
  deriving DecidableEq, Repr

/-- The code of a value in an instruction word. -/
def RedOp.code : RedOp → Nat
  | .sum => 0
  | .min => 1
  | .max => 2
  | .minu => 3
  | .maxu => 4
  | .and => 5
  | .or => 6
  | .xor => 7

/-- The value a code stands for, where one does. -/
def RedOp.ofCode : Nat → Option RedOp
  | 0 => some .sum
  | 1 => some .min
  | 2 => some .max
  | 3 => some .minu
  | 4 => some .maxu
  | 5 => some .and
  | 6 => some .or
  | 7 => some .xor
  | _ => none

/-- The accumulate field of MMA and MMAS (03_formats.md R55; 10_matrix.md R149). -/
inductive MmaAcc where
  | acc
  | ovw
  | neg
  deriving DecidableEq, Repr

/-- The code of a value in an instruction word. -/
def MmaAcc.code : MmaAcc → Nat
  | .acc => 0
  | .ovw => 1
  | .neg => 2

/-- The value a code stands for, where one does. -/
def MmaAcc.ofCode : Nat → Option MmaAcc
  | 0 => some .acc
  | 1 => some .ovw
  | 2 => some .neg
  | _ => none

/-- The operation field of AMO (03_formats.md R47). -/
inductive AmoOp where
  | add
  | and
  | or
  | xor
  | min
  | max
  | minu
  | maxu
  | swap
  | cas
  deriving DecidableEq, Repr

/-- A firmware image as the controller judges it (16_system.md R234): its version, the digest of its bytes, and
whether its signature verifies against the fused vendor key. -/
structure FwImage where
  version : Nat
  digest : BitVec 384
  signed : Bool
  deriving DecidableEq, Repr

/-- Which of the two firmwares an update replaces (16_system.md R234). -/
inductive FwKind where
  | management
  | miller
  deriving DecidableEq, Repr

/-- An update that arrives over the management port (16_system.md R234). -/
structure FirmwareUpload where
  kind : FwKind
  image : FwImage
  deriving DecidableEq, Repr

/-- What the outside contributes to a boot (16_system.md R232, R233, R236, R238): which dies come up, which die links
train only to half width, how much memory each CXL link finds, and the memory the controller and the miller firmware
place before the miller cores run, with the miller cores' start (log 4). -/
structure BootInputs where
  dieUp : BitVec 4
  linkHalf : BitVec 6
  cxlSize : List Nat
  image : List Host.Cell
  capBase : BitVec 56
  entry : Word
  tvec : Word
  ptbase : Word
  deriving DecidableEq, Repr, Inhabited

/-- A request of a remote device over RoCE v2 on package memory (13_ordering.md R203; 16_system.md R239). -/
inductive RemoteRequest where
  | read (pa n : Nat)
  | write (pa : Nat) (bytes : List Byte)
  | amo (op : AmoOp) (wide : Bool) (pa : Nat) (operand compare : Word)
  deriving DecidableEq, Repr

/-- The instructions and events of spec/opcode_table.json, one constructor a row, in the table's order. -/
inductive Instr where
  /-- ADD (R246): Adds two scalar registers, 64-bit or 32-bit under .W, with wrapping. -/
  | add (d a b : SReg) (w : Bool)
  /-- ADD_IMM (R247): Adds a sign-extended immediate to a scalar register. -/
  | addImm (d a : SReg) (i : BitVec 16)
  /-- SUB (R283): Subtracts one scalar register from another with wrapping. -/
  | sub (d a b : SReg) (w : Bool)
  /-- MUL (R283): Multiplies two scalars and keeps the low half. -/
  | mul (d a b : SReg) (w : Bool)
  /-- MULH (R283): Multiplies two scalars and keeps the upper half of the exact product. -/
  | mulh (d a b : SReg) (w u : Bool)
  /-- DIV (R246): Divides two scalars toward zero, with the defined results for zero divisor and overflow. -/
  | div (d a b : SReg) (w u : Bool)
  /-- REM (R283): Computes the remainder with the sign of the dividend. -/
  | rem (d a b : SReg) (w u : Bool)
  /-- AND (R246): Bitwise AND of two scalars. -/
  | and (d a b : SReg) (w : Bool)
  /-- AND_IMM (R247): Bitwise AND of a scalar with a zero-extended immediate. -/
  | andImm (d a : SReg) (i : BitVec 16)
  /-- OR (R283): Bitwise OR of two scalars. -/
  | or (d a b : SReg) (w : Bool)
  /-- OR_IMM (R284): Bitwise OR of a scalar with a zero-extended immediate. -/
  | orImm (d a : SReg) (i : BitVec 16)
  /-- XOR (R329): Bitwise exclusive OR of two scalars. -/
  | xor (d a b : SReg) (w : Bool)
  /-- XOR_IMM (R329): Bitwise exclusive OR of a scalar with a zero-extended immediate. -/
  | xorImm (d a : SReg) (i : BitVec 16)
  /-- SHL (R283): Shifts a scalar left by a register amount modulo the width. -/
  | shl (d a b : SReg) (w : Bool)
  /-- SHR (R283): Shifts a scalar right logically by a register amount. -/
  | shr (d a b : SReg) (w : Bool)
  /-- SHA (R283): Shifts a scalar right arithmetically by a register amount. -/
  | sha (d a b : SReg) (w : Bool)
  /-- SHL_IMM (R284): Shifts a scalar left by an immediate amount. -/
  | shlImm (d a : SReg) (n : BitVec 6)
  /-- SHR_IMM (R284): Shifts a scalar right logically by an immediate amount. -/
  | shrImm (d a : SReg) (n : BitVec 6)
  /-- SHA_IMM (R284): Shifts a scalar right arithmetically by an immediate amount. -/
  | shaImm (d a : SReg) (n : BitVec 6)
  /-- MIN (R283): Writes the smaller of two scalars, signed or unsigned. -/
  | min (d a b : SReg) (w u : Bool)
  /-- MAX (R283): Writes the larger of two scalars, signed or unsigned. -/
  | max (d a b : SReg) (w u : Bool)
  /-- SLT (R283): Writes 1 if the first scalar is less than the second. -/
  | slt (d a b : SReg) (w u : Bool)
  /-- SLT_IMM (R284): Writes 1 if a scalar is less than a sign-extended immediate. -/
  | sltImm (d a : SReg) (i : BitVec 16)
  /-- SEL (R283): Selects sa or sb according to whether sd is nonzero. -/
  | sel (d a b : SReg)
  /-- CLZ (R246): Counts leading zero bits of a scalar. -/
  | clz (d a : SReg) (w : Bool)
  /-- CTZ (R246): Counts trailing zero bits of a scalar. -/
  | ctz (d a : SReg) (w : Bool)
  /-- POPC (R283): Counts the set bits of a scalar. -/
  | popc (d a : SReg) (w : Bool)
  /-- LI (R280): Loads a sign-extended immediate into a scalar register. -/
  | li (d : SReg) (i : BitVec 21)
  /-- BFX (R142): Extracts a zero-extended bit field. -/
  | bfx (d a : SReg) (o : BitVec 6) (w : BitVec 7)
  /-- BFX_S (R142): Extracts a sign-extended bit field. -/
  | bfxS (d a : SReg) (o : BitVec 6) (w : BitVec 7)
  /-- BFI (R142): Inserts the low bits of sa into a bit field of sd. -/
  | bfi (d a : SReg) (o : BitVec 6) (w : BitVec 7)
  /-- FADD (R264): Adds two scalar floating values, rounded once. -/
  | fadd (d a b : SReg) (p : Bool)
  /-- FSUB (R264): Subtracts two scalar floating values, rounded once. -/
  | fsub (d a b : SReg) (p : Bool)
  /-- FMUL (R264): Multiplies two scalar floating values, rounded once. -/
  | fmul (d a b : SReg) (p : Bool)
  /-- FDIV (R264): Divides two scalar floating values, rounded once. -/
  | fdiv (d a b : SReg) (p : Bool)
  /-- FMA (R264): Computes sa times sb plus sd with one rounding. -/
  | fma (d a b : SReg) (p : Bool)
  /-- FMIN (R264): Writes the smaller floating value by the special-case rules. -/
  | fmin (d a b : SReg) (p : Bool)
  /-- FMAX (R264): Writes the larger floating value by the special-case rules. -/
  | fmax (d a b : SReg) (p : Bool)
  /-- FCMP (R264): Writes 1 or 0 according to a floating comparison condition. -/
  | fcmp (d a b : SReg) (c : FcmpCond) (p : Bool)
  /-- FCVT (R264): Converts between integer and floating or between floating widths, as the sb field selects. -/
  | fcvt (d a : SReg) (c : FcvtOp) (p : Bool)
  /-- LD (R278): Loads 1 to 8 bytes into a scalar, zero- or sign-extended. -/
  | ld (d b : SReg) (z : MemSize) (x : Bool) (o : BitVec 13)
  /-- ST (R299): Stores the low 1 to 8 bytes of a scalar. -/
  | st (d b : SReg) (z : MemSize) (o : BitVec 13)
  /-- AMO_ADD (R197): Atomically adds to a memory word and returns the old value. -/
  | amoAdd (d a b : SReg) (z : Bool) (r : AmoOrder) (s : Scope)
  /-- AMO_AND (R197): Atomically ANDs into a memory word and returns the old value. -/
  | amoAnd (d a b : SReg) (z : Bool) (r : AmoOrder) (s : Scope)
  /-- AMO_OR (R197): Atomically ORs into a memory word and returns the old value. -/
  | amoOr (d a b : SReg) (z : Bool) (r : AmoOrder) (s : Scope)
  /-- AMO_XOR (R197): Atomically XORs into a memory word and returns the old value. -/
  | amoXor (d a b : SReg) (z : Bool) (r : AmoOrder) (s : Scope)
  /-- AMO_MIN (R197): Atomically stores the signed minimum and returns the old value. -/
  | amoMin (d a b : SReg) (z : Bool) (r : AmoOrder) (s : Scope)
  /-- AMO_MAX (R197): Atomically stores the signed maximum and returns the old value. -/
  | amoMax (d a b : SReg) (z : Bool) (r : AmoOrder) (s : Scope)
  /-- AMO_MINU (R197): Atomically stores the unsigned minimum and returns the old value. -/
  | amoMinu (d a b : SReg) (z : Bool) (r : AmoOrder) (s : Scope)
  /-- AMO_MAXU (R197): Atomically stores the unsigned maximum and returns the old value. -/
  | amoMaxu (d a b : SReg) (z : Bool) (r : AmoOrder) (s : Scope)
  /-- AMO_SWAP (R197): Atomically swaps a memory word with a scalar. -/
  | amoSwap (d a b : SReg) (z : Bool) (r : AmoOrder) (s : Scope)
  /-- AMO_CAS (R197): Atomically compares a memory word with sd and stores sb on a match. -/
  | amoCas (d a b : SReg) (z : Bool) (r : AmoOrder) (s : Scope)
  /-- FENCE_FULL (R196): Runs any pending pass and orders all earlier events before all later ones at the scope. -/
  | fenceFull (s : Scope)
  /-- FENCE_REL (R196): Orders earlier events before later writes at the scope. -/
  | fenceRel (s : Scope)
  /-- FENCE_ACQ (R196): Orders earlier reads before all later events. -/
  | fenceAcq (s : Scope)
  /-- FENCE_ENG (R196): Acts as a full fence and also waits for earlier engine transfers to complete. -/
  | fenceEng (s : Scope)
  /-- FENCE_XLAT (R196): Acts as a full fence and then completes the TLB invalidation named by TLBINVA. -/
  | fenceXlat (s : Scope)
  /-- FENCE_INST (R196): Acts as a full fence and discards fetched words so later fetches see earlier writes. -/
  | fenceInst (s : Scope)
  /-- BR (R134): Branches to a word offset when the condition on two scalars holds. -/
  | br (c : BrCond) (a b : SReg) (o : BitVec 13)
  /-- JMP (R268): Jumps to a word offset from the instruction. -/
  | jmp (o : BitVec 26)
  /-- CALL (R137): Calls a target at a word offset, pushing a return entry and sliding the register window. -/
  | call (f : Frame) (o : BitVec 24)
  /-- JMPR (R268): Jumps to the address held in a scalar register. -/
  | jmpr (t : SReg)
  /-- CALLR (R137): Calls the address held in a scalar register, sliding the window. -/
  | callr (t : SReg) (f : Frame)
  /-- RET (R138): Returns to the newest return entry and slides the window back. -/
  | ret
  /-- LOOP (R140): Arms the hardware loop over the following words for a counted number of passes. -/
  | loop (c : SReg) (o : BitVec 21)
  /-- NOP (R291): Changes nothing but the pc. -/
  | nop
  /-- TRAP (R210): Raises TRAPINST with the code in EVA. -/
  | trap (c : BitVec 16)
  /-- ERET (R210): Returns from a handler to EPC at the saved privilege level. -/
  | eret
  /-- BRK (R254): Raises BRK with the code in EVA. -/
  | brk (c : BitVec 16)
  /-- CRD (R69): Reads a control register into a scalar. -/
  | crd (s : SReg) (n : BitVec 16)
  /-- CWR (R69): Writes a scalar into a control register that has no behaviour of its own. -/
  | cwr (s : SReg) (n : BitVec 16)
  /-- CWR_CTXBASE (R211): Saves the current context, then loads, vacates or only sets the image address. -/
  | cwrCtxbase (s : SReg)
  /-- CWR_TIMECMP (R209): Sets the timer compare value, ending a pending TIMER when raised above TIME. -/
  | cwrTimecmp (s : SReg)
  /-- CWR_PTBASE (R259): Sets the root page table used from the next unit. -/
  | cwrPtbase (s : SReg)
  /-- CWR_SPILLP (R259): Sets the spill area and resets WSP and RSP, or raises ILLEGAL if anything is spilled. -/
  | cwrSpillp (s : SReg)
  /-- CWR_SLOTS (R170): Changes the hart's slot weight in all four unit tables. -/
  | cwrSlots (s : SReg)
  /-- CWR_LEND (R259): Sets the loop end and arms the hardware loop when bit 0 is 1. -/
  | cwrLend (s : SReg)
  /-- CWR_VFLAGS (R259): Clears the sticky flag bits written as 1. -/
  | cwrVflags (s : SReg)
  /-- CWR_MSHAPE (R147): Sets the matrix shape with the checks and effect of MSHAPE. -/
  | cwrMshape (s : SReg)
  /-- CWR_BNDSIZE (R259): Sets the boundary buffer size, raising ILLEGAL for an invalid size. -/
  | cwrBndsize (s : SReg)
  /-- CWR_BSTAT (R157): Writes the bond run status after the bond queue has drained. -/
  | cwrBstat (s : SReg)
  /-- CWR_TRACE_REGS (R221): Writes TRBASE, TRSIZE or TRHEAD once the trace FIFO is empty, capturing PTBASE on TRBASE. -/
  | cwrTraceRegs (s : SReg) (n : BitVec 2)
  /-- CWR_WATCHPOINT (R227): Writes a watchpoint register and retires once it is in force at every comparator. -/
  | cwrWatchpoint (s : SReg) (n : BitVec 4)
  /-- VCONF (R66): Runs any pending pass and sets the hart's vector register count, emptying registers and resetting tags. -/
  | vconf (d a : SReg)
  /-- VSETL (R67): Sets the hart's VL and SL and returns the granted VL. -/
  | vsetl (d a b : SReg)
  /-- PART (R66): Runs any pending pass and divides the core's lanes into groups. -/
  | part (d a : SReg)
  /-- QSET (R106): Loads a 32-byte stream descriptor into a q register and detaches pending leaves and sinks from it. -/
  | qset (a : SReg) (q : QReg)
  /-- VLD (R107): Appends a leaf on a stream, or in matrix mode loads a register at once. -/
  | vld (v : VReg) (q : QReg) (c : Bool) (p : PReg) (o : Bool)
  /-- VLDX (R109): Appends a gather leaf indexed by an index node. -/
  | vldx (v : VReg) (q : QReg) (i : VReg) (c : Bool) (p : PReg) (o : Bool)
  /-- VLDFF (R112): Appends a leaf that cuts the pass rather than faulting beyond element 0. -/
  | vldff (v : VReg) (q : QReg) (c : Bool) (p : PReg)
  /-- VST (R107): Appends a store sink on a stream, or in matrix mode stores a register at once. -/
  | vst (v : VReg) (q : QReg) (c : Bool) (p : PReg) (o : Bool)
  /-- VSTX (R109): Appends a scatter store sink indexed by an index node. -/
  | vstx (v : VReg) (q : QReg) (i : VReg) (c : Bool) (p : PReg) (o : Bool)
  /-- VADD (R308): Appends a node adding two vector nodes. -/
  | vadd (d a b : VReg) (m n : Bool) (p : PReg)
  /-- VSUB (R308): Appends a node subtracting two vector nodes. -/
  | vsub (d a b : VReg) (m n : Bool) (p : PReg)
  /-- VMUL (R308): Appends a node multiplying two vector nodes. -/
  | vmul (d a b : VReg) (m n : Bool) (p : PReg)
  /-- VDIV (R308): Appends a node dividing two vector nodes, signed for integers. -/
  | vdiv (d a b : VReg) (m n : Bool) (p : PReg)
  /-- VFMA (R308): Appends a fused multiply-add node accumulating onto vd's node. -/
  | vfma (d a b : VReg) (m n : Bool) (p : PReg)
  /-- VMIN (R308): Appends a node taking the elementwise minimum. -/
  | vmin (d a b : VReg) (m n : Bool) (p : PReg)
  /-- VMAX (R308): Appends a node taking the elementwise maximum. -/
  | vmax (d a b : VReg) (m n : Bool) (p : PReg)
  /-- VDIV_U (R308): Appends a node dividing two vector nodes read unsigned. -/
  | vdivU (d a b : VReg) (m n : Bool) (p : PReg)
  /-- VAND (R310): Appends a bitwise AND node of two integer nodes. -/
  | vand (d a b : VReg) (m n : Bool) (p : PReg)
  /-- VOR (R310): Appends a bitwise OR node of two integer nodes. -/
  | vor (d a b : VReg) (m n : Bool) (p : PReg)
  /-- VXOR (R310): Appends a bitwise XOR node of two integer nodes. -/
  | vxor (d a b : VReg) (m n : Bool) (p : PReg)
  /-- VSHL (R310): Appends a left-shift node. -/
  | vshl (d a b : VReg) (m n : Bool) (p : PReg)
  /-- VSHR (R310): Appends an arithmetic right-shift node. -/
  | vshr (d a b : VReg) (m n : Bool) (p : PReg)
  /-- VSEL (R310): Appends a node selecting between two nodes by the predicate mask. -/
  | vsel (d a b : VReg) (m n : Bool) (p : PReg)
  /-- VSHR_U (R310): Appends a logical right-shift node. -/
  | vshrU (d a b : VReg) (m n : Bool) (p : PReg)
  /-- VABS (R313): Appends an absolute-value node. -/
  | vabs (d a : VReg) (m : Bool) (p : PReg)
  /-- VNEG (R313): Appends a negation node. -/
  | vneg (d a : VReg) (m : Bool) (p : PReg)
  /-- VSQRT (R313): Appends a correctly rounded square-root node. -/
  | vsqrt (d a : VReg) (m : Bool) (p : PReg)
  /-- VRSQRT (R313): Appends a reciprocal square-root node. -/
  | vrsqrt (d a : VReg) (m : Bool) (p : PReg)
  /-- VRCP (R313): Appends a reciprocal node. -/
  | vrcp (d a : VReg) (m : Bool) (p : PReg)
  /-- VEXP (R313): Appends an exponential node. -/
  | vexp (d a : VReg) (m : Bool) (p : PReg)
  /-- VLOG (R313): Appends a logarithm node. -/
  | vlog (d a : VReg) (m : Bool) (p : PReg)
  /-- VTANH (R313): Appends a hyperbolic tangent node. -/
  | vtanh (d a : VReg) (m : Bool) (p : PReg)
  /-- VCVT (R314): Appends a conversion node into vd's tag under the chosen rounding. -/
  | vcvt (d a : VReg) (m u : Bool) (p : PReg) (r : VRound)
  /-- VADD_VS (R308): Appends a node adding a captured scalar to a vector node. -/
  | vaddVs (d a : VReg) (s : SReg) (m : Bool) (p : PReg)
  /-- VSUB_VS (R308): Appends a node subtracting a captured scalar. -/
  | vsubVs (d a : VReg) (s : SReg) (m : Bool) (p : PReg)
  /-- VMUL_VS (R308): Appends a node multiplying by a captured scalar. -/
  | vmulVs (d a : VReg) (s : SReg) (m : Bool) (p : PReg)
  /-- VDIV_VS (R308): Appends a node dividing by a captured scalar, signed. -/
  | vdivVs (d a : VReg) (s : SReg) (m : Bool) (p : PReg)
  /-- VFMA_VS (R308): Appends a fused multiply-add node with a captured scalar multiplier. -/
  | vfmaVs (d a : VReg) (s : SReg) (m : Bool) (p : PReg)
  /-- VMIN_VS (R308): Appends a minimum node against a captured scalar. -/
  | vminVs (d a : VReg) (s : SReg) (m : Bool) (p : PReg)
  /-- VMAX_VS (R308): Appends a maximum node against a captured scalar. -/
  | vmaxVs (d a : VReg) (s : SReg) (m : Bool) (p : PReg)
  /-- VDIV_U_VS (R308): Appends an unsigned division node by a captured scalar. -/
  | vdivUVs (d a : VReg) (s : SReg) (m : Bool) (p : PReg)
  /-- VAND_VS (R310): Appends a bitwise AND node with a captured scalar. -/
  | vandVs (d a : VReg) (s : SReg) (m : Bool) (p : PReg)
  /-- VOR_VS (R310): Appends a bitwise OR node with a captured scalar. -/
  | vorVs (d a : VReg) (s : SReg) (m : Bool) (p : PReg)
  /-- VXOR_VS (R310): Appends a bitwise XOR node with a captured scalar. -/
  | vxorVs (d a : VReg) (s : SReg) (m : Bool) (p : PReg)
  /-- VSHL_VS (R310): Appends a left-shift node by a captured scalar amount. -/
  | vshlVs (d a : VReg) (s : SReg) (m : Bool) (p : PReg)
  /-- VSHR_VS (R310): Appends an arithmetic right-shift node by a captured scalar amount. -/
  | vshrVs (d a : VReg) (s : SReg) (m : Bool) (p : PReg)
  /-- VSHR_U_VS (R310): Appends a logical right-shift node by a captured scalar amount. -/
  | vshrUVs (d a : VReg) (s : SReg) (m : Bool) (p : PReg)
  /-- VSPLAT (R324): Appends a node whose every element is the captured scalar. -/
  | vsplat (d : VReg) (s : SReg) (p : PReg)
  /-- VIOTA (R324): Appends a node whose element e is the captured scalar plus e. -/
  | viota (d : VReg) (s : SReg) (p : PReg)
  /-- VCMP (R129): Appends a mask node comparing two vector nodes by a relation. -/
  | vcmp (u : Bool) (k : KReg) (a b : VReg) (m n : Bool) (p : PReg) (r : VRel)
  /-- KAND (R130): Appends a mask node ANDing two masks. -/
  | kand (d a b : KReg)
  /-- KOR (R130): Appends a mask node ORing two masks. -/
  | kor (d a b : KReg)
  /-- KXOR (R130): Appends a mask node XORing two masks. -/
  | kxor (d a b : KReg)
  /-- KNOT (R130): Appends a mask node inverting a mask. -/
  | knot (d a : KReg)
  /-- KSBF (R130): Appends a mask node true before the first true position of the source. -/
  | ksbf (d a : KReg)
  /-- KSIF (R130): Appends a mask node true up to and including the first true position. -/
  | ksif (d a : KReg)
  /-- KPOP (R131): Appends a count sink giving the number of true positions. -/
  | kpop (a : KReg) (s : SReg)
  /-- KFIRST (R131): Appends a count sink giving the first true position. -/
  | kfirst (a : KReg) (s : SReg)
  /-- KTAIL (R131): Appends a count sink giving the last position's mask value. -/
  | ktail (a : KReg) (s : SReg)
  /-- KLD (R132): Loads 2,048 mask bits from memory into a mask register. -/
  | kld (d : KReg) (s : SReg)
  /-- KST (R132): Stores 2,048 mask bits to memory. -/
  | kst (a : KReg) (s : SReg)
  /-- VRED (R319): Appends a reduction sink whose result goes to a pending scalar. -/
  | vred (s : SReg) (a : VReg) (o : RedOp) (m : Bool) (p : PReg)
  /-- VSCAN (R319): Appends a fabric node of running reduction values. -/
  | vscan (d a : VReg) (o : RedOp) (m : Bool) (p : PReg)
  /-- VCOMP (R320): Appends a node compressing the selected active elements to the front. -/
  | vcomp (d a : VReg) (m : Bool) (p : PReg)
  /-- VEXPD (R320): Appends a node expanding consecutive elements into the selected positions. -/
  | vexpd (d a : VReg) (m : Bool) (p : PReg)
  /-- VPERM (R321): Appends a node permuting elements within windows by an index node. -/
  | vperm (d a b : VReg) (m n : Bool) (p : PReg)
  /-- VFORCE (R100): Runs every pending sink in a pass now. -/
  | vforce
  /-- VDROP (R101): Makes a range of vector registers EMPTY and collects unused nodes. -/
  | vdrop (d a : VReg)
  /-- MMODE_ON (R143): Runs any pending pass, obtains tiles and enters matrix mode. -/
  | mmodeOn (n : BitVec 6)
  /-- MMODE_OFF (R143): Leaves matrix mode keeping the held tiles. -/
  | mmodeOff
  /-- MMODE_OFF_REL (R143): Leaves matrix mode, if in it, and frees the held tiles. -/
  | mmodeOffRel
  /-- TILE_GRANT (R145): Grants a waiting request its whole tile count once enough tiles are free, in arrival order. -/
  | tileGrant (core : Nat)
  /-- MSHAPE (R147): Sets the product shape M and N, and VL in matrix mode. -/
  | mshape (m n : SReg)
  /-- ZZERO (R153): Sets every position of a tile to +0. -/
  | zzero (z : ZReg)
  /-- MMA (R149): Multiplies an A block by B rows and accumulates into a tile with one rounding per output. -/
  | mma (z : ZReg) (a b : VReg) (m n : Bool) (c : MmaAcc)
  /-- MMAS (R151): Multiplies a compressed sparse A by B rows selected by a mask and accumulates into a tile. -/
  | mmas (z : ZReg) (a b : VReg) (k : BitVec 3) (m n : Bool) (c : MmaAcc)
  /-- ZLD (R153): Loads the M by N corner of a tile from strided memory. -/
  | zld (z : ZReg) (a b : SReg)
  /-- ZST (R153): Stores the M by N corner of a tile to strided memory. -/
  | zst (z : ZReg) (a b : SReg)
  /-- BDIM (R158): Loads a bond or mode register in bond-queue order. -/
  | bdim (a : SReg) (r : BitVec 6)
  /-- BCON (R160): Queues one forward tensor-train contraction step with core k. -/
  | bcon (a : SReg) (k : BitVec 6)
  /-- BRUN (R162): Runs an order program of contraction steps, resuming at BSTAT's step. -/
  | brun (a : SReg)
  /-- BOND_STEP (R159): Performs one contraction of the boundary with a core into region O and copies it to region I. -/
  | bondStep
  /-- BLD (R163): Copies bytes from memory into boundary region I. -/
  | bld (a b : SReg)
  /-- BST (R163): Copies bytes from boundary region I to memory. -/
  | bst (a b : SReg)
  /-- CPY (R256): Checks and accepts a copy of a byte range on the copy engine. -/
  | cpy (a b c : SReg)
  /-- CPY_COMPLETE (R256): Completes an accepted copy, releasing pins and entries, retiring it and pushing its token. -/
  | cpyComplete (i : Nat)
  /-- LAUNCH (R166): Validates a launch descriptor and registers a confirmed gang. -/
  | launch (a : SReg)
  /-- LAUNCH_P (R166): Registers a gang now, provisionally with a predicted count if the shape cell is unpublished. -/
  | launchP (a : SReg)
  /-- SHAPE (R178): Runs any pending pass and publishes a true hart count in a shape cell with release. -/
  | shape (a b : SReg)
  /-- TRIG (R173): Marks this hart as triggered for its gang's dependants. -/
  | trig
  /-- WPRED (R174): Waits with acquire until the predecessor's completion word shows done. -/
  | wpred
  /-- BAR (R181): Runs any pending pass and waits at the gang barrier with a full fence. -/
  | bar
  /-- END (R182): Runs any pending pass, drains, counts the hart into the completion word and frees its resources. -/
  | endI
  /-- SPAWN (R297): Routes a task to the deque of the home core of an address. -/
  | spawn (a b c : SReg)
  /-- DQPUSH (R184): Pushes a task at the bottom of the own core's deque. -/
  | dqpush (a b : SReg)
  /-- DQPOP (R184): Takes the bottom task of the own core's deque, or zeros. -/
  | dqpop (a b : SReg)
  /-- DQSTEAL (R184): Takes the top task of another core's deque, or zeros. -/
  | dqsteal (a b c : SReg)
  /-- FWAIT (R185): Reads a future's value, parking the hart until it is full. -/
  | fwait (a b : SReg)
  /-- FPUT (R185): Fills a future cell with release and wakes its waiters. -/
  | fput (a b : SReg)
  /-- YIELD (R186): Gives up the hart's issue turns for one 32-turn round. -/
  | yield
  /-- YIELD_PAUSE_END (R186): Ends the 32-cycle front-end pause of a yielded hart. -/
  | yieldPauseEnd
  /-- TRACE (R219): Enqueues a trace record with payload, channel, hart and time. -/
  | trace (a : SReg) (c : BitVec 6)
  /-- TRACE_RECORD_WRITE (R221): Drains the oldest trace record into the circular buffer and advances TRHEAD. -/
  | traceRecordWrite (core : Nat)
  /-- VTAG (R62): Sets the tag of a range of vector registers. -/
  | vtag (d a : VReg) (t : Tag)
  /-- TOK (R302): Prefix that takes a token at issue and gives one at the signalling point. -/
  | tok (w : Bool) (x : BitVec 3) (s : Bool) (y : BitVec 3)
  /-- EXT (R262): Prefix supplying the high bits of the next instruction's immediate. -/
  | ext (v : BitVec 26)
  /-- PASS_STRIP (R95): Reads, computes and commits one strip of a hart's pending pass when its pass unit turn comes. -/
  | passStrip
  /-- PASS_ELEMENT_STOP (R209): Stops a pass at element granularity when no strip boundary comes within 2,048 cycles of a pending interrupt. -/
  | passElementStop (e : Nat)
  /-- SPAD_READ_REQUEST (R110): Carries one owner's gathered positions of a 64-position group to the owning core. -/
  | spadReadRequest
  /-- SPAD_READ_REPLY (R110): Returns the gathered elements from the owning core. -/
  | spadReadReply
  /-- SPAD_WRITE (R110): Carries scattered elements to the owning core, which performs them in ascending order. -/
  | spadWrite
  /-- SPAD_WRITE_ACK (R110): Acknowledges a scatter write packet. -/
  | spadWriteAck
  /-- HART_START (R167): Makes a waiting hart resident with its launch state once slot, tables, partition, activation and early-start conditions hold. -/
  | hartStart (gang j : Nat)
  /-- SHAPE_PUBLICATION (R178): A write making PUB 1 becomes visible and fixes T' for each gang watching the cell. -/
  | shapePublication
  /-- HART_CONFIRM (R178): Confirms a provisional hart at its next boundary and drains its buffered stores in program order. -/
  | hartConfirm
  /-- HART_SQUASH (R178): Squashes a hart beyond T', discarding its work and stores and freeing its resources. -/
  | hartSquash
  /-- TIMER (R209): Takes the timer interrupt when TIME reaches TIMECMP and IE is 1. -/
  | timer
  /-- WATCH_RECORD (R229): Delivers an imprecise watch record to the owning core's queue, or drops it when full. -/
  | watchRecord
  /-- WATCHIMP (R229): Takes a pending watch record as an interrupt with LOST, SRC, WP, KIND and ID in FELEM. -/
  | watchimp
  /-- MACHINE (R207): Takes a machine interrupt for an uncorrectable error or a management event. -/
  | machine
  /-- REMOTE_ACCESS_TIMEOUT (R239): A remote access fails or times out after 10 ms: reads return all ones, writes drop, MACHINE is raised. -/
  | remoteAccessTimeout
  /-- PACKAGE_RESET (R232): Starts the management boot sequence with TIME at 0. -/
  | packageReset (b : BootInputs)
  /-- HEALTH_REPORT (R234): A newly booted image reports healthy, allowing the rollback counter to advance. -/
  | healthReport
  /-- HEALTH_TIMEOUT (R234): An image not reporting healthy within 60 s is marked invalid and the package is reset. -/
  | healthTimeout (b : BootInputs)
  /-- FIRMWARE_UPDATE (R234): Writes an update into the unused slot and marks it valid once it verifies. -/
  | firmwareUpdate (u : FirmwareUpload)
  /-- MBX_CORE_DUMP (R230): Serves a core-dump request, writing header and records into the buffer. -/
  | mbxCoreDump
  /-- MBX_MIGRATE_PAGE (R218): Serves a page-migration request, setting up the record and starting the copy. -/
  | mbxMigratePage
  /-- MBX_READ_SENSORS (R237): Serves a sensor-read request with temperatures, power and clock. -/
  | mbxReadSensors
  /-- MBX_ATTESTATION (R235): Serves an attestation request with a signed 256-byte report. -/
  | mbxAttestation
  /-- MBX_READ_EVENT_LOG (R237): Serves a request to read the management event log. -/
  | mbxReadEventLog
  /-- MIGRATION_CHUNK_COPIED (R115): Advances the migration progress pointer past a copied 4 KiB chunk. -/
  | migrationChunkCopied (i : Nat)
  /-- LINK_RETRAIN (R202): A die link retrains, holding reservations and replaying flits without loss or reordering. -/
  | linkRetrain (a b : Nat) (ok : Bool)
  /-- POWER_LIMIT_THROTTLE (R241): Lowers the arithmetic clock by 250 MHz when a power limit would be passed. -/
  | powerLimitThrottle
  /-- POWER_LIMIT_RECOVER (R241): Raises the arithmetic clock by 250 MHz once the average power falls back. -/
  | powerLimitRecover
  /-- THERMAL_THROTTLE (R241): A cluster at 105 degrees C lowers its die's clock. -/
  | thermalThrottle (cluster : Nat)
  /-- THERMAL_SHUTDOWN (R241): At 115 degrees C the controller stops the package and logs the cause. -/
  | thermalShutdown
  /-- LANE_REMAP_WRITE (R68): The management controller retires or remaps a lane while no hart is resident on the core. -/
  | laneRemapWrite (core : Nat) (assigned : BitVec 136) (lmod : Nat)
  /-- REMOTE_DEVICE_ACCESS (R203): A read, write or AMO request from a remote device arrives over RoCE v2 and performs on package memory at system scope. -/
  | remoteDeviceAccess (r : RemoteRequest)
  /-- ILLEGAL_ENCODING (R44): A fetched unit whose word has an unallocated or reserved major, function, field value or prefix sequence raises ILLEGAL. -/
  | illegalEncoding
  /-- FETCH_FAULT (R33): Fetching a word of a unit fails translation or permission and raises PAGEFAULT or PROT with EVA at the faulting word. -/
  | fetchFault
  deriving DecidableEq, Repr

end Sys2Proof
end

