-- ==== Sys2Proof/WellFormed.lean ====
section
/-! DEFINITION. Which instructions an instruction word can carry: the ranges of R36, R38, R40, R41 and R45 to R56 and
the assigned control register numbers of 04_registers.md R70. -/

namespace Sys2Proof

/-- The assigned control register numbers (04_registers.md R70). -/
def crAssigned (n : Nat) : Bool :=
  n ≤ 0x00B || (0x010 ≤ n && n ≤ 0x018) || (0x100 ≤ n && n ≤ 0x103) || (0x110 ≤ n && n ≤ 0x11F)
    || (0x200 ≤ n && n ≤ 0x205) || (0x300 ≤ n && n ≤ 0x309) || (0x400 ≤ n && n ≤ 0x404)
    || (0x410 ≤ n && n ≤ 0x41B) || (0x420 ≤ n && n ≤ 0x47F) || (0x500 ≤ n && n ≤ 0x503)
    || n == 0xF00 || n == 0xF01

/-- The numbers whose writes have a row of their own in the opcode table. -/
def crOwnRow (n : Nat) : Bool :=
  n == 0x309 || n == 0x308 || n == 0x306 || n == 0x305 || n == 0x203 || n == 0x00B || n == 0x008
    || n == 0x500 || n == 0x502 || n == 0x503 || n / 4 == 0x100 || n / 16 == 0x41

/-- Conversions between F32 and F64 take no .D (R46). -/
def FcvtOp.widens : FcvtOp → Bool
  | .stod | .dtos => true
  | _ => false

/-- A wait or signal part names a queue 0 to 4 when enabled and is zero when not (R41). -/
def tokPart (enable : Bool) (queue : BitVec 3) : Bool :=
  if enable then decide (queue.toNat < 5) else queue == 0

/-- The fields of an instruction lie in their listed ranges, so that some instruction word carries it. An event row
has no word. -/
def Instr.wf : Instr → Bool
  | .add _ _ _ _ => true
  | .addImm _ _ _ => true
  | .sub _ _ _ _ => true
  | .mul _ _ _ _ => true
  | .mulh _ _ _ _ _ => true
  | .div _ _ _ _ _ => true
  | .rem _ _ _ _ _ => true
  | .and _ _ _ _ => true
  | .andImm _ _ _ => true
  | .or _ _ _ _ => true
  | .orImm _ _ _ => true
  | .xor _ _ _ _ => true
  | .xorImm _ _ _ => true
  | .shl _ _ _ _ => true
  | .shr _ _ _ _ => true
  | .sha _ _ _ _ => true
  | .shlImm _ _ _ => true
  | .shrImm _ _ _ => true
  | .shaImm _ _ _ => true
  | .min _ _ _ _ _ => true
  | .max _ _ _ _ _ => true
  | .slt _ _ _ _ _ => true
  | .sltImm _ _ _ => true
  | .sel _ _ _ => true
  | .clz _ _ _ => true
  | .ctz _ _ _ => true
  | .popc _ _ _ => true
  | .li _ _ => true
  | .bfx _ _ _ w => w.toNat ≤ 64
  | .bfxS _ _ _ w => w.toNat ≤ 64
  | .bfi _ _ _ w => w.toNat ≤ 64
  | .fadd _ _ _ _ => true
  | .fsub _ _ _ _ => true
  | .fmul _ _ _ _ => true
  | .fdiv _ _ _ _ => true
  | .fma _ _ _ _ => true
  | .fmin _ _ _ _ => true
  | .fmax _ _ _ _ => true
  | .fcmp _ _ _ _ _ => true
  | .fcvt _ _ c p => !(p && c.widens)
  | .ld _ _ z x _ => !(x && z == .d)
  | .st _ _ _ _ => true
  | .amoAdd _ _ _ _ _ _ => true
  | .amoAnd _ _ _ _ _ _ => true
  | .amoOr _ _ _ _ _ _ => true
  | .amoXor _ _ _ _ _ _ => true
  | .amoMin _ _ _ _ _ _ => true
  | .amoMax _ _ _ _ _ _ => true
  | .amoMinu _ _ _ _ _ _ => true
  | .amoMaxu _ _ _ _ _ _ => true
  | .amoSwap _ _ _ _ _ _ => true
  | .amoCas _ _ _ _ _ _ => true
  | .fenceFull _ => true
  | .fenceRel _ => true
  | .fenceAcq _ => true
  | .fenceEng _ => true
  | .fenceXlat _ => true
  | .fenceInst _ => true
  | .br c a b _ => c != .always || (a == 0 && b == 0)
  | .jmp _ => true
  | .call _ _ => true
  | .jmpr _ => true
  | .callr _ _ => true
  | .ret => true
  | .loop _ _ => true
  | .nop => true
  | .trap _ => true
  | .eret => true
  | .brk _ => true
  | .crd _ n => crAssigned n.toNat
  | .cwr _ n => crAssigned n.toNat && !crOwnRow n.toNat
  | .cwrCtxbase _ => true
  | .cwrTimecmp _ => true
  | .cwrPtbase _ => true
  | .cwrSpillp _ => true
  | .cwrSlots _ => true
  | .cwrLend _ => true
  | .cwrVflags _ => true
  | .cwrMshape _ => true
  | .cwrBndsize _ => true
  | .cwrBstat _ => true
  | .cwrTraceRegs _ _ => true
  | .cwrWatchpoint _ n => n.toNat < 12
  | .vconf _ _ => true
  | .vsetl _ _ _ => true
  | .part _ _ => true
  | .qset _ _ => true
  | .vld _ _ _ _ _ => true
  | .vldx _ _ _ _ _ _ => true
  | .vldff _ _ _ _ => true
  | .vst _ _ _ _ _ => true
  | .vstx _ _ _ _ _ _ => true
  | .vadd _ _ _ _ _ _ => true
  | .vsub _ _ _ _ _ _ => true
  | .vmul _ _ _ _ _ _ => true
  | .vdiv _ _ _ _ _ _ => true
  | .vfma _ _ _ _ _ _ => true
  | .vmin _ _ _ _ _ _ => true
  | .vmax _ _ _ _ _ _ => true
  | .vdivU _ _ _ _ _ _ => true
  | .vand _ _ _ _ _ _ => true
  | .vor _ _ _ _ _ _ => true
  | .vxor _ _ _ _ _ _ => true
  | .vshl _ _ _ _ _ _ => true
  | .vshr _ _ _ _ _ _ => true
  | .vsel _ _ _ _ _ p => p != 0
  | .vshrU _ _ _ _ _ _ => true
  | .vabs _ _ _ _ => true
  | .vneg _ _ _ _ => true
  | .vsqrt _ _ _ _ => true
  | .vrsqrt _ _ _ _ => true
  | .vrcp _ _ _ _ => true
  | .vexp _ _ _ _ => true
  | .vlog _ _ _ _ => true
  | .vtanh _ _ _ _ => true
  | .vcvt _ _ _ _ _ _ => true
  | .vaddVs _ _ _ _ _ => true
  | .vsubVs _ _ _ _ _ => true
  | .vmulVs _ _ _ _ _ => true
  | .vdivVs _ _ _ _ _ => true
  | .vfmaVs _ _ _ _ _ => true
  | .vminVs _ _ _ _ _ => true
  | .vmaxVs _ _ _ _ _ => true
  | .vdivUVs _ _ _ _ _ => true
  | .vandVs _ _ _ _ _ => true
  | .vorVs _ _ _ _ _ => true
  | .vxorVs _ _ _ _ _ => true
  | .vshlVs _ _ _ _ _ => true
  | .vshrVs _ _ _ _ _ => true
  | .vshrUVs _ _ _ _ _ => true
  | .vsplat _ _ _ => true
  | .viota _ _ _ => true
  | .vcmp _ k _ _ _ _ _ _ => k != 0
  | .kand d _ _ => d != 0
  | .kor d _ _ => d != 0
  | .kxor d _ _ => d != 0
  | .knot d _ => d != 0
  | .ksbf d _ => d != 0
  | .ksif d _ => d != 0
  | .kpop _ _ => true
  | .kfirst _ _ => true
  | .ktail _ _ => true
  | .kld d _ => d != 0
  | .kst _ _ => true
  | .vred _ _ _ _ _ => true
  | .vscan _ _ _ _ _ => true
  | .vcomp _ _ _ _ => true
  | .vexpd _ _ _ _ => true
  | .vperm _ _ _ _ _ _ => true
  | .vforce => true
  | .vdrop d a => d.toNat ≤ a.toNat
  | .mmodeOn n => 1 ≤ n.toNat && n.toNat ≤ 8
  | .mmodeOff => true
  | .mmodeOffRel => true
  | .tileGrant _ => false
  | .mshape _ _ => true
  | .zzero _ => true
  | .mma _ _ b _ _ _ => b.toNat % 8 == 0
  | .mmas _ _ b _ _ _ _ => b.toNat % 16 == 0
  | .zld _ _ _ => true
  | .zst _ _ _ => true
  | .bdim _ r => r.toNat < 48
  | .bcon _ k => 1 ≤ k.toNat && k.toNat ≤ 15
  | .brun _ => true
  | .bondStep => false
  | .bld _ _ => true
  | .bst _ _ => true
  | .cpy _ _ _ => true
  | .cpyComplete _ => false
  | .launch _ => true
  | .launchP _ => true
  | .shape _ _ => true
  | .trig => true
  | .wpred => true
  | .bar => true
  | .endI => true
  | .spawn _ _ _ => true
  | .dqpush _ _ => true
  | .dqpop _ _ => true
  | .dqsteal _ _ _ => true
  | .fwait _ _ => true
  | .fput _ _ => true
  | .yield => true
  | .yieldPauseEnd => false
  | .trace _ _ => true
  | .traceRecordWrite _ => false
  | .vtag d a _ => d.toNat ≤ a.toNat
  | .tok w x s y => (w || s) && tokPart w x && tokPart s y
  | .ext _ => true
  | .passStrip => false
  | .passElementStop _ => false
  | .spadReadRequest => false
  | .spadReadReply => false
  | .spadWrite => false
  | .spadWriteAck => false
  | .hartStart _ _ => false
  | .shapePublication => false
  | .hartConfirm => false
  | .hartSquash => false
  | .timer => false
  | .watchRecord => false
  | .watchimp => false
  | .machine => false
  | .remoteAccessTimeout => false
  | .packageReset _ => false
  | .healthReport => false
  | .healthTimeout _ => false
  | .firmwareUpdate _ => false
  | .mbxCoreDump => false
  | .mbxMigratePage => false
  | .mbxReadSensors => false
  | .mbxAttestation => false
  | .mbxReadEventLog => false
  | .migrationChunkCopied _ => false
  | .linkRetrain _ _ _ => false
  | .powerLimitThrottle => false
  | .powerLimitRecover => false
  | .thermalThrottle _ => false
  | .thermalShutdown => false
  | .laneRemapWrite _ _ _ => false
  | .remoteDeviceAccess _ => false
  | .illegalEncoding => false
  | .fetchFault => false

/-- The instruction is an event of the machine and has no word. -/
def Instr.isEvent : Instr → Bool
  | .add _ _ _ _ => false
  | .addImm _ _ _ => false
  | .sub _ _ _ _ => false
  | .mul _ _ _ _ => false
  | .mulh _ _ _ _ _ => false
  | .div _ _ _ _ _ => false
  | .rem _ _ _ _ _ => false
  | .and _ _ _ _ => false
  | .andImm _ _ _ => false
  | .or _ _ _ _ => false
  | .orImm _ _ _ => false
  | .xor _ _ _ _ => false
  | .xorImm _ _ _ => false
  | .shl _ _ _ _ => false
  | .shr _ _ _ _ => false
  | .sha _ _ _ _ => false
  | .shlImm _ _ _ => false
  | .shrImm _ _ _ => false
  | .shaImm _ _ _ => false
  | .min _ _ _ _ _ => false
  | .max _ _ _ _ _ => false
  | .slt _ _ _ _ _ => false
  | .sltImm _ _ _ => false
  | .sel _ _ _ => false
  | .clz _ _ _ => false
  | .ctz _ _ _ => false
  | .popc _ _ _ => false
  | .li _ _ => false
  | .bfx _ _ _ _ => false
  | .bfxS _ _ _ _ => false
  | .bfi _ _ _ _ => false
  | .fadd _ _ _ _ => false
  | .fsub _ _ _ _ => false
  | .fmul _ _ _ _ => false
  | .fdiv _ _ _ _ => false
  | .fma _ _ _ _ => false
  | .fmin _ _ _ _ => false
  | .fmax _ _ _ _ => false
  | .fcmp _ _ _ _ _ => false
  | .fcvt _ _ _ _ => false
  | .ld _ _ _ _ _ => false
  | .st _ _ _ _ => false
  | .amoAdd _ _ _ _ _ _ => false
  | .amoAnd _ _ _ _ _ _ => false
  | .amoOr _ _ _ _ _ _ => false
  | .amoXor _ _ _ _ _ _ => false
  | .amoMin _ _ _ _ _ _ => false
  | .amoMax _ _ _ _ _ _ => false
  | .amoMinu _ _ _ _ _ _ => false
  | .amoMaxu _ _ _ _ _ _ => false
  | .amoSwap _ _ _ _ _ _ => false
  | .amoCas _ _ _ _ _ _ => false
  | .fenceFull _ => false
  | .fenceRel _ => false
  | .fenceAcq _ => false
  | .fenceEng _ => false
  | .fenceXlat _ => false
  | .fenceInst _ => false
  | .br _ _ _ _ => false
  | .jmp _ => false
  | .call _ _ => false
  | .jmpr _ => false
  | .callr _ _ => false
  | .ret => false
  | .loop _ _ => false
  | .nop => false
  | .trap _ => false
  | .eret => false
  | .brk _ => false
  | .crd _ _ => false
  | .cwr _ _ => false
  | .cwrCtxbase _ => false
  | .cwrTimecmp _ => false
  | .cwrPtbase _ => false
  | .cwrSpillp _ => false
  | .cwrSlots _ => false
  | .cwrLend _ => false
  | .cwrVflags _ => false
  | .cwrMshape _ => false
  | .cwrBndsize _ => false
  | .cwrBstat _ => false
  | .cwrTraceRegs _ _ => false
  | .cwrWatchpoint _ _ => false
  | .vconf _ _ => false
  | .vsetl _ _ _ => false
  | .part _ _ => false
  | .qset _ _ => false
  | .vld _ _ _ _ _ => false
  | .vldx _ _ _ _ _ _ => false
  | .vldff _ _ _ _ => false
  | .vst _ _ _ _ _ => false
  | .vstx _ _ _ _ _ _ => false
  | .vadd _ _ _ _ _ _ => false
  | .vsub _ _ _ _ _ _ => false
  | .vmul _ _ _ _ _ _ => false
  | .vdiv _ _ _ _ _ _ => false
  | .vfma _ _ _ _ _ _ => false
  | .vmin _ _ _ _ _ _ => false
  | .vmax _ _ _ _ _ _ => false
  | .vdivU _ _ _ _ _ _ => false
  | .vand _ _ _ _ _ _ => false
  | .vor _ _ _ _ _ _ => false
  | .vxor _ _ _ _ _ _ => false
  | .vshl _ _ _ _ _ _ => false
  | .vshr _ _ _ _ _ _ => false
  | .vsel _ _ _ _ _ _ => false
  | .vshrU _ _ _ _ _ _ => false
  | .vabs _ _ _ _ => false
  | .vneg _ _ _ _ => false
  | .vsqrt _ _ _ _ => false
  | .vrsqrt _ _ _ _ => false
  | .vrcp _ _ _ _ => false
  | .vexp _ _ _ _ => false
  | .vlog _ _ _ _ => false
  | .vtanh _ _ _ _ => false
  | .vcvt _ _ _ _ _ _ => false
  | .vaddVs _ _ _ _ _ => false
  | .vsubVs _ _ _ _ _ => false
  | .vmulVs _ _ _ _ _ => false
  | .vdivVs _ _ _ _ _ => false
  | .vfmaVs _ _ _ _ _ => false
  | .vminVs _ _ _ _ _ => false
  | .vmaxVs _ _ _ _ _ => false
  | .vdivUVs _ _ _ _ _ => false
  | .vandVs _ _ _ _ _ => false
  | .vorVs _ _ _ _ _ => false
  | .vxorVs _ _ _ _ _ => false
  | .vshlVs _ _ _ _ _ => false
  | .vshrVs _ _ _ _ _ => false
  | .vshrUVs _ _ _ _ _ => false
  | .vsplat _ _ _ => false
  | .viota _ _ _ => false
  | .vcmp _ _ _ _ _ _ _ _ => false
  | .kand _ _ _ => false
  | .kor _ _ _ => false
  | .kxor _ _ _ => false
  | .knot _ _ => false
  | .ksbf _ _ => false
  | .ksif _ _ => false
  | .kpop _ _ => false
  | .kfirst _ _ => false
  | .ktail _ _ => false
  | .kld _ _ => false
  | .kst _ _ => false
  | .vred _ _ _ _ _ => false
  | .vscan _ _ _ _ _ => false
  | .vcomp _ _ _ _ => false
  | .vexpd _ _ _ _ => false
  | .vperm _ _ _ _ _ _ => false
  | .vforce => false
  | .vdrop _ _ => false
  | .mmodeOn _ => false
  | .mmodeOff => false
  | .mmodeOffRel => false
  | .tileGrant _ => true
  | .mshape _ _ => false
  | .zzero _ => false
  | .mma _ _ _ _ _ _ => false
  | .mmas _ _ _ _ _ _ _ => false
  | .zld _ _ _ => false
  | .zst _ _ _ => false
  | .bdim _ _ => false
  | .bcon _ _ => false
  | .brun _ => false
  | .bondStep => true
  | .bld _ _ => false
  | .bst _ _ => false
  | .cpy _ _ _ => false
  | .cpyComplete _ => true
  | .launch _ => false
  | .launchP _ => false
  | .shape _ _ => false
  | .trig => false
  | .wpred => false
  | .bar => false
  | .endI => false
  | .spawn _ _ _ => false
  | .dqpush _ _ => false
  | .dqpop _ _ => false
  | .dqsteal _ _ _ => false
  | .fwait _ _ => false
  | .fput _ _ => false
  | .yield => false
  | .yieldPauseEnd => true
  | .trace _ _ => false
  | .traceRecordWrite _ => true
  | .vtag _ _ _ => false
  | .tok _ _ _ _ => false
  | .ext _ => false
  | .passStrip => true
  | .passElementStop _ => true
  | .spadReadRequest => true
  | .spadReadReply => true
  | .spadWrite => true
  | .spadWriteAck => true
  | .hartStart _ _ => true
  | .shapePublication => true
  | .hartConfirm => true
  | .hartSquash => true
  | .timer => true
  | .watchRecord => true
  | .watchimp => true
  | .machine => true
  | .remoteAccessTimeout => true
  | .packageReset _ => true
  | .healthReport => true
  | .healthTimeout _ => true
  | .firmwareUpdate _ => true
  | .mbxCoreDump => true
  | .mbxMigratePage => true
  | .mbxReadSensors => true
  | .mbxAttestation => true
  | .mbxReadEventLog => true
  | .migrationChunkCopied _ => true
  | .linkRetrain _ _ _ => true
  | .powerLimitThrottle => true
  | .powerLimitRecover => true
  | .thermalThrottle _ => true
  | .thermalShutdown => true
  | .laneRemapWrite _ _ _ => true
  | .remoteDeviceAccess _ => true
  | .illegalEncoding => true
  | .fetchFault => true

end Sys2Proof
end

