-- ==== Sys2Proof/Decode.lean ====
section
/-! DEFINITION. The decoder, written from the encoding tables of 03_formats.md (R35 to R56), and after it the encoder.
An instruction word is handled as the natural number its 32 bits make (R32). -/

namespace Sys2Proof

/-- The n-bit field of w whose lowest bit is bit lo (00_scope.md R2, R8). -/
def fld (w lo n : Nat) : Nat := w / 2 ^ lo % 2 ^ n

/-- The same field as a bit vector. -/
def bv (w lo n : Nat) : BitVec n := BitVec.ofNat n (w / 2 ^ lo)

/-- Bit lo of w. -/
def bit (w lo : Nat) : Bool := w / 2 ^ lo % 2 == 1

/-- Major 0x01, format S3 (R37, R45). -/
def decode01 (w : Nat) : Option Instr :=
  match fld w 6 5 with
  | 0 => if fld w 0 1 = 0 ∧ fld w 2 4 = 0 then some (.add (bv w 21 5) (bv w 16 5) (bv w 11 5) (bit w 1)) else none
  | 1 => if fld w 0 1 = 0 ∧ fld w 2 4 = 0 then some (.sub (bv w 21 5) (bv w 16 5) (bv w 11 5) (bit w 1)) else none
  | 2 => if fld w 0 1 = 0 ∧ fld w 2 4 = 0 then some (.mul (bv w 21 5) (bv w 16 5) (bv w 11 5) (bit w 1)) else none
  | 3 => if fld w 2 4 = 0 then some (.mulh (bv w 21 5) (bv w 16 5) (bv w 11 5) (bit w 1) (bit w 0)) else none
  | 4 => if fld w 2 4 = 0 then some (.div (bv w 21 5) (bv w 16 5) (bv w 11 5) (bit w 1) (bit w 0)) else none
  | 5 => if fld w 2 4 = 0 then some (.rem (bv w 21 5) (bv w 16 5) (bv w 11 5) (bit w 1) (bit w 0)) else none
  | 6 => if fld w 0 1 = 0 ∧ fld w 2 4 = 0 then some (.and (bv w 21 5) (bv w 16 5) (bv w 11 5) (bit w 1)) else none
  | 7 => if fld w 0 1 = 0 ∧ fld w 2 4 = 0 then some (.or (bv w 21 5) (bv w 16 5) (bv w 11 5) (bit w 1)) else none
  | 8 => if fld w 0 1 = 0 ∧ fld w 2 4 = 0 then some (.xor (bv w 21 5) (bv w 16 5) (bv w 11 5) (bit w 1)) else none
  | 9 => if fld w 0 1 = 0 ∧ fld w 2 4 = 0 then some (.shl (bv w 21 5) (bv w 16 5) (bv w 11 5) (bit w 1)) else none
  | 10 => if fld w 0 1 = 0 ∧ fld w 2 4 = 0 then some (.shr (bv w 21 5) (bv w 16 5) (bv w 11 5) (bit w 1)) else none
  | 11 => if fld w 0 1 = 0 ∧ fld w 2 4 = 0 then some (.sha (bv w 21 5) (bv w 16 5) (bv w 11 5) (bit w 1)) else none
  | 12 => if fld w 2 4 = 0 then some (.min (bv w 21 5) (bv w 16 5) (bv w 11 5) (bit w 1) (bit w 0)) else none
  | 13 => if fld w 2 4 = 0 then some (.max (bv w 21 5) (bv w 16 5) (bv w 11 5) (bit w 1) (bit w 0)) else none
  | 14 => if fld w 2 4 = 0 then some (.slt (bv w 21 5) (bv w 16 5) (bv w 11 5) (bit w 1) (bit w 0)) else none
  | 15 => if fld w 0 6 = 0 then some (.sel (bv w 21 5) (bv w 16 5) (bv w 11 5)) else none
  | 16 => if fld w 0 1 = 0 ∧ fld w 11 5 = 0 ∧ fld w 2 4 = 0 then some (.clz (bv w 21 5) (bv w 16 5) (bit w 1)) else none
  | 17 => if fld w 0 1 = 0 ∧ fld w 11 5 = 0 ∧ fld w 2 4 = 0 then some (.ctz (bv w 21 5) (bv w 16 5) (bit w 1)) else none
  | 18 => if fld w 0 1 = 0 ∧ fld w 11 5 = 0 ∧ fld w 2 4 = 0 then some (.popc (bv w 21 5) (bv w 16 5) (bit w 1)) else none
  | _ => none

/-- Major 0x02, format SI (R38). -/
def decode02 (w : Nat) : Option Instr :=
  some (.addImm (bv w 21 5) (bv w 16 5) (bv w 0 16))

/-- Major 0x03, format SI (R38). -/
def decode03 (w : Nat) : Option Instr :=
  some (.andImm (bv w 21 5) (bv w 16 5) (bv w 0 16))

/-- Major 0x04, format SI (R38). -/
def decode04 (w : Nat) : Option Instr :=
  some (.orImm (bv w 21 5) (bv w 16 5) (bv w 0 16))

/-- Major 0x05, format SI (R38). -/
def decode05 (w : Nat) : Option Instr :=
  some (.xorImm (bv w 21 5) (bv w 16 5) (bv w 0 16))

/-- Major 0x06, format SI (R38). -/
def decode06 (w : Nat) : Option Instr :=
  match fld w 6 2 with
  | 0 => if fld w 8 8 = 0 then some (.shlImm (bv w 21 5) (bv w 16 5) (bv w 0 6)) else none
  | 1 => if fld w 8 8 = 0 then some (.shrImm (bv w 21 5) (bv w 16 5) (bv w 0 6)) else none
  | 2 => if fld w 8 8 = 0 then some (.shaImm (bv w 21 5) (bv w 16 5) (bv w 0 6)) else none
  | _ => none

/-- Major 0x07, format SI (R38). -/
def decode07 (w : Nat) : Option Instr :=
  some (.sltImm (bv w 21 5) (bv w 16 5) (bv w 0 16))

/-- Major 0x08, format LI (R38). -/
def decode08 (w : Nat) : Option Instr :=
  some (.li (bv w 21 5) (bv w 0 21))

/-- Major 0x09, format BF (R47). -/
def decode09 (w : Nat) : Option Instr :=
  match fld w 0 3 with
  | 0 => some (.bfx (bv w 21 5) (bv w 16 5) (bv w 10 6) (bv w 3 7))
  | 1 => some (.bfxS (bv w 21 5) (bv w 16 5) (bv w 10 6) (bv w 3 7))
  | 2 => some (.bfi (bv w 21 5) (bv w 16 5) (bv w 10 6) (bv w 3 7))
  | _ => none

/-- Major 0x0A, format S3 (R37, R46). -/
def decode0A (w : Nat) : Option Instr :=
  match fld w 6 5 with
  | 0 => if fld w 0 1 = 0 ∧ fld w 2 4 = 0 then some (.fadd (bv w 21 5) (bv w 16 5) (bv w 11 5) (bit w 1)) else none
  | 1 => if fld w 0 1 = 0 ∧ fld w 2 4 = 0 then some (.fsub (bv w 21 5) (bv w 16 5) (bv w 11 5) (bit w 1)) else none
  | 2 => if fld w 0 1 = 0 ∧ fld w 2 4 = 0 then some (.fmul (bv w 21 5) (bv w 16 5) (bv w 11 5) (bit w 1)) else none
  | 3 => if fld w 0 1 = 0 ∧ fld w 2 4 = 0 then some (.fdiv (bv w 21 5) (bv w 16 5) (bv w 11 5) (bit w 1)) else none
  | 4 => if fld w 0 1 = 0 ∧ fld w 2 4 = 0 then some (.fma (bv w 21 5) (bv w 16 5) (bv w 11 5) (bit w 1)) else none
  | 5 => if fld w 0 1 = 0 ∧ fld w 2 4 = 0 then some (.fmin (bv w 21 5) (bv w 16 5) (bv w 11 5) (bit w 1)) else none
  | 6 => if fld w 0 1 = 0 ∧ fld w 2 4 = 0 then some (.fmax (bv w 21 5) (bv w 16 5) (bv w 11 5) (bit w 1)) else none
  | 7 => if fld w 0 1 = 0 ∧ fld w 4 2 = 0 then (FcmpCond.ofCode (fld w 2 2)).bind fun c => some (.fcmp (bv w 21 5) (bv w 16 5) (bv w 11 5) c (bit w 1)) else none
  | 8 => if fld w 0 1 = 0 ∧ fld w 2 4 = 0 then (FcvtOp.ofCode (fld w 11 5)).bind fun c => some (.fcvt (bv w 21 5) (bv w 16 5) c (bit w 1)) else none
  | _ => none

/-- Major 0x0B, format M (R47). -/
def decode0B (w : Nat) : Option Instr :=
  (MemSize.ofCode (fld w 14 2)).bind fun z => some (.ld (bv w 21 5) (bv w 16 5) z (bit w 13) (bv w 0 13))

/-- Major 0x0C, format M (R47). -/
def decode0C (w : Nat) : Option Instr :=
  if fld w 13 1 = 0 then (MemSize.ofCode (fld w 14 2)).bind fun z => some (.st (bv w 21 5) (bv w 16 5) z (bv w 0 13)) else none

/-- Major 0x0D, format A (R47). -/
def decode0D (w : Nat) : Option Instr :=
  match fld w 7 4 with
  | 0 => if fld w 0 1 = 0 then (AmoOrder.ofCode (fld w 4 2)).bind fun r => (Scope.ofCode (fld w 1 3)).bind fun s => some (.amoAdd (bv w 21 5) (bv w 16 5) (bv w 11 5) (bit w 6) r s) else none
  | 1 => if fld w 0 1 = 0 then (AmoOrder.ofCode (fld w 4 2)).bind fun r => (Scope.ofCode (fld w 1 3)).bind fun s => some (.amoAnd (bv w 21 5) (bv w 16 5) (bv w 11 5) (bit w 6) r s) else none
  | 2 => if fld w 0 1 = 0 then (AmoOrder.ofCode (fld w 4 2)).bind fun r => (Scope.ofCode (fld w 1 3)).bind fun s => some (.amoOr (bv w 21 5) (bv w 16 5) (bv w 11 5) (bit w 6) r s) else none
  | 3 => if fld w 0 1 = 0 then (AmoOrder.ofCode (fld w 4 2)).bind fun r => (Scope.ofCode (fld w 1 3)).bind fun s => some (.amoXor (bv w 21 5) (bv w 16 5) (bv w 11 5) (bit w 6) r s) else none
  | 4 => if fld w 0 1 = 0 then (AmoOrder.ofCode (fld w 4 2)).bind fun r => (Scope.ofCode (fld w 1 3)).bind fun s => some (.amoMin (bv w 21 5) (bv w 16 5) (bv w 11 5) (bit w 6) r s) else none
  | 5 => if fld w 0 1 = 0 then (AmoOrder.ofCode (fld w 4 2)).bind fun r => (Scope.ofCode (fld w 1 3)).bind fun s => some (.amoMax (bv w 21 5) (bv w 16 5) (bv w 11 5) (bit w 6) r s) else none
  | 6 => if fld w 0 1 = 0 then (AmoOrder.ofCode (fld w 4 2)).bind fun r => (Scope.ofCode (fld w 1 3)).bind fun s => some (.amoMinu (bv w 21 5) (bv w 16 5) (bv w 11 5) (bit w 6) r s) else none
  | 7 => if fld w 0 1 = 0 then (AmoOrder.ofCode (fld w 4 2)).bind fun r => (Scope.ofCode (fld w 1 3)).bind fun s => some (.amoMaxu (bv w 21 5) (bv w 16 5) (bv w 11 5) (bit w 6) r s) else none
  | 8 => if fld w 0 1 = 0 then (AmoOrder.ofCode (fld w 4 2)).bind fun r => (Scope.ofCode (fld w 1 3)).bind fun s => some (.amoSwap (bv w 21 5) (bv w 16 5) (bv w 11 5) (bit w 6) r s) else none
  | 9 => if fld w 0 1 = 0 then (AmoOrder.ofCode (fld w 4 2)).bind fun r => (Scope.ofCode (fld w 1 3)).bind fun s => some (.amoCas (bv w 21 5) (bv w 16 5) (bv w 11 5) (bit w 6) r s) else none
  | _ => none

/-- Major 0x0E, format FN (R47). -/
def decode0E (w : Nat) : Option Instr :=
  match fld w 23 3 with
  | 0 => if fld w 0 20 = 0 then (Scope.ofCode (fld w 20 3)).bind fun s => some (.fenceFull s) else none
  | 1 => if fld w 0 20 = 0 then (Scope.ofCode (fld w 20 3)).bind fun s => some (.fenceRel s) else none
  | 2 => if fld w 0 20 = 0 then (Scope.ofCode (fld w 20 3)).bind fun s => some (.fenceAcq s) else none
  | 3 => if fld w 0 20 = 0 then (Scope.ofCode (fld w 20 3)).bind fun s => some (.fenceEng s) else none
  | 4 => if fld w 0 20 = 0 then (Scope.ofCode (fld w 20 3)).bind fun s => some (.fenceXlat s) else none
  | 5 => if fld w 0 20 = 0 then (Scope.ofCode (fld w 20 3)).bind fun s => some (.fenceInst s) else none
  | _ => none

/-- Major 0x10, format B (R47). -/
def decode10 (w : Nat) : Option Instr :=
  (BrCond.ofCode (fld w 23 3)).bind fun c => some (.br c (bv w 18 5) (bv w 13 5) (bv w 0 13))

/-- Major 0x11, format J (R35). -/
def decode11 (w : Nat) : Option Instr :=
  some (.jmp (bv w 0 26))

/-- Major 0x12, format CALL (R47). -/
def decode12 (w : Nat) : Option Instr :=
  (Frame.ofCode (fld w 24 2)).bind fun f => some (.call f (bv w 0 24))

/-- Major 0x13, format JR (R47). -/
def decode13 (w : Nat) : Option Instr :=
  match fld w 14 2 with
  | 0 => if fld w 0 14 = 0 ∧ fld w 21 5 = 0 then some (.jmpr (bv w 16 5)) else none
  | 1 => if fld w 0 12 = 0 ∧ fld w 21 5 = 0 then (Frame.ofCode (fld w 12 2)).bind fun f => some (.callr (bv w 16 5) f) else none
  | 2 => if fld w 16 10 = 0 ∧ fld w 0 14 = 0 then some .ret else none
  | _ => none

/-- Major 0x14, format LOOP (R47). -/
def decode14 (w : Nat) : Option Instr :=
  some (.loop (bv w 21 5) (bv w 0 21))

/-- Major 0x15, format SYS (R47). -/
def decode15 (w : Nat) : Option Instr :=
  match fld w 16 5 with
  | 0 => if fld w 21 5 = 0 ∧ fld w 0 16 = 0 then some .nop else none
  | 1 => if fld w 21 5 = 0 then some (.trap (bv w 0 16)) else none
  | 2 => if fld w 21 5 = 0 ∧ fld w 0 16 = 0 then some .eret else none
  | 3 => if fld w 21 5 = 0 then some (.brk (bv w 0 16)) else none
  | _ => none

/-- Major 0x16, format C (R69, R70). -/
def decode16 (w : Nat) : Option Instr :=
  if fld w 16 5 = 0 then some (.crd (bv w 21 5) (bv w 0 16)) else none

/-- Major 0x17, format C (R69, R70). -/
def decode17 (w : Nat) : Option Instr :=
  if fld w 16 5 = 0 then
    match fld w 0 16 with
    | 777 => some (.cwrCtxbase (bv w 21 5))
    | 776 => some (.cwrTimecmp (bv w 21 5))
    | 774 => some (.cwrPtbase (bv w 21 5))
    | 773 => some (.cwrSpillp (bv w 21 5))
    | 515 => some (.cwrSlots (bv w 21 5))
    | 11 => some (.cwrLend (bv w 21 5))
    | 8 => some (.cwrVflags (bv w 21 5))
    | 1280 => some (.cwrMshape (bv w 21 5))
    | 1282 => some (.cwrBndsize (bv w 21 5))
    | 1283 => some (.cwrBstat (bv w 21 5))
    | n =>
      if n / 4 = 256 then some (.cwrTraceRegs (bv w 21 5) (bv w 0 2))
      else if n / 16 = 65 then some (.cwrWatchpoint (bv w 21 5) (bv w 0 4))
      else some (.cwr (bv w 21 5) (bv w 0 16))
  else none

/-- Major 0x18, format S3 (R48). -/
def decode18 (w : Nat) : Option Instr :=
  match fld w 6 5 with
  | 0 => if fld w 11 5 = 0 ∧ fld w 0 6 = 0 then some (.vconf (bv w 21 5) (bv w 16 5)) else none
  | 1 => if fld w 0 6 = 0 then some (.vsetl (bv w 21 5) (bv w 16 5) (bv w 11 5)) else none
  | 2 => if fld w 11 5 = 0 ∧ fld w 0 6 = 0 then some (.part (bv w 21 5) (bv w 16 5)) else none
  | _ => none

/-- Major 0x19, format E (R56). -/
def decode19 (w : Nat) : Option Instr :=
  if fld w 4 17 = 0 then some (.qset (bv w 21 5) (bv w 0 4)) else none

/-- Major 0x1A, format Q (R53). -/
def decode1A (w : Nat) : Option Instr :=
  match fld w 3 3 with
  | 0 => if fld w 0 2 = 0 ∧ fld w 10 6 = 0 then some (.vld (bv w 20 6) (bv w 16 4) (bit w 9) (bv w 6 3) (bit w 2)) else none
  | 1 => if fld w 0 2 = 0 then some (.vldx (bv w 20 6) (bv w 16 4) (bv w 10 6) (bit w 9) (bv w 6 3) (bit w 2)) else none
  | 2 => if fld w 0 3 = 0 ∧ fld w 10 6 = 0 then some (.vldff (bv w 20 6) (bv w 16 4) (bit w 9) (bv w 6 3)) else none
  | _ => none

/-- Major 0x1B, format Q (R53). -/
def decode1B (w : Nat) : Option Instr :=
  match fld w 3 3 with
  | 0 => if fld w 0 2 = 0 ∧ fld w 10 6 = 0 then some (.vst (bv w 20 6) (bv w 16 4) (bit w 9) (bv w 6 3) (bit w 2)) else none
  | 1 => if fld w 0 2 = 0 then some (.vstx (bv w 20 6) (bv w 16 4) (bv w 10 6) (bit w 9) (bv w 6 3) (bit w 2)) else none
  | _ => none

/-- Major 0x1C, format V (R49). -/
def decode1C (w : Nat) : Option Instr :=
  match fld w 0 3 with
  | 0 => some (.vadd (bv w 20 6) (bv w 14 6) (bv w 8 6) (bit w 7) (bit w 6) (bv w 3 3))
  | 1 => some (.vsub (bv w 20 6) (bv w 14 6) (bv w 8 6) (bit w 7) (bit w 6) (bv w 3 3))
  | 2 => some (.vmul (bv w 20 6) (bv w 14 6) (bv w 8 6) (bit w 7) (bit w 6) (bv w 3 3))
  | 3 => some (.vdiv (bv w 20 6) (bv w 14 6) (bv w 8 6) (bit w 7) (bit w 6) (bv w 3 3))
  | 4 => some (.vfma (bv w 20 6) (bv w 14 6) (bv w 8 6) (bit w 7) (bit w 6) (bv w 3 3))
  | 5 => some (.vmin (bv w 20 6) (bv w 14 6) (bv w 8 6) (bit w 7) (bit w 6) (bv w 3 3))
  | 6 => some (.vmax (bv w 20 6) (bv w 14 6) (bv w 8 6) (bit w 7) (bit w 6) (bv w 3 3))
  | 7 => some (.vdivU (bv w 20 6) (bv w 14 6) (bv w 8 6) (bit w 7) (bit w 6) (bv w 3 3))
  | _ => none

/-- Major 0x1D, format V (R49). -/
def decode1D (w : Nat) : Option Instr :=
  match fld w 0 3 with
  | 0 => some (.vand (bv w 20 6) (bv w 14 6) (bv w 8 6) (bit w 7) (bit w 6) (bv w 3 3))
  | 1 => some (.vor (bv w 20 6) (bv w 14 6) (bv w 8 6) (bit w 7) (bit w 6) (bv w 3 3))
  | 2 => some (.vxor (bv w 20 6) (bv w 14 6) (bv w 8 6) (bit w 7) (bit w 6) (bv w 3 3))
  | 3 => some (.vshl (bv w 20 6) (bv w 14 6) (bv w 8 6) (bit w 7) (bit w 6) (bv w 3 3))
  | 4 => some (.vshr (bv w 20 6) (bv w 14 6) (bv w 8 6) (bit w 7) (bit w 6) (bv w 3 3))
  | 5 => some (.vsel (bv w 20 6) (bv w 14 6) (bv w 8 6) (bit w 7) (bit w 6) (bv w 3 3))
  | 6 => some (.vshrU (bv w 20 6) (bv w 14 6) (bv w 8 6) (bit w 7) (bit w 6) (bv w 3 3))
  | _ => none

/-- Major 0x1E, format V (R50). -/
def decode1E (w : Nat) : Option Instr :=
  match fld w 8 6 with
  | 0 => if fld w 0 3 = 0 ∧ fld w 6 1 = 0 then some (.vabs (bv w 20 6) (bv w 14 6) (bit w 7) (bv w 3 3)) else none
  | 1 => if fld w 0 3 = 0 ∧ fld w 6 1 = 0 then some (.vneg (bv w 20 6) (bv w 14 6) (bit w 7) (bv w 3 3)) else none
  | 2 => if fld w 0 3 = 0 ∧ fld w 6 1 = 0 then some (.vsqrt (bv w 20 6) (bv w 14 6) (bit w 7) (bv w 3 3)) else none
  | 3 => if fld w 0 3 = 0 ∧ fld w 6 1 = 0 then some (.vrsqrt (bv w 20 6) (bv w 14 6) (bit w 7) (bv w 3 3)) else none
  | 4 => if fld w 0 3 = 0 ∧ fld w 6 1 = 0 then some (.vrcp (bv w 20 6) (bv w 14 6) (bit w 7) (bv w 3 3)) else none
  | 5 => if fld w 0 3 = 0 ∧ fld w 6 1 = 0 then some (.vexp (bv w 20 6) (bv w 14 6) (bit w 7) (bv w 3 3)) else none
  | 6 => if fld w 0 3 = 0 ∧ fld w 6 1 = 0 then some (.vlog (bv w 20 6) (bv w 14 6) (bit w 7) (bv w 3 3)) else none
  | 7 => if fld w 0 3 = 0 ∧ fld w 6 1 = 0 then some (.vtanh (bv w 20 6) (bv w 14 6) (bit w 7) (bv w 3 3)) else none
  | 8 => (VRound.ofCode (fld w 0 3)).bind fun r => some (.vcvt (bv w 20 6) (bv w 14 6) (bit w 7) (bit w 6) (bv w 3 3) r)
  | _ => none

/-- Major 0x1F, format VS (R52). -/
def decode1F (w : Nat) : Option Instr :=
  match fld w 0 5 with
  | 0 => some (.vaddVs (bv w 20 6) (bv w 14 6) (bv w 9 5) (bit w 8) (bv w 5 3))
  | 1 => some (.vsubVs (bv w 20 6) (bv w 14 6) (bv w 9 5) (bit w 8) (bv w 5 3))
  | 2 => some (.vmulVs (bv w 20 6) (bv w 14 6) (bv w 9 5) (bit w 8) (bv w 5 3))
  | 3 => some (.vdivVs (bv w 20 6) (bv w 14 6) (bv w 9 5) (bit w 8) (bv w 5 3))
  | 4 => some (.vfmaVs (bv w 20 6) (bv w 14 6) (bv w 9 5) (bit w 8) (bv w 5 3))
  | 5 => some (.vminVs (bv w 20 6) (bv w 14 6) (bv w 9 5) (bit w 8) (bv w 5 3))
  | 6 => some (.vmaxVs (bv w 20 6) (bv w 14 6) (bv w 9 5) (bit w 8) (bv w 5 3))
  | 7 => some (.vdivUVs (bv w 20 6) (bv w 14 6) (bv w 9 5) (bit w 8) (bv w 5 3))
  | 8 => some (.vandVs (bv w 20 6) (bv w 14 6) (bv w 9 5) (bit w 8) (bv w 5 3))
  | 9 => some (.vorVs (bv w 20 6) (bv w 14 6) (bv w 9 5) (bit w 8) (bv w 5 3))
  | 10 => some (.vxorVs (bv w 20 6) (bv w 14 6) (bv w 9 5) (bit w 8) (bv w 5 3))
  | 11 => some (.vshlVs (bv w 20 6) (bv w 14 6) (bv w 9 5) (bit w 8) (bv w 5 3))
  | 12 => some (.vshrVs (bv w 20 6) (bv w 14 6) (bv w 9 5) (bit w 8) (bv w 5 3))
  | 14 => some (.vshrUVs (bv w 20 6) (bv w 14 6) (bv w 9 5) (bit w 8) (bv w 5 3))
  | 16 => if fld w 8 1 = 0 ∧ fld w 14 6 = 0 then some (.vsplat (bv w 20 6) (bv w 9 5) (bv w 5 3)) else none
  | 17 => if fld w 8 1 = 0 ∧ fld w 14 6 = 0 then some (.viota (bv w 20 6) (bv w 9 5) (bv w 5 3)) else none
  | _ => none

/-- Major 0x20, format V (R49). -/
def decode20 (w : Nat) : Option Instr :=
  if fld w 25 1 = 0 then (VRel.ofCode (fld w 0 3)).bind fun r => some (.vcmp (bit w 24) (bv w 20 4) (bv w 14 6) (bv w 8 6) (bit w 7) (bit w 6) (bv w 3 3) r) else none

/-- Major 0x21, format K (R54). -/
def decode21 (w : Nat) : Option Instr :=
  match fld w 4 4 with
  | 0 => if fld w 8 6 = 0 ∧ fld w 0 4 = 0 then some (.kand (bv w 22 4) (bv w 18 4) (bv w 14 4)) else none
  | 1 => if fld w 8 6 = 0 ∧ fld w 0 4 = 0 then some (.kor (bv w 22 4) (bv w 18 4) (bv w 14 4)) else none
  | 2 => if fld w 8 6 = 0 ∧ fld w 0 4 = 0 then some (.kxor (bv w 22 4) (bv w 18 4) (bv w 14 4)) else none
  | 3 => if fld w 8 10 = 0 ∧ fld w 0 4 = 0 then some (.knot (bv w 22 4) (bv w 18 4)) else none
  | 4 => if fld w 8 10 = 0 ∧ fld w 0 4 = 0 then some (.ksbf (bv w 22 4) (bv w 18 4)) else none
  | 5 => if fld w 8 10 = 0 ∧ fld w 0 4 = 0 then some (.ksif (bv w 22 4) (bv w 18 4)) else none
  | 6 => if fld w 8 1 = 0 ∧ fld w 0 4 = 0 ∧ fld w 14 4 = 0 ∧ fld w 22 4 = 0 then some (.kpop (bv w 18 4) (bv w 9 5)) else none
  | 7 => if fld w 8 1 = 0 ∧ fld w 0 4 = 0 ∧ fld w 14 4 = 0 ∧ fld w 22 4 = 0 then some (.kfirst (bv w 18 4) (bv w 9 5)) else none
  | 8 => if fld w 8 1 = 0 ∧ fld w 0 4 = 0 ∧ fld w 14 4 = 0 ∧ fld w 22 4 = 0 then some (.ktail (bv w 18 4) (bv w 9 5)) else none
  | 9 => if fld w 8 1 = 0 ∧ fld w 0 4 = 0 ∧ fld w 14 8 = 0 then some (.kld (bv w 22 4) (bv w 9 5)) else none
  | 10 => if fld w 8 1 = 0 ∧ fld w 0 4 = 0 ∧ fld w 14 4 = 0 ∧ fld w 22 4 = 0 then some (.kst (bv w 18 4) (bv w 9 5)) else none
  | _ => none

/-- Major 0x22, format V (R51). -/
def decode22 (w : Nat) : Option Instr :=
  match fld w 0 3 with
  | 0 => if fld w 6 1 = 0 ∧ fld w 25 1 = 0 then (RedOp.ofCode (fld w 8 6)).bind fun o => some (.vred (bv w 20 5) (bv w 14 6) o (bit w 7) (bv w 3 3)) else none
  | 1 => if fld w 6 1 = 0 then (RedOp.ofCode (fld w 8 6)).bind fun o => some (.vscan (bv w 20 6) (bv w 14 6) o (bit w 7) (bv w 3 3)) else none
  | 2 => if fld w 6 1 = 0 ∧ fld w 8 6 = 0 then some (.vcomp (bv w 20 6) (bv w 14 6) (bit w 7) (bv w 3 3)) else none
  | 3 => if fld w 6 1 = 0 ∧ fld w 8 6 = 0 then some (.vexpd (bv w 20 6) (bv w 14 6) (bit w 7) (bv w 3 3)) else none
  | 4 => some (.vperm (bv w 20 6) (bv w 14 6) (bv w 8 6) (bit w 7) (bit w 6) (bv w 3 3))
  | _ => none

/-- Major 0x23, format V (R49). -/
def decode23 (w : Nat) : Option Instr :=
  match fld w 0 3 with
  | 0 => if fld w 3 23 = 0 then some .vforce else none
  | 1 => if fld w 3 11 = 0 then some (.vdrop (bv w 20 6) (bv w 14 6)) else none
  | _ => none

/-- Major 0x24, format MX (R55). -/
def decode24 (w : Nat) : Option Instr :=
  if fld w 0 17 = 64 ∧ fld w 23 3 = 0 then
    some (.mmodeOn (bv w 17 6))
  else if fld w 0 26 = 0 then
    some .mmodeOff
  else if fld w 0 26 = 32 then
    some .mmodeOffRel
  else if fld w 0 12 = 8 ∧ fld w 17 1 = 0 ∧ fld w 23 3 = 0 then
    some (.mshape (bv w 18 5) (bv w 12 5))
  else if fld w 0 23 = 16 then
    some (.zzero (bv w 23 3))
  else none

/-- Major 0x25, format MX (R55). -/
def decode25 (w : Nat) : Option Instr :=
  if fld w 0 3 = 0 ∧ fld w 7 4 = 0 then
    (MmaAcc.ofCode (fld w 3 2)).bind fun c => some (.mma (bv w 23 3) (bv w 17 6) (bv w 11 6) (bit w 6) (bit w 5) c)
  else if fld w 0 3 = 0 ∧ fld w 10 1 = 1 then
    (MmaAcc.ofCode (fld w 3 2)).bind fun c => some (.mmas (bv w 23 3) (bv w 17 6) (bv w 11 6) (bv w 7 3) (bit w 6) (bit w 5) c)
  else none

/-- Major 0x26, format MX (R55). -/
def decode26 (w : Nat) : Option Instr :=
  match fld w 3 2 with
  | 0 => if fld w 5 7 = 0 ∧ fld w 0 3 = 0 ∧ fld w 17 1 = 0 then some (.zld (bv w 23 3) (bv w 18 5) (bv w 12 5)) else none
  | 1 => if fld w 5 7 = 0 ∧ fld w 0 3 = 0 ∧ fld w 17 1 = 0 then some (.zst (bv w 23 3) (bv w 18 5) (bv w 12 5)) else none
  | _ => none

/-- Major 0x27, format E (R56). -/
def decode27 (w : Nat) : Option Instr :=
  match fld w 6 5 with
  | 0 => if fld w 11 10 = 0 then some (.bdim (bv w 21 5) (bv w 0 6)) else none
  | 1 => if fld w 11 10 = 0 then some (.bcon (bv w 21 5) (bv w 0 6)) else none
  | 2 => if fld w 11 10 = 0 ∧ fld w 0 6 = 0 then some (.brun (bv w 21 5)) else none
  | 3 => if fld w 11 5 = 0 ∧ fld w 0 6 = 0 then some (.bld (bv w 21 5) (bv w 16 5)) else none
  | 4 => if fld w 11 5 = 0 ∧ fld w 0 6 = 0 then some (.bst (bv w 21 5) (bv w 16 5)) else none
  | _ => none

/-- Major 0x28, format E (R56). -/
def decode28 (w : Nat) : Option Instr :=
  if fld w 0 11 = 0 then some (.cpy (bv w 21 5) (bv w 16 5) (bv w 11 5)) else none

/-- Major 0x29, format E (R56). -/
def decode29 (w : Nat) : Option Instr :=
  match fld w 6 5 with
  | 0 => if fld w 11 10 = 0 ∧ fld w 0 6 = 0 then some (.launch (bv w 21 5)) else none
  | 1 => if fld w 11 10 = 0 ∧ fld w 0 6 = 0 then some (.launchP (bv w 21 5)) else none
  | 2 => if fld w 11 5 = 0 ∧ fld w 0 6 = 0 then some (.shape (bv w 21 5) (bv w 16 5)) else none
  | 3 => if fld w 11 15 = 0 ∧ fld w 0 6 = 0 then some .trig else none
  | 4 => if fld w 11 15 = 0 ∧ fld w 0 6 = 0 then some .wpred else none
  | 5 => if fld w 11 15 = 0 ∧ fld w 0 6 = 0 then some .bar else none
  | 6 => if fld w 11 15 = 0 ∧ fld w 0 6 = 0 then some .endI else none
  | _ => none

/-- Major 0x2A, format E (R56). -/
def decode2A (w : Nat) : Option Instr :=
  match fld w 6 5 with
  | 0 => if fld w 0 6 = 0 then some (.spawn (bv w 21 5) (bv w 16 5) (bv w 11 5)) else none
  | 1 => if fld w 11 5 = 0 ∧ fld w 0 6 = 0 then some (.dqpush (bv w 21 5) (bv w 16 5)) else none
  | 2 => if fld w 11 5 = 0 ∧ fld w 0 6 = 0 then some (.dqpop (bv w 21 5) (bv w 16 5)) else none
  | 3 => if fld w 0 6 = 0 then some (.dqsteal (bv w 21 5) (bv w 16 5) (bv w 11 5)) else none
  | _ => none

/-- Major 0x2B, format E (R56). -/
def decode2B (w : Nat) : Option Instr :=
  match fld w 6 5 with
  | 0 => if fld w 11 5 = 0 ∧ fld w 0 6 = 0 then some (.fwait (bv w 21 5) (bv w 16 5)) else none
  | 1 => if fld w 11 5 = 0 ∧ fld w 0 6 = 0 then some (.fput (bv w 21 5) (bv w 16 5)) else none
  | 2 => if fld w 11 15 = 0 ∧ fld w 0 6 = 0 then some .yield else none
  | _ => none

/-- Major 0x2C, format E (R56). -/
def decode2C (w : Nat) : Option Instr :=
  if fld w 6 15 = 0 then some (.trace (bv w 21 5) (bv w 0 6)) else none

/-- Major 0x2D, format V (R49). -/
def decode2D (w : Nat) : Option Instr :=
  if fld w 3 11 = 0 then (Tag.ofCode (fld w 0 3)).bind fun t => some (.vtag (bv w 20 6) (bv w 14 6) t) else none

/-- Major 0x30, format TOK (R41). -/
def decode30 (w : Nat) : Option Instr :=
  if fld w 0 18 = 0 then some (.tok (bit w 25) (bv w 22 3) (bit w 21) (bv w 18 3)) else none

/-- Major 0x31, format EXT (R38). -/
def decode31 (w : Nat) : Option Instr :=
  some (.ext (bv w 0 26))

/-- The instruction of a word by the major map, before the checks of the fields' ranges; a word with an
unallocated or reserved major, function or a nonzero reserved field has none (R35, R44). -/
def decodeFields (w : Nat) : Option Instr :=
  match fld w 26 6 with
  | 1 => decode01 w
  | 2 => decode02 w
  | 3 => decode03 w
  | 4 => decode04 w
  | 5 => decode05 w
  | 6 => decode06 w
  | 7 => decode07 w
  | 8 => decode08 w
  | 9 => decode09 w
  | 10 => decode0A w
  | 11 => decode0B w
  | 12 => decode0C w
  | 13 => decode0D w
  | 14 => decode0E w
  | 16 => decode10 w
  | 17 => decode11 w
  | 18 => decode12 w
  | 19 => decode13 w
  | 20 => decode14 w
  | 21 => decode15 w
  | 22 => decode16 w
  | 23 => decode17 w
  | 24 => decode18 w
  | 25 => decode19 w
  | 26 => decode1A w
  | 27 => decode1B w
  | 28 => decode1C w
  | 29 => decode1D w
  | 30 => decode1E w
  | 31 => decode1F w
  | 32 => decode20 w
  | 33 => decode21 w
  | 34 => decode22 w
  | 35 => decode23 w
  | 36 => decode24 w
  | 37 => decode25 w
  | 38 => decode26 w
  | 39 => decode27 w
  | 40 => decode28 w
  | 41 => decode29 w
  | 42 => decode2A w
  | 43 => decode2B w
  | 44 => decode2C w
  | 45 => decode2D w
  | 48 => decode30 w
  | 49 => decode31 w
  | _ => none

/-- The instruction of a 32-bit word (R59, check_fields): none where R44 to R56 make the word ILLEGAL. -/
def decode (w : Nat) : Option Instr :=
  (decodeFields w).bind fun i => if i.wf then some i else none

/-- The word of four bytes in memory order (00_scope.md R3). -/
def wordOfBytes : List Byte → Nat
  | [] => 0
  | b :: r => b.toNat + 256 * wordOfBytes r

/-- The four bytes of a word in memory order (00_scope.md R3). -/
def bytesOfWord : Nat → Nat → List Byte
  | 0, _ => []
  | n + 1, w => BitVec.ofNat 8 w :: bytesOfWord n (w / 256)

/-- The instruction of the four bytes at an instruction address (R32). -/
def decodeBytes (bs : List Byte) : Option Instr :=
  if bs.length = 4 then decode (wordOfBytes bs) else none

/-- The instruction the decoder reads from a row's bits; every instruction word has 32 bits (R32). -/
def decodeTableWord (nbits w : Nat) : Option Instr :=
  decodeBytes (bytesOfWord 4 (w % 2 ^ nbits))

/-- A word of a major opcode and the fields shifted to their positions in R35, each a value and its lowest bit. -/
def asm (major : Nat) : List (Nat × Nat) → Nat
  | [] => major * 2 ^ 26
  | (v, lo) :: r => v * 2 ^ lo + asm major r

/-- The word of an instruction, from the same tables. An event row has no encoding. -/
def encode : Instr → Nat
  | .add d a b w => asm 0x01 [(d.toNat, 21), (a.toNat, 16), (b.toNat, 11), (w.toNat, 1)]
  | .addImm d a i => asm 0x02 [(d.toNat, 21), (a.toNat, 16), (i.toNat, 0)]
  | .sub d a b w => asm 0x01 [(1, 6), (d.toNat, 21), (a.toNat, 16), (b.toNat, 11), (w.toNat, 1)]
  | .mul d a b w => asm 0x01 [(2, 6), (d.toNat, 21), (a.toNat, 16), (b.toNat, 11), (w.toNat, 1)]
  | .mulh d a b w u => asm 0x01 [(3, 6), (d.toNat, 21), (a.toNat, 16), (b.toNat, 11), (w.toNat, 1), (u.toNat, 0)]
  | .div d a b w u => asm 0x01 [(4, 6), (d.toNat, 21), (a.toNat, 16), (b.toNat, 11), (w.toNat, 1), (u.toNat, 0)]
  | .rem d a b w u => asm 0x01 [(5, 6), (d.toNat, 21), (a.toNat, 16), (b.toNat, 11), (w.toNat, 1), (u.toNat, 0)]
  | .and d a b w => asm 0x01 [(6, 6), (d.toNat, 21), (a.toNat, 16), (b.toNat, 11), (w.toNat, 1)]
  | .andImm d a i => asm 0x03 [(d.toNat, 21), (a.toNat, 16), (i.toNat, 0)]
  | .or d a b w => asm 0x01 [(7, 6), (d.toNat, 21), (a.toNat, 16), (b.toNat, 11), (w.toNat, 1)]
  | .orImm d a i => asm 0x04 [(d.toNat, 21), (a.toNat, 16), (i.toNat, 0)]
  | .xor d a b w => asm 0x01 [(8, 6), (d.toNat, 21), (a.toNat, 16), (b.toNat, 11), (w.toNat, 1)]
  | .xorImm d a i => asm 0x05 [(d.toNat, 21), (a.toNat, 16), (i.toNat, 0)]
  | .shl d a b w => asm 0x01 [(9, 6), (d.toNat, 21), (a.toNat, 16), (b.toNat, 11), (w.toNat, 1)]
  | .shr d a b w => asm 0x01 [(10, 6), (d.toNat, 21), (a.toNat, 16), (b.toNat, 11), (w.toNat, 1)]
  | .sha d a b w => asm 0x01 [(11, 6), (d.toNat, 21), (a.toNat, 16), (b.toNat, 11), (w.toNat, 1)]
  | .shlImm d a n => asm 0x06 [(d.toNat, 21), (a.toNat, 16), (n.toNat, 0)]
  | .shrImm d a n => asm 0x06 [(1, 6), (d.toNat, 21), (a.toNat, 16), (n.toNat, 0)]
  | .shaImm d a n => asm 0x06 [(2, 6), (d.toNat, 21), (a.toNat, 16), (n.toNat, 0)]
  | .min d a b w u => asm 0x01 [(12, 6), (d.toNat, 21), (a.toNat, 16), (b.toNat, 11), (w.toNat, 1), (u.toNat, 0)]
  | .max d a b w u => asm 0x01 [(13, 6), (d.toNat, 21), (a.toNat, 16), (b.toNat, 11), (w.toNat, 1), (u.toNat, 0)]
  | .slt d a b w u => asm 0x01 [(14, 6), (d.toNat, 21), (a.toNat, 16), (b.toNat, 11), (w.toNat, 1), (u.toNat, 0)]
  | .sltImm d a i => asm 0x07 [(d.toNat, 21), (a.toNat, 16), (i.toNat, 0)]
  | .sel d a b => asm 0x01 [(15, 6), (d.toNat, 21), (a.toNat, 16), (b.toNat, 11)]
  | .clz d a w => asm 0x01 [(16, 6), (d.toNat, 21), (a.toNat, 16), (w.toNat, 1)]
  | .ctz d a w => asm 0x01 [(17, 6), (d.toNat, 21), (a.toNat, 16), (w.toNat, 1)]
  | .popc d a w => asm 0x01 [(18, 6), (d.toNat, 21), (a.toNat, 16), (w.toNat, 1)]
  | .li d i => asm 0x08 [(d.toNat, 21), (i.toNat, 0)]
  | .bfx d a o w => asm 0x09 [(d.toNat, 21), (a.toNat, 16), (o.toNat, 10), (w.toNat, 3)]
  | .bfxS d a o w => asm 0x09 [(1, 0), (d.toNat, 21), (a.toNat, 16), (o.toNat, 10), (w.toNat, 3)]
  | .bfi d a o w => asm 0x09 [(2, 0), (d.toNat, 21), (a.toNat, 16), (o.toNat, 10), (w.toNat, 3)]
  | .fadd d a b p => asm 0x0A [(d.toNat, 21), (a.toNat, 16), (b.toNat, 11), (p.toNat, 1)]
  | .fsub d a b p => asm 0x0A [(1, 6), (d.toNat, 21), (a.toNat, 16), (b.toNat, 11), (p.toNat, 1)]
  | .fmul d a b p => asm 0x0A [(2, 6), (d.toNat, 21), (a.toNat, 16), (b.toNat, 11), (p.toNat, 1)]
  | .fdiv d a b p => asm 0x0A [(3, 6), (d.toNat, 21), (a.toNat, 16), (b.toNat, 11), (p.toNat, 1)]
  | .fma d a b p => asm 0x0A [(4, 6), (d.toNat, 21), (a.toNat, 16), (b.toNat, 11), (p.toNat, 1)]
  | .fmin d a b p => asm 0x0A [(5, 6), (d.toNat, 21), (a.toNat, 16), (b.toNat, 11), (p.toNat, 1)]
  | .fmax d a b p => asm 0x0A [(6, 6), (d.toNat, 21), (a.toNat, 16), (b.toNat, 11), (p.toNat, 1)]
  | .fcmp d a b c p => asm 0x0A [(7, 6), (d.toNat, 21), (a.toNat, 16), (b.toNat, 11), (c.code, 2), (p.toNat, 1)]
  | .fcvt d a c p => asm 0x0A [(8, 6), (d.toNat, 21), (a.toNat, 16), (c.code, 11), (p.toNat, 1)]
  | .ld d b z x o => asm 0x0B [(d.toNat, 21), (b.toNat, 16), (z.code, 14), (x.toNat, 13), (o.toNat, 0)]
  | .st d b z o => asm 0x0C [(d.toNat, 21), (b.toNat, 16), (z.code, 14), (o.toNat, 0)]
  | .amoAdd d a b z r s => asm 0x0D [(d.toNat, 21), (a.toNat, 16), (b.toNat, 11), (z.toNat, 6), (r.code, 4), (s.code, 1)]
  | .amoAnd d a b z r s => asm 0x0D [(1, 7), (d.toNat, 21), (a.toNat, 16), (b.toNat, 11), (z.toNat, 6), (r.code, 4), (s.code, 1)]
  | .amoOr d a b z r s => asm 0x0D [(2, 7), (d.toNat, 21), (a.toNat, 16), (b.toNat, 11), (z.toNat, 6), (r.code, 4), (s.code, 1)]
  | .amoXor d a b z r s => asm 0x0D [(3, 7), (d.toNat, 21), (a.toNat, 16), (b.toNat, 11), (z.toNat, 6), (r.code, 4), (s.code, 1)]
  | .amoMin d a b z r s => asm 0x0D [(4, 7), (d.toNat, 21), (a.toNat, 16), (b.toNat, 11), (z.toNat, 6), (r.code, 4), (s.code, 1)]
  | .amoMax d a b z r s => asm 0x0D [(5, 7), (d.toNat, 21), (a.toNat, 16), (b.toNat, 11), (z.toNat, 6), (r.code, 4), (s.code, 1)]
  | .amoMinu d a b z r s => asm 0x0D [(6, 7), (d.toNat, 21), (a.toNat, 16), (b.toNat, 11), (z.toNat, 6), (r.code, 4), (s.code, 1)]
  | .amoMaxu d a b z r s => asm 0x0D [(7, 7), (d.toNat, 21), (a.toNat, 16), (b.toNat, 11), (z.toNat, 6), (r.code, 4), (s.code, 1)]
  | .amoSwap d a b z r s => asm 0x0D [(8, 7), (d.toNat, 21), (a.toNat, 16), (b.toNat, 11), (z.toNat, 6), (r.code, 4), (s.code, 1)]
  | .amoCas d a b z r s => asm 0x0D [(9, 7), (d.toNat, 21), (a.toNat, 16), (b.toNat, 11), (z.toNat, 6), (r.code, 4), (s.code, 1)]
  | .fenceFull s => asm 0x0E [(s.code, 20)]
  | .fenceRel s => asm 0x0E [(1, 23), (s.code, 20)]
  | .fenceAcq s => asm 0x0E [(2, 23), (s.code, 20)]
  | .fenceEng s => asm 0x0E [(3, 23), (s.code, 20)]
  | .fenceXlat s => asm 0x0E [(4, 23), (s.code, 20)]
  | .fenceInst s => asm 0x0E [(5, 23), (s.code, 20)]
  | .br c a b o => asm 0x10 [(c.code, 23), (a.toNat, 18), (b.toNat, 13), (o.toNat, 0)]
  | .jmp o => asm 0x11 [(o.toNat, 0)]
  | .call f o => asm 0x12 [(f.code, 24), (o.toNat, 0)]
  | .jmpr t => asm 0x13 [(t.toNat, 16)]
  | .callr t f => asm 0x13 [(1, 14), (t.toNat, 16), (f.code, 12)]
  | .ret => asm 0x13 [(2, 14)]
  | .loop c o => asm 0x14 [(c.toNat, 21), (o.toNat, 0)]
  | .nop => asm 0x15 []
  | .trap c => asm 0x15 [(1, 16), (c.toNat, 0)]
  | .eret => asm 0x15 [(2, 16)]
  | .brk c => asm 0x15 [(3, 16), (c.toNat, 0)]
  | .crd s n => asm 0x16 [(s.toNat, 21), (n.toNat, 0)]
  | .cwr s n => asm 0x17 [(s.toNat, 21), (n.toNat, 0)]
  | .cwrCtxbase s => asm 0x17 [(0x309, 0), (s.toNat, 21)]
  | .cwrTimecmp s => asm 0x17 [(0x308, 0), (s.toNat, 21)]
  | .cwrPtbase s => asm 0x17 [(0x306, 0), (s.toNat, 21)]
  | .cwrSpillp s => asm 0x17 [(0x305, 0), (s.toNat, 21)]
  | .cwrSlots s => asm 0x17 [(0x203, 0), (s.toNat, 21)]
  | .cwrLend s => asm 0x17 [(0xb, 0), (s.toNat, 21)]
  | .cwrVflags s => asm 0x17 [(0x8, 0), (s.toNat, 21)]
  | .cwrMshape s => asm 0x17 [(0x500, 0), (s.toNat, 21)]
  | .cwrBndsize s => asm 0x17 [(0x502, 0), (s.toNat, 21)]
  | .cwrBstat s => asm 0x17 [(0x503, 0), (s.toNat, 21)]
  | .cwrTraceRegs s n => asm 0x17 [(0x400, 0), (s.toNat, 21), (n.toNat, 0)]
  | .cwrWatchpoint s n => asm 0x17 [(0x410, 0), (s.toNat, 21), (n.toNat, 0)]
  | .vconf d a => asm 0x18 [(d.toNat, 21), (a.toNat, 16)]
  | .vsetl d a b => asm 0x18 [(1, 6), (d.toNat, 21), (a.toNat, 16), (b.toNat, 11)]
  | .part d a => asm 0x18 [(2, 6), (d.toNat, 21), (a.toNat, 16)]
  | .qset a q => asm 0x19 [(a.toNat, 21), (q.toNat, 0)]
  | .vld v q c p o => asm 0x1A [(v.toNat, 20), (q.toNat, 16), (c.toNat, 9), (p.toNat, 6), (o.toNat, 2)]
  | .vldx v q i c p o => asm 0x1A [(1, 3), (v.toNat, 20), (q.toNat, 16), (i.toNat, 10), (c.toNat, 9), (p.toNat, 6), (o.toNat, 2)]
  | .vldff v q c p => asm 0x1A [(2, 3), (v.toNat, 20), (q.toNat, 16), (c.toNat, 9), (p.toNat, 6)]
  | .vst v q c p o => asm 0x1B [(v.toNat, 20), (q.toNat, 16), (c.toNat, 9), (p.toNat, 6), (o.toNat, 2)]
  | .vstx v q i c p o => asm 0x1B [(1, 3), (v.toNat, 20), (q.toNat, 16), (i.toNat, 10), (c.toNat, 9), (p.toNat, 6), (o.toNat, 2)]
  | .vadd d a b m n p => asm 0x1C [(d.toNat, 20), (a.toNat, 14), (b.toNat, 8), (m.toNat, 7), (n.toNat, 6), (p.toNat, 3)]
  | .vsub d a b m n p => asm 0x1C [(1, 0), (d.toNat, 20), (a.toNat, 14), (b.toNat, 8), (m.toNat, 7), (n.toNat, 6), (p.toNat, 3)]
  | .vmul d a b m n p => asm 0x1C [(2, 0), (d.toNat, 20), (a.toNat, 14), (b.toNat, 8), (m.toNat, 7), (n.toNat, 6), (p.toNat, 3)]
  | .vdiv d a b m n p => asm 0x1C [(3, 0), (d.toNat, 20), (a.toNat, 14), (b.toNat, 8), (m.toNat, 7), (n.toNat, 6), (p.toNat, 3)]
  | .vfma d a b m n p => asm 0x1C [(4, 0), (d.toNat, 20), (a.toNat, 14), (b.toNat, 8), (m.toNat, 7), (n.toNat, 6), (p.toNat, 3)]
  | .vmin d a b m n p => asm 0x1C [(5, 0), (d.toNat, 20), (a.toNat, 14), (b.toNat, 8), (m.toNat, 7), (n.toNat, 6), (p.toNat, 3)]
  | .vmax d a b m n p => asm 0x1C [(6, 0), (d.toNat, 20), (a.toNat, 14), (b.toNat, 8), (m.toNat, 7), (n.toNat, 6), (p.toNat, 3)]
  | .vdivU d a b m n p => asm 0x1C [(7, 0), (d.toNat, 20), (a.toNat, 14), (b.toNat, 8), (m.toNat, 7), (n.toNat, 6), (p.toNat, 3)]
  | .vand d a b m n p => asm 0x1D [(d.toNat, 20), (a.toNat, 14), (b.toNat, 8), (m.toNat, 7), (n.toNat, 6), (p.toNat, 3)]
  | .vor d a b m n p => asm 0x1D [(1, 0), (d.toNat, 20), (a.toNat, 14), (b.toNat, 8), (m.toNat, 7), (n.toNat, 6), (p.toNat, 3)]
  | .vxor d a b m n p => asm 0x1D [(2, 0), (d.toNat, 20), (a.toNat, 14), (b.toNat, 8), (m.toNat, 7), (n.toNat, 6), (p.toNat, 3)]
  | .vshl d a b m n p => asm 0x1D [(3, 0), (d.toNat, 20), (a.toNat, 14), (b.toNat, 8), (m.toNat, 7), (n.toNat, 6), (p.toNat, 3)]
  | .vshr d a b m n p => asm 0x1D [(4, 0), (d.toNat, 20), (a.toNat, 14), (b.toNat, 8), (m.toNat, 7), (n.toNat, 6), (p.toNat, 3)]
  | .vsel d a b m n p => asm 0x1D [(5, 0), (d.toNat, 20), (a.toNat, 14), (b.toNat, 8), (m.toNat, 7), (n.toNat, 6), (p.toNat, 3)]
  | .vshrU d a b m n p => asm 0x1D [(6, 0), (d.toNat, 20), (a.toNat, 14), (b.toNat, 8), (m.toNat, 7), (n.toNat, 6), (p.toNat, 3)]
  | .vabs d a m p => asm 0x1E [(d.toNat, 20), (a.toNat, 14), (m.toNat, 7), (p.toNat, 3)]
  | .vneg d a m p => asm 0x1E [(1, 8), (d.toNat, 20), (a.toNat, 14), (m.toNat, 7), (p.toNat, 3)]
  | .vsqrt d a m p => asm 0x1E [(2, 8), (d.toNat, 20), (a.toNat, 14), (m.toNat, 7), (p.toNat, 3)]
  | .vrsqrt d a m p => asm 0x1E [(3, 8), (d.toNat, 20), (a.toNat, 14), (m.toNat, 7), (p.toNat, 3)]
  | .vrcp d a m p => asm 0x1E [(4, 8), (d.toNat, 20), (a.toNat, 14), (m.toNat, 7), (p.toNat, 3)]
  | .vexp d a m p => asm 0x1E [(5, 8), (d.toNat, 20), (a.toNat, 14), (m.toNat, 7), (p.toNat, 3)]
  | .vlog d a m p => asm 0x1E [(6, 8), (d.toNat, 20), (a.toNat, 14), (m.toNat, 7), (p.toNat, 3)]
  | .vtanh d a m p => asm 0x1E [(7, 8), (d.toNat, 20), (a.toNat, 14), (m.toNat, 7), (p.toNat, 3)]
  | .vcvt d a m u p r => asm 0x1E [(8, 8), (d.toNat, 20), (a.toNat, 14), (m.toNat, 7), (u.toNat, 6), (p.toNat, 3), (r.code, 0)]
  | .vaddVs d a s m p => asm 0x1F [(d.toNat, 20), (a.toNat, 14), (s.toNat, 9), (m.toNat, 8), (p.toNat, 5)]
  | .vsubVs d a s m p => asm 0x1F [(1, 0), (d.toNat, 20), (a.toNat, 14), (s.toNat, 9), (m.toNat, 8), (p.toNat, 5)]
  | .vmulVs d a s m p => asm 0x1F [(2, 0), (d.toNat, 20), (a.toNat, 14), (s.toNat, 9), (m.toNat, 8), (p.toNat, 5)]
  | .vdivVs d a s m p => asm 0x1F [(3, 0), (d.toNat, 20), (a.toNat, 14), (s.toNat, 9), (m.toNat, 8), (p.toNat, 5)]
  | .vfmaVs d a s m p => asm 0x1F [(4, 0), (d.toNat, 20), (a.toNat, 14), (s.toNat, 9), (m.toNat, 8), (p.toNat, 5)]
  | .vminVs d a s m p => asm 0x1F [(5, 0), (d.toNat, 20), (a.toNat, 14), (s.toNat, 9), (m.toNat, 8), (p.toNat, 5)]
  | .vmaxVs d a s m p => asm 0x1F [(6, 0), (d.toNat, 20), (a.toNat, 14), (s.toNat, 9), (m.toNat, 8), (p.toNat, 5)]
  | .vdivUVs d a s m p => asm 0x1F [(7, 0), (d.toNat, 20), (a.toNat, 14), (s.toNat, 9), (m.toNat, 8), (p.toNat, 5)]
  | .vandVs d a s m p => asm 0x1F [(8, 0), (d.toNat, 20), (a.toNat, 14), (s.toNat, 9), (m.toNat, 8), (p.toNat, 5)]
  | .vorVs d a s m p => asm 0x1F [(9, 0), (d.toNat, 20), (a.toNat, 14), (s.toNat, 9), (m.toNat, 8), (p.toNat, 5)]
  | .vxorVs d a s m p => asm 0x1F [(10, 0), (d.toNat, 20), (a.toNat, 14), (s.toNat, 9), (m.toNat, 8), (p.toNat, 5)]
  | .vshlVs d a s m p => asm 0x1F [(11, 0), (d.toNat, 20), (a.toNat, 14), (s.toNat, 9), (m.toNat, 8), (p.toNat, 5)]
  | .vshrVs d a s m p => asm 0x1F [(12, 0), (d.toNat, 20), (a.toNat, 14), (s.toNat, 9), (m.toNat, 8), (p.toNat, 5)]
  | .vshrUVs d a s m p => asm 0x1F [(14, 0), (d.toNat, 20), (a.toNat, 14), (s.toNat, 9), (m.toNat, 8), (p.toNat, 5)]
  | .vsplat d s p => asm 0x1F [(16, 0), (d.toNat, 20), (s.toNat, 9), (p.toNat, 5)]
  | .viota d s p => asm 0x1F [(17, 0), (d.toNat, 20), (s.toNat, 9), (p.toNat, 5)]
  | .vcmp u k a b m n p r => asm 0x20 [(u.toNat, 24), (k.toNat, 20), (a.toNat, 14), (b.toNat, 8), (m.toNat, 7), (n.toNat, 6), (p.toNat, 3), (r.code, 0)]
  | .kand d a b => asm 0x21 [(d.toNat, 22), (a.toNat, 18), (b.toNat, 14)]
  | .kor d a b => asm 0x21 [(1, 4), (d.toNat, 22), (a.toNat, 18), (b.toNat, 14)]
  | .kxor d a b => asm 0x21 [(2, 4), (d.toNat, 22), (a.toNat, 18), (b.toNat, 14)]
  | .knot d a => asm 0x21 [(3, 4), (d.toNat, 22), (a.toNat, 18)]
  | .ksbf d a => asm 0x21 [(4, 4), (d.toNat, 22), (a.toNat, 18)]
  | .ksif d a => asm 0x21 [(5, 4), (d.toNat, 22), (a.toNat, 18)]
  | .kpop a s => asm 0x21 [(6, 4), (a.toNat, 18), (s.toNat, 9)]
  | .kfirst a s => asm 0x21 [(7, 4), (a.toNat, 18), (s.toNat, 9)]
  | .ktail a s => asm 0x21 [(8, 4), (a.toNat, 18), (s.toNat, 9)]
  | .kld d s => asm 0x21 [(9, 4), (d.toNat, 22), (s.toNat, 9)]
  | .kst a s => asm 0x21 [(10, 4), (a.toNat, 18), (s.toNat, 9)]
  | .vred s a o m p => asm 0x22 [(s.toNat, 20), (a.toNat, 14), (o.code, 8), (m.toNat, 7), (p.toNat, 3)]
  | .vscan d a o m p => asm 0x22 [(1, 0), (d.toNat, 20), (a.toNat, 14), (o.code, 8), (m.toNat, 7), (p.toNat, 3)]
  | .vcomp d a m p => asm 0x22 [(2, 0), (d.toNat, 20), (a.toNat, 14), (m.toNat, 7), (p.toNat, 3)]
  | .vexpd d a m p => asm 0x22 [(3, 0), (d.toNat, 20), (a.toNat, 14), (m.toNat, 7), (p.toNat, 3)]
  | .vperm d a b m n p => asm 0x22 [(4, 0), (d.toNat, 20), (a.toNat, 14), (b.toNat, 8), (m.toNat, 7), (n.toNat, 6), (p.toNat, 3)]
  | .vforce => asm 0x23 []
  | .vdrop d a => asm 0x23 [(1, 0), (d.toNat, 20), (a.toNat, 14)]
  | .mmodeOn n => asm 0x24 [(0x1, 6), (n.toNat, 17)]
  | .mmodeOff => asm 0x24 []
  | .mmodeOffRel => asm 0x24 [(0x1, 5)]
  | .mshape m n => asm 0x24 [(0x1, 3), (m.toNat, 18), (n.toNat, 12)]
  | .zzero z => asm 0x24 [(0x1, 4), (z.toNat, 23)]
  | .mma z a b m n c => asm 0x25 [(z.toNat, 23), (a.toNat, 17), (b.toNat, 11), (m.toNat, 6), (n.toNat, 5), (c.code, 3)]
  | .mmas z a b k m n c => asm 0x25 [(0x1, 10), (z.toNat, 23), (a.toNat, 17), (b.toNat, 11), (k.toNat, 7), (m.toNat, 6), (n.toNat, 5), (c.code, 3)]
  | .zld z a b => asm 0x26 [(z.toNat, 23), (a.toNat, 18), (b.toNat, 12)]
  | .zst z a b => asm 0x26 [(1, 3), (z.toNat, 23), (a.toNat, 18), (b.toNat, 12)]
  | .bdim a r => asm 0x27 [(a.toNat, 21), (r.toNat, 0)]
  | .bcon a k => asm 0x27 [(1, 6), (a.toNat, 21), (k.toNat, 0)]
  | .brun a => asm 0x27 [(2, 6), (a.toNat, 21)]
  | .bld a b => asm 0x27 [(3, 6), (a.toNat, 21), (b.toNat, 16)]
  | .bst a b => asm 0x27 [(4, 6), (a.toNat, 21), (b.toNat, 16)]
  | .cpy a b c => asm 0x28 [(a.toNat, 21), (b.toNat, 16), (c.toNat, 11)]
  | .launch a => asm 0x29 [(a.toNat, 21)]
  | .launchP a => asm 0x29 [(1, 6), (a.toNat, 21)]
  | .shape a b => asm 0x29 [(2, 6), (a.toNat, 21), (b.toNat, 16)]
  | .trig => asm 0x29 [(3, 6)]
  | .wpred => asm 0x29 [(4, 6)]
  | .bar => asm 0x29 [(5, 6)]
  | .endI => asm 0x29 [(6, 6)]
  | .spawn a b c => asm 0x2A [(a.toNat, 21), (b.toNat, 16), (c.toNat, 11)]
  | .dqpush a b => asm 0x2A [(1, 6), (a.toNat, 21), (b.toNat, 16)]
  | .dqpop a b => asm 0x2A [(2, 6), (a.toNat, 21), (b.toNat, 16)]
  | .dqsteal a b c => asm 0x2A [(3, 6), (a.toNat, 21), (b.toNat, 16), (c.toNat, 11)]
  | .fwait a b => asm 0x2B [(a.toNat, 21), (b.toNat, 16)]
  | .fput a b => asm 0x2B [(1, 6), (a.toNat, 21), (b.toNat, 16)]
  | .yield => asm 0x2B [(2, 6)]
  | .trace a c => asm 0x2C [(a.toNat, 21), (c.toNat, 0)]
  | .vtag d a t => asm 0x2D [(d.toNat, 20), (a.toNat, 14), (t.code, 0)]
  | .tok w x s y => asm 0x30 [(w.toNat, 25), (x.toNat, 22), (s.toNat, 21), (y.toNat, 18)]
  | .ext v => asm 0x31 [(v.toNat, 0)]
  | .tileGrant _ => 0
  | .bondStep => 0
  | .cpyComplete _ => 0
  | .yieldPauseEnd => 0
  | .traceRecordWrite _ => 0
  | .passStrip => 0
  | .passElementStop _ => 0
  | .spadReadRequest => 0
  | .spadReadReply => 0
  | .spadWrite => 0
  | .spadWriteAck => 0
  | .hartStart _ _ => 0
  | .shapePublication => 0
  | .hartConfirm => 0
  | .hartSquash => 0
  | .timer => 0
  | .watchRecord => 0
  | .watchimp => 0
  | .machine => 0
  | .remoteAccessTimeout => 0
  | .packageReset _ => 0
  | .healthReport => 0
  | .healthTimeout _ => 0
  | .firmwareUpdate _ => 0
  | .mbxCoreDump => 0
  | .mbxMigratePage => 0
  | .mbxReadSensors => 0
  | .mbxAttestation => 0
  | .mbxReadEventLog => 0
  | .migrationChunkCopied _ => 0
  | .linkRetrain _ _ _ => 0
  | .powerLimitThrottle => 0
  | .powerLimitRecover => 0
  | .thermalThrottle _ => 0
  | .thermalShutdown => 0
  | .laneRemapWrite _ _ _ => 0
  | .remoteDeviceAccess _ => 0
  | .illegalEncoding => 0
  | .fetchFault => 0

end Sys2Proof
end

