-- ==== Sys2Proof/Config.lean ====
section
/-! DEFINITION. What the part fixes, and the free values: opaque constants for what the manual leaves open, so that
no proof can see them. -/

namespace Sys2Proof

/-- PARTID bits 19:0: stepping and part (04_registers.md R70). -/
def Config.partId : Nat := 0x10768

/-- Cores of a die and of the package (01_device.md R10). -/
def Config.coresPerDie : Nat := 192
def Config.cores : Nat := 768

/-- LMOD at shipment (01_device.md R16). -/
def Config.lmodAtShipment : Nat := 128

/-- The choice the part makes among the F32 values within 2 ulp of VEXP, VLOG, VTANH, VRSQRT and VRCP (operations 0
to 4) of an operand given by its sign and its fraction in lowest terms (05_numbers.md R73; log 8). -/
opaque Config.approx : Nat → Bool → Nat → Nat → Nat

/-- The ticks by which TIME rises in step n (01_device.md R21; log 6). -/
opaque Config.ticks : Nat → Nat

/-- A fresh value the manual leaves open: places of spilled tasks, sensor readings (logs 9, 13). -/
opaque Config.freeWord : Nat → Word

/-- A byte that a remote device answers with (16_system.md R239; log 10). -/
opaque Config.remoteByte : Nat → Byte

/-- A signature byte of an attestation report (16_system.md R235; log 11). -/
opaque Config.signatureByte : Nat → Byte

/-- The layout of the management event log as bytes (16_system.md R237; log 11). -/
opaque Config.eventLogByte : Nat → Byte

/-- What the outside contributes to the boot that follows the n-th package reset (16_system.md R232; log 4). -/
opaque Config.bootInputs : Nat → BootInputs

/-- The opaque sections of a context image, byte i of handle h: their format is fixed by PARTID and not given
(14_traps.md R212; log 12). -/
opaque Config.imageByte : Nat → Nat → Byte

/-- What the gang binding of an image is made from (R212; log 12). -/
opaque Config.imageMask : Word

end Sys2Proof
end

