-- ==== Sys2Proof/Machine/State.lean ====
section
/-! DEFINITION. The state of the package as plain data, and its value right after package reset. INVENTORY.md lists
every field with the rule that names it. -/

namespace Sys2Proof.Machine

/-- Why the machine stops. -/
inductive Fault where
  /-- Raised by step once the management controller has stopped the package at 115 degrees C (16_system.md R241).
  Safe: the manual says that the package is stopped. -/
  | packageStopped
  deriving DecidableEq, Repr

/-- Why the model gives no meaning. -/
inductive Refusal where
  /-- Raised by an arm of exec whose instruction has no meaning yet. Safe: nothing can be proved of it. -/
  | notModelled (mnemonic : String)
  deriving DecidableEq, Repr

/-- The levels at which a hart runs (14_traps.md R206). -/
inductive Level where
  | u
  | s
  deriving DecidableEq, Repr

/-- The exception causes (14_traps.md R207). -/
inductive Cause where
  | illegal
  | priv
  | misalign
  | pagefault
  | prot
  | formefull
  | stale
  | srcovw
  | lenerr
  | tagerr
  | mode
  | bndovf
  | retempty
  | spillfault
  | futfull
  | trapinst
  | brk
  | watch
  | watchimp
  | timer
  | machine
  deriving DecidableEq, Repr

/-- ECAUSE of a cause (14_traps.md R207). -/
def Cause.code : Cause → Nat
  | .illegal => 1
  | .priv => 2
  | .misalign => 3
  | .pagefault => 4
  | .prot => 5
  | .formefull => 6
  | .stale => 7
  | .srcovw => 8
  | .lenerr => 9
  | .tagerr => 10
  | .mode => 11
  | .bndovf => 12
  | .retempty => 13
  | .spillfault => 14
  | .futfull => 15
  | .trapinst => 16
  | .brk => 17
  | .watch => 18
  | .watchimp => 19
  | .timer => 20
  | .machine => 21

/-- The queues of a hart (01_device.md R14), numbered as there. -/
inductive Queue where
  | s
  | v
  | m
  | b
  | c
  deriving DecidableEq, Repr

/-- The number of a queue (01_device.md R14). -/
def Queue.num : Queue → Nat
  | .s => 0
  | .v => 1
  | .m => 2
  | .b => 3
  | .c => 4

/-- The state of a vector or mask register (04_registers.md R61); the node a STALE register names is kept with its
write PC (08_faults.md R122). -/
inductive RegState where
  | empty
  | node (n : Nat)
  | stale (n : Nat) (writePc : Word)
  | material (data : BitVec 2048)
  deriving DecidableEq, Repr

/-- A vector register: its tag and its state (04_registers.md R60, R62). -/
structure VRegister where
  tag : Tag
  state : RegState
  deriving DecidableEq, Repr

/-- The vector arithmetic of major 1C (03_formats.md R49). -/
inductive ArithOp where
  | add
  | sub
  | mul
  | div
  | fma
  | min
  | max
  deriving DecidableEq, Repr

/-- The vector logic of major 1D (03_formats.md R49). -/
inductive LogicOp where
  | and
  | or
  | xor
  | shl
  | shrArith
  | shrLogical
  deriving DecidableEq, Repr

/-- The unary operations of major 1E that round once into vd's tag (03_formats.md R50). -/
inductive UnaryOp where
  | abs
  | neg
  | sqrt
  | rsqrt
  | rcp
  | exp
  | log
  | tanh
  deriving DecidableEq, Repr

/-- The mask operations (09_control.md R130). -/
inductive MaskOp where
  | and
  | or
  | xor
  | not
  | sbf
  | sif
  deriving DecidableEq, Repr

/-- The count sinks (09_control.md R131). -/
inductive CountOp where
  | pop
  | first
  | tail
  deriving DecidableEq, Repr

/-- What a node computes (06_forme.md R88, R89), with its .U, operator or relation field. -/
inductive NodeOp where
  /-- VLD, VLDFF and VLDX: the stream register, the descriptor snapshot, the effective order, whether the leaf cuts. -/
  | leaf (q : QReg) (desc : BitVec 256) (uno : Bool) (cuts : Bool)
  | arith (op : ArithOp) (uns : Bool)
  | logic (op : LogicOp)
  | sel
  | unary (op : UnaryOp)
  | cvt (uns : Bool) (r : VRound)
  | splat
  | iota
  | cmp (r : VRel) (uns : Bool)
  | mask (op : MaskOp)
  | kld (bits : BitVec 2048)
  | scan (op : RedOp)
  | comp
  | expd
  | perm
  deriving DecidableEq, Repr

/-- A source edge: the node and its chain bit (06_forme.md R88, R98). -/
structure Edge where
  node : Nat
  chain : Bool
  deriving DecidableEq, Repr

/-- A forme node (06_forme.md R88), numbered in append order. -/
structure Node where
  id : Nat
  op : NodeOp
  /-- The element type; none for a mask node. -/
  tag : Option Tag
  len : Nat
  /-- The vector sources in the order va, vb, accumulator, or the index of a gather. -/
  srcs : List Edge
  /-- The predicate's mask node, or none for k0. -/
  pred : Option Edge
  frm : BitVec 2
  scalar : Option Word
  blame : Word
  /-- A leaf's current position (06_forme.md R96). -/
  pos : Nat
  /-- QSET has detached the leaf from its q register (06_forme.md R96). -/
  detached : Bool
  /-- The leaf's interlock entry was released (08_faults.md R118). -/
  released : Bool
  /-- Program order of the leaves and sinks (06_forme.md R96). -/
  seq : Nat
  deriving DecidableEq, Repr

/-- What a sink does (06_forme.md R91). The destination of a reduction or count is a scalar: the architectural
discard of s0, or an index of the hart's physical scalars. -/
inductive SinkOp where
  | store (q : QReg) (desc : BitVec 256) (uno : Bool) (index : Option Nat)
  | red (op : RedOp) (lam : Bool) (dst : Option (Fin 136))
  | count (op : CountOp) (dst : Option (Fin 136))
  deriving DecidableEq, Repr

/-- A pending sink (06_forme.md R91; 13_ordering.md R205). -/
structure Sink where
  op : SinkOp
  node : Nat
  chain : Bool
  pred : Option Nat
  pc : Word
  sl : Nat
  frm : BitVec 2
  /-- The position of a store sink (06_forme.md R96). -/
  pos : Nat
  detached : Bool
  seq : Nat
  /-- The queue whose FIFO receives the unit's token when the pass completes (13_ordering.md R205). -/
  signal : Option Queue
  deriving DecidableEq, Repr

/-- What a running pass has read of one leaf: the stored bytes of each position, none where it is inactive. Where a VPERM
made the pass read a window again, kept holds the values that every other use of the leaf keeps (20_reference_t_z.md R321;
08_faults.md R127). -/
structure LeafRun where
  node : Nat
  /-- The leaf's position when the pass began. -/
  base : Nat
  /-- The byte range the leaf held when the pass began (08_faults.md R121). -/
  lo : Int
  hi : Int
  cells : List (Option Nat)
  kept : List (Option Nat)
  /-- Elements beyond the cells whose values a stop has saved: those that ECMW marks (08_faults.md R125 to R127). -/
  marks : List (Nat × Option Nat)
  deriving DecidableEq, Repr

/-- What a VPERM of a running pass has selected for its elements, as bits and block scale of its source's tag
(20_reference_t_z.md R321); none where the element is inactive. marks holds further selections that a stop has saved. -/
structure PermRun where
  node : Nat
  picked : List (Option (Nat × Int))
  marks : List (Nat × Option (Nat × Int))
  deriving DecidableEq, Repr

/-- A translation held by a pin or a TLB entry: the virtual page and its leaf PTE (07_streams.md R113; 14_traps.md
R217). -/
structure Translation where
  page : Nat
  large : Bool
  pte : Word
  deriving DecidableEq, Repr

/-- A running or suspended pass (06_forme.md R95, R96; 08_faults.md R125 to R127). -/
structure Pass where
  /-- The demand unit (FDEMAND, 08_faults.md R126). -/
  demand : Word
  /-- Elements below this index are done. -/
  progress : Nat
  /-- The element at which the pass last stopped inside a strip; elements below it are saved (R127). -/
  saved : Nat
  /-- The cut of a VLDFF (07_streams.md R112). -/
  cut : Option Nat
  leaves : List LeafRun
  perms : List PermRun
  /-- How many of a node's elements have had their flags ORed into VFLAGS (05_numbers.md R83): those of computing at
  twice the node's number, those of encoding D8S blocks one above. -/
  flagged : List (Nat × Nat)
  /-- Flags of committed sink elements not yet in VFLAGS. -/
  sinkFlags : BitVec 7
  /-- The elements that each store sink has passed, and those of each reduction whose flags are in VFLAGS, in galley order. -/
  commits : List Nat
  suspended : Bool
  /-- The elements that each reduction and count has taken in at an earlier stop, in galley order, as bits and block scale
  (08_faults.md R126). -/
  taken : List (List (Option (Nat × Int)))
  /-- Elements that cluster-window packets have returned (07_streams.md R110): twice the leaf's number, and one more for a
  D8S scale, the element, and the stored bytes. -/
  got : List (Nat × Nat × Nat)
  /-- Packets sent and not yet answered. -/
  outstanding : Nat
  /-- The pages that the windows of leaves (twice the node's number) and of sinks (one above twice the place in the
  galley) hold pinned between strips; for indexed ones the last pages of the strip before (07_streams.md R113). -/
  pins : List (Nat × Translation)
  /-- The unit that demanded the pass has made its own checks already (06_forme.md R92, R99). -/
  late : Bool
  /-- The leaves that the demanding write overlaps (08_faults.md R121). -/
  met : List Nat
  deriving DecidableEq, Repr

/-- A buffered store of a provisional hart (12_launch.md R176, R177), with the accesses whose watch records wait until it
drains: whether a bond transfer, and the pieces (15_debug.md R229). -/
structure ProvStore where
  loc : Nat
  bytes : List Byte
  notes : List (Bool × List (Nat × Nat × Nat))
  deriving DecidableEq, Repr

/-- An accepted CPY in flight (18_reference_a_f.md R256). -/
structure Copy where
  dst : Word
  src : Word
  count : Nat
  pc : Word
  pins : List Translation
  signal : Option Queue
  deriving DecidableEq, Repr

/-- Whether a hart is on its core and what it does there (12_launch.md R167, R178, R182, R185; 14_traps.md R208,
R211). -/
inductive Status where
  | absent
  | running
  | ended
  | squashed
  | halted
  | parked (cell : Nat) (dst : SReg)
  | vacated
  deriving DecidableEq, Repr

/-- The control registers of a hart (04_registers.md R70). -/
structure CtrlRegs where
  vl : Nat
  sl : Nat
  slmax : Nat
  nv : Nat
  frm : BitVec 2
  lam : Bool
  vflags : BitVec 7
  lc : Word
  lstart : Word
  lend : Word
  passp : Word
  fblame : Word
  felem : Word
  fdemand : Word
  ecmw : BitVec 1024
  hx : Nat
  gn : Nat
  slots : Nat
  confirmed : Bool
  complp : Word
  epc : Word
  ecause : Word
  eva : Word
  estatus : Word
  tvec : Word
  spillp : Word
  ptbase : Word
  tlbinva : Word
  timecmp : Word
  ctxbase : Word
  pairw : Vector Word 64
  mshape : Word
  bndbuf : Word
  bndsize : Word
  bstat : Word
  deriving DecidableEq, Repr

/-- The vector, mask, stream, tile and bond state of a hart (04_registers.md R60; 06_forme.md; 10_matrix.md R143). -/
structure VecState where
  v : Vector VRegister 64
  k : Vector RegState 16
  q : Vector (BitVec 256) 16
  forme : List Node
  galley : List Sink
  pass : Option Pass
  matrix : Bool
  savedVl : Nat
  tileCount : Nat
  /-- The nonzero tile positions: 4,096 z + 256 m + n and the F32 there, positions rising. -/
  tiles : List (Nat × BitVec 32)
  bd : Vector (BitVec 8) 16
  mm : Vector (BitVec 12) 16
  mn : Vector (BitVec 12) 16
  deriving DecidableEq, Repr

/-- A hart of a core or of a miller core (01_device.md R11, R12, R15). -/
structure Hart where
  /-- Package hart number (R11); 6,144 + 2d + m for a miller core (15_debug.md R229). -/
  num : Nat
  /-- Package core number; 768 + 2d + m for a miller core. -/
  core : Nat
  slot : Nat
  miller : Bool
  status : Status
  level : Level
  pc : Word
  /-- A latched TOK word of the unit being fetched (03_formats.md R33). -/
  tok : Option (BitVec 32)
  /-- A latched EXT value of the unit being fetched. -/
  ext : Option (BitVec 26)
  /-- s0 to s7 at 0 to 7 (s0 is never stored), then the 128 physical window registers (R60; 09_control.md R136). -/
  regs : Vector Word 136
  /-- The pending marks of the physical scalars (06_forme.md R93). -/
  pend : Vector Bool 136
  wbase : Nat
  wlo : Nat
  /-- The return-address store, newest first: address and frame (09_control.md R136). -/
  rets : List (Word × Frame)
  wsp : Word
  rsp : Word
  /-- The token FIFO counts, FIFO (X, Y) at 5X + Y (12_launch.md R171). -/
  tokens : Vector Nat 25
  cr : CtrlRegs
  vec : VecState
  gang : Option Nat
  /-- Scratchpad allocation in bytes (12_launch.md R167). -/
  spad : Nat
  barriers : Nat
  arrived : Bool
  triggered : Bool
  /-- The front-end pause of YIELD, and the strip turns left (12_launch.md R186). -/
  pause : Bool
  yieldTurns : Nat
  prov : List ProvStore
  copies : List Copy
  /-- Tokens of completed sinks and copies that wait for room: the queue that gives each, the one that receives it, and the
  signalling unit (12_launch.md R171; 13_ordering.md R205). -/
  owed : List (Queue × Queue × Word)
  /-- How many tokens of each FIFO units that have issued and not yet retired have taken: the unit at the pc, and later ones
  that issue ahead of a unit held at a full FIFO (01_device.md R14; R171; log 15). -/
  early : Vector Nat 25
  /-- The units that gave the tokens of each FIFO, oldest first, those of tokens that have been taken at issue and not used up among
  them; none for a token that came with a context image (15_debug.md R225). -/
  givers : Vector (List (Option Word)) 25
  /-- The unit that last wrote each physical scalar (15_debug.md R225). -/
  writers : Vector (Option Word) 136
  /-- The unit that last wrote each register of matrix mode: v0 to v63, then k0 to k15, then z0 to z7 (15_debug.md R225). -/
  matWriters : Vector (Option Word) 88
  /-- The instructions whose entries of the interlock table have held the unit at the pc back (15_debug.md R225). -/
  holders : List Word
  /-- The value with which an FPUT has woken the hart while its FWAIT finds its signal's FIFO full (12_launch.md R185, R171). -/
  woke : Option Word
  /-- A demanded pass has completed and its unit has not been tried again yet (06_forme.md R94). -/
  fresh : Bool
  /-- The order program of a BRUN in progress (11_bond.md R162). -/
  brun : Option Word
  /-- Undelivered MACHINE records: the EVA of each (14_traps.md R207, R209). -/
  machine : List Word
  /-- The hart's next remote access fails (16_system.md R239). -/
  remoteFail : Bool
  /-- The unit whose demanded pass has completed after its own checks, which it does not repeat (06_forme.md R92). -/
  checked : Option Word
  /-- The leaves that the hart's write overlapped when it issued, before the pass that it demanded ran (08_faults.md
  R121). -/
  met : List Nat
  deriving DecidableEq, Repr

/-- A trace record waiting in a core's FIFO (15_debug.md R219, R220), and the hart that issued it. -/
structure TraceRecord where
  payload : Word
  channel : BitVec 6
  hart : Nat
  provisional : Bool
  stamp : BitVec 48
  owner : Nat
  deriving DecidableEq, Repr

/-- A watch record (15_debug.md R229). -/
structure WatchRecord where
  owner : Nat
  core : Nat
  wp : Nat
  src : Nat
  kind : BitVec 3
  id : BitVec 16
  eva : Word
  lost : Bool
  deriving DecidableEq, Repr

/-- A position of a unit table: units 0 to 7 are the pass units of the groups, 8 the matrix array, 9 the bond
sequencer, 10 the copy engine (12_launch.md R170). -/
structure SlotEntry where
  unit : Nat
  pos : Nat
  hart : Nat
  deriving DecidableEq, Repr

/-- A request for tiles (10_matrix.md R145). -/
structure TileRequest where
  hart : Nat
  count : Nat
  granted : Bool
  deriving DecidableEq, Repr

/-- Where the turns of a unit stand: how many it has taken, modulo 32, and its rotating pointer (12_launch.md R170). -/
structure UnitTurn where
  turn : Nat
  pointer : Nat
  deriving DecidableEq, Repr

/-- What a core, or a miller core, shares among its harts (01_device.md R12, R13; 04_registers.md R70). -/
structure Core where
  num : Nat
  lmod : Nat
  /-- LREMAP0 to LREMAP8 bits 15:0, the assigned physical lanes (04_registers.md R68). -/
  assigned : BitVec 136
  partn : Nat
  slots : List SlotEntry
  /-- The turns of the core's units, numbered as in the slot tables (12_launch.md R170). -/
  turns : Vector UnitTurn 11
  tileQueue : List TileRequest
  /-- The hardware entries of the deque, oldest first, at most 64 (12_launch.md R183). -/
  deque : List (Word × Word)
  /-- Where in the deque area the spilled entries lie, oldest first (19_reference_j_s.md R298; log 13). -/
  spilled : List Nat
  active : Bool
  trbase : Word
  trsize : Word
  trhead : Word
  trdrops : Word
  trptbase : Option Word
  traceFifo : List TraceRecord
  /-- The records of TRACEs that have issued and wait for room in the FIFO, in the order of issue (15_debug.md R219). -/
  traceWait : List TraceRecord
  wpad : Vector Word 4
  wpmask : Vector Word 4
  wpctl : Vector Word 4
  wowner : Vector (Option Nat) 4
  /-- The granules that a watchpoint's remote comparator watches: one location, and in a page in migration those in both
  frames (15_debug.md R227). -/
  wloc : Vector (List Nat) 4
  watchQueue : List WatchRecord
  lost : List Nat
  stall : Vector Word 32
  deriving DecidableEq, Repr

/-- A live or finished gang (12_launch.md R165, R166, R168, R172, R178 to R182, R334). -/
structure Gang where
  id : Nat
  entry : Word
  args : Word
  slots : Nat
  partn : Nat
  nv : Nat
  harts : Nat
  cfirst : Nat
  clast : Nat
  firstSlot : Nat
  spad : Nat
  done : Word
  doneLoc : Nat
  pred : Word
  predLoc : Option Nat
  cellLoc : Option Nat
  tvec : Word
  ptbase : Word
  die : Nat
  predicted : Bool
  confirmed : Bool
  /-- The hart count: predicted while provisional, true once confirmed. -/
  count : Nat
  /-- The prediction P, the number of harts started before a tail. -/
  initial : Nat
  started : List Nat
  ended : List Nat
  squashed : List Nat
  triggered : List Nat
  /-- The barriers each hart has arrived at: index and count. -/
  arrivals : List (Nat × Nat)
  ends : Nat
  live : Bool
  deriving DecidableEq, Repr

/-- A predictor entry (12_launch.md R179). -/
structure PredEntry where
  die : Nat
  index : Nat
  entry : Word
  last : Nat
  previous : Option Nat
  deriving DecidableEq, Repr

/-- A TLB entry: the TLB that holds it, of a core by the core's number or of a cluster at 1,024 and above, and the PTBASE
that created it (00_scope.md R9; 01_device.md R11; 14_traps.md R217). -/
structure TlbEntry where
  unit : Nat
  ptbase : Word
  tr : Translation
  deriving DecidableEq, Repr

/-- A publication not yet recognised: the cell's location, T, and the gangs whose read of the cell it follows (12_launch.md
R178; 19_reference_j_s.md R277). -/
structure Publication where
  loc : Nat
  count : Nat
  gangs : List Nat
  deriving DecidableEq, Repr

/-- A migration in progress (14_traps.md R218): the PTE, the record, and the mailbox record of its request (16_system.md
R237). -/
structure Migration where
  pte : Nat
  record : Nat
  mailbox : Nat
  deriving DecidableEq, Repr

/-- A packet of the cluster window (07_streams.md R110): words 0 and 1, the offsets and the data. Kind 4 is no packet: a
write of a scatter to another place, at the locations in offsets, that packets of lower positions hold back (R109,
R111). -/
structure Packet where
  kind : Nat
  src : Nat
  owner : Nat
  hart : Nat
  size : Nat
  run : Bool
  group : Nat
  mask : BitVec 64
  offsets : List Nat
  data : List Byte
  /-- The package number of the requesting hart, and what a read belongs to, numbered as in Pass.got. -/
  requester : Nat
  leaf : Nat
  /-- The pages of a kind 4 entry, pinned until it performs (R113). -/
  pins : List Translation
  /-- It performs only after every earlier write of the requester has been acknowledged (R111; 06_forme.md R95). -/
  wait : Bool
  deriving DecidableEq, Repr

/-- What an access of the remote window becomes (16_system.md R239). -/
inductive RemoteOp where
  | read (n : Nat)
  | write (bytes : List Byte)
  | fetchAdd (operand : Nat)
  | compareSwap (expect new : Nat)
  deriving DecidableEq, Repr

/-- An access sent through a port: the 32 bytes of the remote window table's entry that PA bits 47:40 select, which name the
port, the queue pair and the remote base address, PA bits 39:0, which are added to the base, and the operation (R239; log
10). -/
structure RemoteAccess where
  entry : List Byte
  offset : Nat
  op : RemoteOp
  deriving DecidableEq, Repr

/-- An event the management controller logs (16_system.md R232, R240, R241). -/
inductive MgmtEvent where
  | firmwareRefused
  | recovery
  | dieAbsent (d : Nat)
  | linkHalf (a b : Nat)
  | hartStopped (hart : Nat)
  | imageInvalid
  | dumpFailed
  | shutdown
  deriving DecidableEq, Repr

/-- A firmware slot (16_system.md R234). -/
structure FwSlot where
  image : Option FwImage
  valid : Bool
  deriving DecidableEq, Repr

/-- The two slots of a firmware, the fused rollback counter, the running slot, and whether the running image has
reported healthy (16_system.md R234). -/
structure Firmware where
  slotA : FwSlot
  slotB : FwSlot
  rollback : Nat
  /-- The slot that runs: true for B. -/
  running : Option Bool
  healthy : Bool
  deriving DecidableEq, Repr

/-- What the opaque sections of a saved context image hold (14_traps.md R212; log 12): the gang binding, the node, galley
and strip sections, and the marks of pending scalars. -/
structure SavedSections where
  handle : Nat
  gang : Option Nat
  forme : List Node
  galley : List Sink
  pass : Option Pass
  pend : Vector Bool 136
  owed : List (Queue × Queue × Word)
  deriving DecidableEq, Repr

/-- The kinds of wait that the pair table tells apart by their producer (15_debug.md R225). -/
inductive PairWait where
  | token
  | interlock
  | scoreboard
  | chain
  deriving DecidableEq, Repr

/-- What the outside can do between two steps without a row of its own in the opcode table (14_traps.md R207, R217). -/
inductive EnvEvent where
  /-- A location of memory takes an uncorrectable soft error. -/
  | softError (loc : Nat)
  /-- A TLB entry is evicted. -/
  | tlbEvict (i : Nat)
  /-- Management reports an event that concerns a hart. -/
  | report (hart : Nat) (eva : Word)
  /-- An engine of a core has stalled for some cycles, which STALLi counts (15_debug.md R224). -/
  | stall (core i cycles : Nat)
  /-- A hart has waited some cycles in a way, on the pair of a producer and a consumer pc; for a chain wait with an element lag
  (15_debug.md R225). -/
  | pair (hart : Nat) (wait : PairWait) (producer consumer : Word) (cycles lag : Nat)
  deriving DecidableEq, Repr

/-- Which agent moves next (log 5): a hart takes its turn, an event row acts on a hart, or the outside acts. -/
inductive Turn where
  | hart (n : Nat)
  | event (n : Nat) (i : Instr)
  | env (e : EnvEvent)
  deriving DecidableEq, Repr

/-- The package. -/
structure State where
  /-- The hart whose turn it is. -/
  me : Hart
  /-- Every other hart that has been resident or is held on a core. -/
  others : List Hart
  cores : List Core
  /-- The bytes of memory, in canonical form: addresses rising, no entry equal to what an unlisted address reads as. -/
  mem : List Host.Cell
  time : Word
  stepNo : Nat
  free : Nat
  agenda : List Turn
  stopped : Bool
  booted : Bool
  /-- The controller stays in recovery until the next package reset (16_system.md R233, R234). -/
  recovery : Bool
  resets : Nat
  gangs : List Gang
  nextGang : Nat
  predictor : List PredEntry
  tlb : List TlbEntry
  softErrors : List Nat
  watchFlight : List WatchRecord
  pubs : List Publication
  migrations : List Migration
  packets : List Packet
  outbox : List RemoteAccess
  log : List MgmtEvent
  diesPresent : BitVec 4
  cxlSize : List Nat
  linkHalf : BitVec 6
  retrains : Vector Nat 6
  capBase : BitVec 56
  mgmt : Firmware
  millerFw : Firmware
  /-- The arithmetic clock of each die in MHz (16_system.md R241). -/
  clock : Vector Nat 4
  /-- The times of the latest core activations (12_launch.md R169). -/
  activations : List Word
  nextNode : Nat
  nextImage : Nat
  saved : List SavedSections
  deriving DecidableEq, Repr

/-- The control registers at the reset column of 04_registers.md R70; a value "on launch" or "from descriptor" is the
launch value or log 2's. -/
def CtrlRegs.reset : CtrlRegs where
  vl := 0
  sl := 1024
  slmax := 1024
  nv := 8
  frm := 0
  lam := true
  vflags := 0
  lc := 0
  lstart := 0
  lend := 0
  passp := 0
  fblame := 0
  felem := 0
  fdemand := 0
  ecmw := 0
  hx := 0
  gn := 0
  slots := 1
  confirmed := true
  complp := 0
  epc := 0
  ecause := 0
  eva := 0
  estatus := 0
  tvec := 0
  spillp := 0
  ptbase := 0
  tlbinva := 0
  timecmp := BitVec.allOnes 64
  ctxbase := 0
  pairw := Vector.replicate 64 0
  mshape := 0x4010
  bndbuf := 0
  bndsize := 0
  bstat := 0

/-- The vector side of a hart on launch (04_registers.md R60). -/
def VecState.reset : VecState where
  v := Vector.replicate 64 { tag := .f32, state := .empty }
  k := Vector.replicate 16 .empty
  q := Vector.replicate 16 0
  forme := []
  galley := []
  pass := none
  matrix := false
  savedVl := 0
  tileCount := 0
  tiles := []
  bd := Vector.replicate 16 1
  mm := Vector.replicate 16 1
  mn := Vector.replicate 16 1

/-- A hart that is not resident, with every register at its reset or launch value (log 2). -/
def Hart.reset (num core slot : Nat) (miller : Bool) : Hart where
  num := num
  core := core
  slot := slot
  miller := miller
  status := .absent
  level := .u
  pc := 0
  tok := none
  ext := none
  regs := Vector.replicate 136 0
  pend := Vector.replicate 136 false
  wbase := 0
  wlo := 0
  rets := []
  wsp := 0
  rsp := 0xFFFFFFFFFFFFFFF8
  tokens := Vector.replicate 25 0
  cr := .reset
  vec := .reset
  gang := none
  spad := 0
  barriers := 0
  arrived := false
  triggered := false
  pause := false
  yieldTurns := 0
  prov := []
  copies := []
  owed := []
  early := Vector.replicate 25 0
  givers := Vector.replicate 25 []
  writers := Vector.replicate 136 none
  matWriters := Vector.replicate 88 none
  holders := []
  woke := none
  fresh := false
  brun := none
  machine := []
  remoteFail := false
  checked := none
  met := []

/-- The shared registers of a core at reset (04_registers.md R68, R70; logs 2, 3). -/
def Core.reset (num : Nat) : Core where
  num := num
  lmod := Config.lmodAtShipment
  assigned := 0xFFFFFFFFFFFFFFFFFFFFFFFFFFFFFFFF
  partn := 1
  slots := []
  turns := Vector.replicate 11 { turn := 0, pointer := 0 }
  tileQueue := []
  deque := []
  spilled := []
  active := false
  trbase := 0
  trsize := 0
  trhead := 0
  trdrops := 0
  trptbase := none
  traceFifo := []
  traceWait := []
  wpad := Vector.replicate 4 0
  wpmask := Vector.replicate 4 0
  wpctl := Vector.replicate 4 0
  wowner := Vector.replicate 4 none
  wloc := Vector.replicate 4 []
  watchQueue := []
  lost := []
  stall := Vector.replicate 32 0

/-- The firmware store as delivered: one valid image of version 1 in slot A, and its digest and the fused rollback counter at 0,
which the manual does not give (log 4). -/
def Firmware.reset : Firmware where
  slotA := { image := some { version := 1, digest := 0, signed := true }, valid := true }
  slotB := { image := none, valid := false }
  rollback := 0
  running := none
  healthy := false

/-- The package right after reset: nothing has booted, no hart is resident (16_system.md R232). Until the boot has run,
every die counts as present, no CXL link has memory and CAPBASE is 0: the model's choice (logs 2, 4). -/
def State.reset : State where
  me := .reset 0 0 0 false
  others := []
  cores := []
  mem := []
  time := 0
  stepNo := 0
  free := 0
  agenda := []
  stopped := false
  booted := false
  recovery := false
  resets := 0
  gangs := []
  nextGang := 0
  predictor := []
  tlb := []
  softErrors := []
  watchFlight := []
  pubs := []
  migrations := []
  packets := []
  outbox := []
  log := []
  diesPresent := 0xF
  cxlSize := [0, 0, 0, 0]
  linkHalf := 0
  retrains := Vector.replicate 6 0
  capBase := 0
  mgmt := .reset
  millerFw := .reset
  clock := Vector.replicate 4 4000
  activations := []
  nextNode := 0
  nextImage := 1
  saved := []

end Sys2Proof.Machine
end

