-- ==== Sys2Proof/Machine/Stream.lean ====
section
/-! DEFINITION. Stream descriptors (07_streams.md R103 to R105): their fields, the address of a position, the byte
range of a run of positions (08_faults.md R116), and how the patterns of a sink and a leaf compare (R123). -/

namespace Sys2Proof.Machine

/-- Bits n − 1 to 0 of x read as two's complement (03_formats.md R58). -/
def sext (x n : Nat) : Int :=
  if x % 2 ^ n < 2 ^ (n - 1) then (x % 2 ^ n : Nat) else (x % 2 ^ n : Nat) - (2 ^ n : Nat)

/-- Element bytes of a format (07_streams.md R106). -/
def tagBytes : Tag → Nat
  | .i8 | .d8 | .d8s => 1
  | .i16 | .bf16 => 2
  | .i32 | .f32 => 4
  | .i64 => 8

/-- A tag code of three bits always names a tag (04_registers.md R62). -/
def tagOf (c : Nat) : Tag := (Tag.ofCode (c % 8)).getD .i8

/-- The n-bit field of a descriptor at bit lo. -/
def dField (d : BitVec 256) (lo n : Nat) : Nat := d.toNat / 2 ^ lo % 2 ^ n

def dBase (d : BitVec 256) : Int := sext (dField d 0 56) 56
def dFmt (d : BitVec 256) : Tag := tagOf (dField d 56 3)
def dDims (d : BitVec 256) : Nat := dField d 59 2
def dUno (d : BitVec 256) : Bool := dField d 61 1 == 1
def dStart (d : BitVec 256) : Nat := dField d 64 40
def dWin (d : BitVec 256) : Nat := dField d 104 3 + 1
def dN0 (d : BitVec 256) : Nat := dField d 108 20
def dSt0 (d : BitVec 256) : Int := sext (dField d 128 30) 30
def dN1 (d : BitVec 256) : Nat := dField d 158 20
def dSt1 (d : BitVec 256) : Int := sext (dField d 192 30) 30
def dSt2 (d : BitVec 256) : Int := sext (dField d 222 30) 30

/-- Positions are kept modulo 2^40 (07_streams.md R104). -/
def posMod : Nat := 2 ^ 40

/-- The descriptor with its START replaced (06_forme.md R96). -/
def dSetStart (d : BitVec 256) (p : Nat) : BitVec 256 :=
  BitVec.ofNat 256 (d.toNat - dStart d * 2 ^ 64 + p % posMod * 2 ^ 64)

/-- The reserved bits of a descriptor: bits 63:62 of doubleword 0, 43 of 1, 63:50 of 2, 63:60 of 3, and the stride
fields that DIMS leaves unused (07_streams.md R103). -/
def dReserved (d : BitVec 256) : Bool :=
  dField d 62 2 != 0 || dField d 107 1 != 0 || dField d 178 14 != 0 || dField d 252 4 != 0
    || (dDims d == 0 && dField d 192 30 != 0) || (dDims d < 2 && dField d 222 30 != 0)

/-- The byte offset of column c of dimension 0: a stride, or for D8S a place in the 32-byte blocks (R104; 05_numbers.md
R79). -/
def colOff (d : BitVec 256) (c : Int) : Int :=
  if dFmt d = .d8s then 32 * (c / 31) + 1 + c % 31 else c * dSt0 d

/-- The offset of the outer dimensions for position i (R104). -/
def outerOff (d : BitVec 256) (i : Nat) : Int :=
  if dDims d = 0 then 0
  else if dDims d = 1 then (i / dN0 d : Nat) * dSt1 d
  else (i / dN0 d % dN1 d : Nat) * dSt1 d + (i / (dN0 d * dN1 d) : Nat) * dSt2 d

/-- The column of position i. -/
def colOf (d : BitVec 256) (i : Nat) : Nat := if dDims d = 0 then i else i % dN0 d

/-- The exact address of position i (R104). -/
def streamAddr (d : BitVec 256) (i : Nat) : Int :=
  dBase d + colOff d (colOf d i) + outerOff d i

/-- The address of the scale byte of position i of a D8S stream (R104). -/
def scaleAddr (d : BitVec 256) (i : Nat) : Int :=
  dBase d + 32 * ((colOf d i : Int) / 31) + outerOff d i

/-- The address of a gather's position, which may be negative (R109). -/
def gatherAddr (d : BitVec 256) (p : Int) : Int := dBase d + colOff d p

/-- The scale byte of a gather's position. -/
def gatherScale (d : BitVec 256) (p : Int) : Int := dBase d + 32 * (p / 31)

/-- Bits 63:56 are all copies of bit 55 (03_formats.md R32; 07_streams.md R104). -/
def canonicalInt (a : Int) : Bool := decide (-(2 ^ 55) ≤ a) && decide (a < 2 ^ 55)

/-- An exact address as a 64-bit value. -/
def addrWord (a : Int) : Word := BitVec.ofInt 64 a

/-- The same for an address held in a register. -/
def canonical (a : Word) : Bool := canonicalInt a.toInt

/-- A byte interval, both ends included. -/
structure Range where
  lo : Int
  hi : Int
  deriving DecidableEq, Repr

/-- Two ranges share a byte (08_faults.md R116). -/
def Range.meets (a b : Range) : Bool := decide (a.lo ≤ b.hi) && decide (b.lo ≤ a.hi)

/-- The smallest range that holds both. -/
def Range.join (a b : Range) : Range := ⟨min a.lo b.lo, max a.hi b.hi⟩

/-- A run p0 to p1 of positions of a dimension of n columns as boxes of whole column and row runs. -/
def boxes (n p0 p1 : Nat) : List ((Nat × Nat) × (Nat × Nat)) :=
  let r0 := p0 / n
  let r1 := p1 / n
  if r0 = r1 then [((p0 % n, p1 % n), (r0, r0))]
  else [((p0 % n, n - 1), (r0, r0)), ((0, p1 % n), (r1, r1))]
    ++ (if r0 + 1 < r1 then [((0, n - 1), (r0 + 1, r1 - 1))] else [])

/-- The extremes of i × st over lo to hi. -/
def lin (lo hi : Nat) (st : Int) : Range := ⟨min (lo * st) (hi * st), max (lo * st) (hi * st)⟩

/-- The bytes of columns lo to hi, D8S widened to whole blocks (R116). -/
def colRange (d : BitVec 256) (lo hi : Int) : Range :=
  if dFmt d = .d8s then ⟨32 * (lo / 31), 32 * (hi / 31) + 31⟩
  else
    let w : Int := tagBytes (dFmt d)
    ⟨min (lo * dSt0 d) (hi * dSt0 d), max (lo * dSt0 d) (hi * dSt0 d) + w - 1⟩

/-- The sum of two ranges of offsets. -/
def Range.add (a b : Range) : Range := ⟨a.lo + b.lo, a.hi + b.hi⟩

/-- The smallest interval of the offsets of positions p0 to p1 (R116). -/
def offRange (d : BitVec 256) (p0 p1 : Nat) : Range :=
  let parts : List Range :=
    if dDims d = 0 then [colRange d p0 p1]
    else if dDims d = 1 then
      (boxes (dN0 d) p0 p1).map fun (c, r) => (colRange d c.1 c.2).add (lin r.1 r.2 (dSt1 d))
    else
      (boxes (dN0 d) p0 p1).flatMap fun (c, r) =>
        (boxes (dN1 d) r.1 r.2).map fun (m, q) =>
          ((colRange d c.1 c.2).add (lin m.1 m.2 (dSt1 d))).add (lin q.1 q.2 (dSt2 d))
  match parts with
  | [] => ⟨0, 0⟩
  | a :: r => r.foldl Range.join a

/-- The range of count positions from p, positions taken modulo 2^40 (R104, R116); none for no position. -/
def posRange (d : BitVec 256) (p count : Nat) : Option Range :=
  if count = 0 then none
  else
    let q := p % posMod
    let r := if q + count ≤ posMod then offRange d q (q + count - 1)
      else (offRange d q (posMod - 1)).join (offRange d 0 (q + count - 1 - posMod))
    some ⟨dBase d + r.lo, dBase d + r.hi⟩

/-- The range of an indexed leaf or sink: the positions the index tag can reach from START, or every address (R116). -/
def indexRange (d : BitVec 256) (t : Tag) : Range :=
  match t with
  | .i64 => ⟨-(2 ^ 55), 2 ^ 55 - 1⟩
  | t =>
    let w : Nat := 8 * tagBytes t
    let a : Int := (dStart d : Int) - 2 ^ (w - 1)
    let b : Int := (dStart d : Int) + 2 ^ (w - 1) - 1
    let r := colRange d a b
    ⟨dBase d + r.lo, dBase d + r.hi⟩

/-- The patterns of a sink and a leaf agree (R123). -/
def patternsAgree (a b : BitVec 256) : Bool :=
  dDims a == dDims b && dSt0 a == dSt0 b
    && (dDims a == 0 || (dN0 a == dN0 b && dSt1 a == dSt1 b))
    && (dDims a != 2 || (dN1 a == dN1 b && dSt2 a == dSt2 b))
    && tagBytes (dFmt a) == tagBytes (dFmt b) && (dFmt a == .d8s) == (dFmt b == .d8s)

/-- A stride in use is zero, so that no whole displacement exists (R123). -/
def strideZero (d : BitVec 256) : Bool :=
  dSt0 d == 0 || (dDims d != 0 && dSt1 d == 0) || (dDims d == 2 && dSt2 d == 0)

/-- The displacement of a one-dimensional sink at position ps from a leaf at position pl of an agreeing pattern, as positions
run on, where one exists (R123). -/
def displacement (sink leaf : BitVec 256) (ps pl : Nat) : Option Int :=
  let diff := dBase sink - dBase leaf
  if dFmt sink = .d8s then
    if diff % 32 = 0 then some (31 * (diff / 32) + ps - pl) else none
  else if dSt0 sink = 0 then none
  else if diff % dSt0 sink = 0 then some (diff / dSt0 sink + ps - pl) else none

/-- A one-dimensional sink of count elements lies on the leaf or trails it (R123). Positions are kept modulo 2^40 (R104): over one
base the displacement is one of positions, which trails only where no element of the sink runs ahead of the leaf round the end of
the positions; over two, whole only while the positions run on. -/
def trails (sink leaf : BitVec 256) (ps pl count : Nat) : Bool :=
  match displacement sink leaf ps pl with
  | none => false
  | some d =>
    if dBase sink = dBase leaf then
      d % posMod == 0 || (decide (Int.bmod d posMod < 0) && decide ((count : Int) ≤ d % posMod))
    else decide (d ≤ 0) && decide (ps + count ≤ posMod) && decide (pl + d + count ≤ posMod)

/-- The next index from i on at which the position that starts at p comes to a multiple of n. -/
def nextTurn (p n i : Nat) : Nat := i + (n - (p + i) % posMod % n)

/-- The same for a place in a D8S block of the position's column. -/
def nextBlock (d : BitVec 256) (p i : Nat) : Nat := i + (31 - colOf d ((p + i) % posMod) % 31)

/-- The indices at which the address difference of two agreeing patterns of more than one dimension can take a value that it has
not had before: those where positions begin at 0 again, then a plane, then a row and then a D8S block of either begins. -/
def turnPoints (d : BitVec 256) (ps pl : Nat) : List Nat :=
  let row := dN0 d
  let plane := dN0 d * dN1 d
  let starts := [0, posMod - ps, posMod - pl]
  let planes := starts.flatMap fun i => if dDims d = 2 then [i, nextTurn ps plane i, nextTurn pl plane i] else [i]
  let rows := planes.flatMap fun i => [i, nextTurn ps row i, nextTurn pl row i]
  rows.flatMap fun i => if dFmt d = .d8s then [i, nextBlock d ps i, nextBlock d pl i] else [i]

/-- Every element of the sink lies on the same element of the leaf (R123, in place). -/
def inPlace (sink leaf : BitVec 256) (ps pl count : Nat) : Bool :=
  (turnPoints sink ps pl).all fun i =>
    decide (count ≤ i) || streamAddr sink ((ps + i) % posMod) == streamAddr leaf ((pl + i) % posMod)

/-- The verdict of R123 for a sink whose range meets a leaf's, neither indexed: true when the overlap is permitted. -/
def overlapPermitted (sink leaf : BitVec 256) (ps pl count : Nat) : Bool :=
  if !patternsAgree sink leaf || strideZero sink then false
  else if dDims sink = 0 then trails sink leaf ps pl count
  else inPlace sink leaf ps pl count

end Sys2Proof.Machine
end

