-- ==== Sys2Proof/Machine/Forme.lean ====
section
/-! DEFINITION. The forme and the galley as data (06_forme.md R88 to R99): which nodes a register or a sink reaches,
which are live, the byte ranges of leaves and sinks (08_faults.md R116), and the STALE marks (R121). -/

namespace Sys2Proof.Machine

/-- The node with a number. -/
def findNode (ns : List Node) (n : Nat) : Option Node := ns.find? fun x => x.id == n

/-- The nodes a node uses: its vector sources, its index and its predicate (R88). -/
def Node.uses (n : Node) : List Nat :=
  n.srcs.map (·.node) ++ (n.pred.map (·.node)).toList

/-- The node is a leaf (R89). -/
def Node.isLeaf (n : Node) : Bool :=
  match n.op with
  | .leaf .. => true
  | _ => false

/-- The numbers reached from seeds; nodes use only nodes appended before them, so one sweep from the newest suffices. -/
def reachFrom (ns : List Node) (seeds : List Nat) : List Nat :=
  ns.reverse.foldl (fun acc n => if acc.contains n.id then n.uses ++ acc else acc) seeds

/-- The nodes a sink reaches: its data, its index and its predicate (R91, R92). -/
def Sink.seeds (g : Sink) : List Nat :=
  g.node :: (g.pred.toList ++ (match g.op with | .store _ _ _ i => i.toList | _ => []))

/-- The numbers that the pending sinks reach (R95). -/
def galleyReach (v : VecState) : List Nat :=
  reachFrom v.forme (v.galley.flatMap Sink.seeds)

/-- The node a register names, STALE or not (R61). -/
def RegState.named : RegState → Option Nat
  | .node n => some n
  | .stale n _ => some n
  | _ => none

/-- The numbers that vector and mask registers name. -/
def namedNodes (v : VecState) : List Nat :=
  v.v.toList.filterMap (fun r => r.state.named) ++ v.k.toList.filterMap RegState.named

/-- The live nodes (R99): named, used by a live node, or reached by a pending sink. -/
def liveNodes (v : VecState) : List Nat :=
  reachFrom v.forme (namedNodes v ++ v.galley.flatMap Sink.seeds)

/-- The forme without the nodes that are no longer live (R99). -/
def collect (v : VecState) : VecState :=
  { v with forme := v.forme.filter fun n => (liveNodes v).contains n.id }

/-- The element tag of a node's value as an index (R109). -/
def indexTag (ns : List Node) (i : Nat) : Tag := ((findNode ns i).bind (·.tag)).getD .i64

/-- How many elements the running or suspended pass has done in a leaf (R96; 20_reference_t_z.md R321). -/
def passDone (v : VecState) (n : Nat) : Nat :=
  match v.pass with
  | none => 0
  | some p =>
    match p.leaves.find? fun l => l.node == n with
    | none => 0
    | some l => min l.cells.length p.progress

/-- The entry of a live leaf in the interlock table (08_faults.md R116): from its current position through the last
position its pass reads, or its recorded VL positions. -/
def leafRange (v : VecState) (n : Node) : Option Range :=
  match n.op with
  | .leaf _ d _ _ =>
    if n.released then none
    else
      match n.srcs with
      | [] => posRange d n.pos (n.len - passDone v n.id)
      | i :: _ => some (indexRange d (indexTag v.forme i.node))
  | _ => none

/-- The length recorded by a sink's node (R92). -/
def sinkLen (v : VecState) (g : Sink) : Nat := ((findNode v.forme g.node).map (·.len)).getD 0

/-- The entry of a pending store sink (R116). -/
def sinkRange (v : VecState) (g : Sink) : Option Range :=
  match g.op with
  | .store _ d _ none => posRange d (dStart d) (sinkLen v g)
  | .store _ d _ (some i) => some (indexRange d (indexTag v.forme i))
  | _ => none

/-- A range meets an optional entry. -/
def meetsEntry (r : Range) (e : Option Range) : Bool :=
  match e with
  | none => false
  | some x => r.meets x

/-- The range meets a pending store sink (R117). -/
def meetsSink (v : VecState) (r : Range) : Bool :=
  v.galley.any fun g => meetsEntry r (sinkRange v g)

/-- The live leaves whose entries the range meets (R117), in append order. -/
def leavesMet (v : VecState) (r : Range) : List Nat :=
  let live := liveNodes v
  (v.forme.filter fun n => n.isLeaf && live.contains n.id && meetsEntry r (leafRange v n)).map (·.id)

/-- Makes a register STALE when its node reaches one of the leaves (R121); a register already STALE keeps its write
PC. -/
def RegState.spoil (ns : List Node) (leaves : List Nat) (pc : Word) : RegState → RegState
  | .node n => if (reachFrom ns [n]).any leaves.contains then .stale n pc else .node n
  | r => r

/-- Every vector and mask register whose node reaches one of the leaves becomes STALE with the write PC (R121). -/
def spoilRegs (v : VecState) (leaves : List Nat) (pc : Word) : VecState :=
  if leaves.isEmpty then v
  else
    { v with
      v := v.v.map fun r => { r with state := r.state.spoil v.forme leaves pc }
      k := v.k.map fun r => r.spoil v.forme leaves pc }

/-- The pass over the galley as it begins (R95, R96): its leaves at their current positions, nothing read. -/
def Pass.begin (v : VecState) (demand : Word) (late : Bool) (met : List Nat) : Pass where
  demand := demand
  progress := 0
  saved := 0
  cut := none
  leaves := (v.forme.filter fun n => n.isLeaf && (galleyReach v).contains n.id).map fun n =>
    let r := (leafRange v n).getD ⟨0, -1⟩
    { node := n.id, base := n.pos, lo := r.lo, hi := r.hi, cells := [], kept := [], marks := [] }
  perms := []
  flagged := []
  sinkFlags := 0
  commits := v.galley.map fun _ => 0
  taken := v.galley.map fun _ => []
  suspended := false
  got := []
  outstanding := 0
  pins := []
  late := late
  met := met

/-- The SL of a pass: that of the galley's first sink (R91). -/
def passSl (v : VecState) : Nat := max 1 ((v.galley.head?.map (·.sl)).getD 1)

/-- Where a suspended pass goes on: from the first element of its partial strip that ECMW does not mark (08_faults.md R127;
log 18). -/
def resumeAt (sl e : Nat) (ecmw : BitVec 1024) : Nat :=
  let b := e / sl * sl
  (((List.range (e - b)).find? fun i => !ecmw.getLsbD i).map (b + ·)).getD e

/-- The values that ordinary uses of a leaf see. -/
def LeafRun.view (l : LeafRun) : List (Option Nat) := l.kept ++ l.cells.drop l.kept.length

/-- The entries of a list from the r-th on, with their places. -/
def fromOn {α : Type} (r : Nat) (xs : List α) : List (Nat × α) := (xs.drop r).mapIdx fun i x => (r + i, x)

/-- A leaf's run that is read again from element r on, but for the elements that keep their saved values. -/
def LeafRun.resume (l : LeafRun) (r : Nat) (keep : Nat → Bool) : LeafRun :=
  { l with
    cells := l.cells.take r
    kept := l.kept.take r
    marks := (fromOn r l.view ++ l.marks).filter fun m => keep m.1 }

/-- The same for the selections of a VPERM. -/
def PermRun.resume (x : PermRun) (r : Nat) (keep : Nat → Bool) : PermRun :=
  { x with
    picked := x.picked.take r
    marks := (fromOn r x.picked ++ x.marks).filter fun m => keep m.1 }

/-- The bit of an element of the strip that holds element e, in ECMW (R126). -/
def stripBit (sl e i : Nat) (ecmw : BitVec 1024) : Bool :=
  let b := e / sl * sl
  decide (b ≤ i) && decide (i < b + sl) && ecmw.getLsbD (i - b)

/-- A suspended pass as it is continued: the elements that ECMW does not mark are read again, and the others keep their saved
values (R127). -/
def Pass.resume (p : Pass) (sl : Nat) (ecmw : BitVec 1024) : Pass :=
  let r := resumeAt sl p.progress ecmw
  let keep (i : Nat) : Bool := stripBit sl p.progress i ecmw
  { p with
    progress := r
    saved := min p.saved r
    flagged := p.flagged.map fun x => (x.1, min x.2 r)
    leaves := p.leaves.map fun l => l.resume r keep
    perms := p.perms.map fun x => x.resume r keep }

/-- The entries the interlock table holds: live leaves not released and pending store sinks (R116); engine transfers
are counted by their own ranges. -/
def tableEntries (v : VecState) : Nat :=
  (v.forme.filter fun n => (leafRange v n).isSome && (liveNodes v).contains n.id).length
    + (v.galley.filter fun g => (sinkRange v g).isSome).length

end Sys2Proof.Machine
end

