-- ==== Sys2Proof/Machine/Ops.lean ====
section
/-! DEFINITION. The named operations over memory, harts, cores and registers; translation and the memory accesses of a
hart (03_formats.md R58, read_mem and write_mem); taking an exception and returning from one (14_traps.md R208, R210);
and how an instruction issues and retires (R34, R41, R42, R93; 09_control.md R141; 12_launch.md R171). -/

namespace Sys2Proof.Machine

/-! ### Memory -/

/-- What an address that nothing has written reads as: the manual gives RAM no reset contents (log 1). -/
def memBlank : Byte := 0

/-- The byte at a location. -/
def memGet : List Host.Cell → Nat → Byte
  | [], _ => memBlank
  | (k, b) :: r, a => if k = a then b else memGet r a

/-- The memory with one byte replaced, in canonical form. -/
def memSet : List Host.Cell → Nat → Byte → List Host.Cell
  | [], a, b => if b = memBlank then [] else [(a, b)]
  | (k, c) :: r, a, b =>
    if a < k then (if b = memBlank then (k, c) :: r else (a, b) :: (k, c) :: r)
    else if a = k then (if b = memBlank then r else (a, b) :: r)
    else (k, c) :: memSet r a b

/-- Every key of the list is above a bound, keys rise, and no entry is blank. -/
def memWfAbove : Option Nat → List Host.Cell → Bool
  | _, [] => true
  | lo, (k, b) :: r =>
    (match lo with
      | none => true
      | some l => decide (l < k)) && b != memBlank && memWfAbove (some k) r

/-- The canonical form of memory: addresses strictly rising, no entry equal to what an unlisted address reads as. -/
def memWf (m : List Host.Cell) : Bool := memWfAbove none m

/-- The memory with the bytes from a on replaced, in ascending order. -/
def memPut : List Host.Cell → Nat → List Byte → List Host.Cell
  | m, _, [] => m
  | m, a, b :: r => memPut (memSet m a b) (a + 1) r

/-- The n bytes from a on, lowest first. -/
def memBytes (m : List Host.Cell) (a : Nat) : Nat → List Byte
  | 0 => []
  | n + 1 => memGet m a :: memBytes m (a + 1) n

/-- The n bytes of a value, little-endian (00_scope.md R3). -/
def leBytes (n v : Nat) : List Byte := bytesOfWord n v

/-- The value of bytes, little-endian (R3). -/
def leNat (bs : List Byte) : Nat := wordOfBytes bs

/-! ### Harts and cores -/

/-- The hart is on its core (12_launch.md R167, R182; 19_reference_j_s.md R292). -/
def Hart.resident (h : Hart) : Bool :=
  match h.status with
  | .running | .halted | .parked _ _ => true
  | _ => false

/-- Every hart of the state. -/
def State.harts (s : State) : List Hart := s.me :: s.others

/-- The hart with a package number, where the state holds one. -/
def State.hart? (s : State) (n : Nat) : Option Hart := s.harts.find? fun h => h.num == n

/-- Applies a change to the hart with a number. -/
def State.updHart (s : State) (n : Nat) (f : Hart → Hart) : State :=
  if s.me.num = n then { s with me := f s.me }
  else { s with others := s.others.map fun h => if h.num = n then f h else h }

/-- Makes the hart with a number the one whose turn it is. -/
def State.select (s : State) (n : Nat) : State :=
  if s.me.num = n then s
  else
    match s.others.find? fun h => h.num == n with
    | none => s
    | some h => { s with me := h, others := s.me :: s.others.filter fun x => x.num != n }

/-- Puts a hart into the state, in place of the one with its number. -/
def State.putHart (s : State) (h : Hart) : State :=
  if s.me.num = h.num then { s with me := h }
  else { s with others := h :: s.others.filter fun x => x.num != h.num }

/-- The shared registers of a core; a core that nothing has changed is at reset. -/
def State.coreAt (s : State) (n : Nat) : Core := (s.cores.find? fun c => c.num == n).getD (Core.reset n)

/-- Replaces the shared registers of a core. -/
def State.setCore (s : State) (c : Core) : State :=
  if s.cores.any fun x => x.num == c.num then
    { s with cores := s.cores.map fun x => if x.num = c.num then c else x }
  else { s with cores := s.cores ++ [c] }

/-- The core of the hart whose turn it is. -/
def State.myCore (s : State) : Core := s.coreAt s.me.core

/-- The die of a core or miller core (01_device.md R11, R12). -/
def dieOf (core : Nat) : Nat :=
  if core < Config.cores then core / Config.coresPerDie else (core - Config.cores) / 2

/-- The gang with a number. -/
def State.gang? (s : State) (g : Nat) : Option Gang := s.gangs.find? fun x => x.id == g

/-- Applies a change to a gang. -/
def State.updGang (s : State) (g : Nat) (f : Gang → Gang) : State :=
  { s with gangs := s.gangs.map fun x => if x.id = g then f x else x }

/-- A hart whose CONFIRMED is 0 is provisional (12_launch.md R176). -/
def Hart.provisional (h : Hart) : Bool := !h.cr.confirmed

/-- A confirmed hart's buffered stores have not all drained (R178). -/
def Hart.draining (h : Hart) : Bool := h.cr.confirmed && !h.prov.isEmpty

/-- The first location of a core's scratchpad: scratchpads lie above the 52-bit physical addresses in the model's
memory. -/
def spadLoc (core : Nat) : Nat := 2 ^ 52 + core * 2 ^ 19

/-- The scratchpad allocation of a hart as locations (12_launch.md R167). -/
def Hart.allocBase (h : Hart) : Nat := spadLoc h.core + 65536 * h.slot

/-- The n bytes at a location lie in the hart's allocation. -/
def Hart.owns (h : Hart) (loc n : Nat) : Bool :=
  decide (h.allocBase ≤ loc) && decide (loc + n ≤ h.allocBase + h.spad)

/-- The runs of the n bytes at a location that lie outside the hart's allocation, below it and above it: where each starts and
its length. -/
def Hart.outside (h : Hart) (loc n : Nat) : List (Nat × Nat) :=
  if h.spad = 0 then [(loc, n)]
  else
    let e := max loc (h.allocBase + h.spad)
    [(loc, min n (h.allocBase - loc)), (e, loc + n - e)].filter fun r => r.2 != 0

/-- The run of the n bytes at a location that lies inside the hart's allocation. -/
def Hart.inside (h : Hart) (loc n : Nat) : Nat × Nat :=
  let a := max loc h.allocBase
  (a, min (loc + n) (h.allocBase + h.spad) - a)

/-- The n bytes at a location touch the hart's allocation. -/
def Hart.touches (h : Hart) (loc n : Nat) : Bool :=
  decide (0 < h.spad) && decide (h.allocBase < loc + n) && decide (loc < h.allocBase + h.spad)

/-- The number of prefix words latched. -/
def Hart.prefixes (h : Hart) : Nat := h.tok.toList.length + h.ext.toList.length

/-- The address of the unit's first word (03_formats.md R58, unit_pc). -/
def Hart.unitPc (h : Hart) : Word := h.pc - BitVec.ofNat 64 (4 * h.prefixes)

/-! ### Scalar registers -/

/-- The physical scalar that a register field names: s0 to s7 do not move, s8 to s31 are the window (09_control.md
R136). -/
def Hart.phys (h : Hart) (r : SReg) : Fin 136 :=
  if r.toNat < 8 then ⟨r.toNat % 8, by omega⟩
  else ⟨8 + (h.wbase + (r.toNat - 8)) % 128, by omega⟩

/-- S[r], which reads as 0 for s0 (03_formats.md R58). -/
def Hart.reg (h : Hart) (r : SReg) : Word := if r = 0 then 0 else h.regs.get (h.phys r)

/-- The register names a pending scalar (06_forme.md R93); s0 is never pending. -/
def Hart.isPending (h : Hart) (r : SReg) : Bool := r != 0 && h.pend.get (h.phys r)

/-- Writes a physical scalar for the unit at an address, its last writer from then on (15_debug.md R225). -/
def Hart.writeScalar (h : Hart) (p : Fin 136) (v a : Word) : Hart :=
  { h with regs := h.regs.set p v, writers := h.writers.set p (some a) }

/-- Writes S[r], which discards writes for s0 (R58). -/
def State.setReg (s : State) (r : SReg) (v : Word) : State :=
  if r = 0 then s else { s with me := s.me.writeScalar (s.me.phys r) v s.me.unitPc }

/-- Notes the unit at the pc as the last writer of a register of matrix mode (15_debug.md R225). -/
def State.noteWriter (s : State) (i : Fin 88) : State :=
  { s with me := { s.me with matWriters := s.me.matWriters.set i (some s.me.unitPc) } }

/-- The numbers of the registers of matrix mode as their writers are noted: v0 to v63, then k0 to k15, then z0 to z7. -/
def matV (r : VReg) : Fin 88 := ⟨r.toNat, by omega⟩
def matK (r : KReg) : Fin 88 := ⟨64 + r.toNat, by omega⟩
def matZ (r : ZReg) : Fin 88 := ⟨80 + r.toNat, by omega⟩

/-- Writes a physical scalar for the unit at an address. -/
def State.setPhys (s : State) (p : Fin 136) (v a : Word) : State := { s with me := s.me.writeScalar p v a }

/-! ### Status fields -/

/-- ESTATUS.PPRIV, IE, PIE and PSUSP (04_registers.md R70). -/
def esPpriv (w : Word) : Bool := w.getLsbD 0
def esIe (w : Word) : Bool := w.getLsbD 1
def esPie (w : Word) : Bool := w.getLsbD 2
def esPsusp (w : Word) : Bool := w.getLsbD 3

/-- An ESTATUS value from its fields. -/
def esMake (psusp pie ie ppriv : Bool) : Word :=
  BitVec.ofNat 64 (8 * psusp.toNat + 4 * pie.toNat + 2 * ie.toNat + ppriv.toNat)

/-- An address register's bits 55:0 as an address, sign-extended from bit 55. -/
def sx56 (w : Word) : Word := addrWord (sext w.toNat 56)

/-- The value with its bits hi:lo kept and every other bit cleared (00_scope.md R5). -/
def keepBits (w : Word) (hi lo : Nat) : Word :=
  BitVec.ofNat 64 (w.toNat / 2 ^ lo % 2 ^ (hi + 1 - lo) * 2 ^ lo)

/-- In S-mode with ESTATUS.PSUSP = 1: no pass runs, accesses bypass the interlock table and pending scalars are no
demand points (08_faults.md R127, R128). -/
def State.handlerBypass (s : State) : Bool :=
  s.me.level == .s && esPsusp s.me.cr.estatus

/-- A demand point would run a pass now: the galley holds a sink and the hart is not in a handler of its suspended pass
(06_forme.md R94; R127). -/
def State.wouldRun (s : State) : Bool := !s.me.vec.galley.isEmpty && !s.handlerBypass

/-! ### How a unit ends -/

/-- What a unit comes to. -/
inductive Act where
  /-- It retires and execution goes on after it. -/
  | done (s : State)
  /-- It retires; its token is given later, at its signalling point (20_reference_t_z.md R303). -/
  | held (s : State)
  /-- It retires as a taken transfer. -/
  | jump (s : State) (target : Word)
  /-- It retires and has set the pc itself, outside the hardware loop's test (14_traps.md R210). -/
  | goto (s : State)
  /-- It raises an exception. -/
  | trap (s : State) (c : Cause) (eva : Word)
  /-- A pass runs before it (06_forme.md R94). -/
  | demand (s : State)
  /-- The same, where the instruction's own checks have come before it (06_forme.md R92, R99). -/
  | demandLate (s : State)
  /-- It has issued and waits; only what the state holds has changed. -/
  | wait (s : State)
  /-- It stalls: it has not issued, so that it has taken no token (00_scope.md R7). -/
  | stall (s : State)
  /-- It does not retire, and the state says where the hart goes on. -/
  | stay (s : State)
  /-- It retires, and a further effect holds only from the next unit (04_registers.md R69). -/
  | after (s : State) (f : State → State)

/-- A computation of a unit: a result, or how the unit ends before it. -/
abbrev Res (α : Type) := Except Act α

/-! ### Places -/

/-- What lies at a location (16_system.md R333, R239; 01_device.md R17). -/
inductive Place where
  | ram
  | remote
  | absent
  deriving DecidableEq, Repr

/-- Die d is present (16_system.md R233). -/
def State.diePresent (s : State) (d : Nat) : Bool := s.diesPresent.getLsbD d && decide (d < 4)

/-- The place of a location by the physical address map (R333). -/
def State.place (s : State) (loc : Nat) : Place :=
  if 2 ^ 52 ≤ loc then .ram
  else if loc / 2 ^ 48 = 15 then .remote
  else if loc < 4 * 2 ^ 36 then (if s.diePresent (loc / 2 ^ 36) then .ram else .absent)
  else if 2 ^ 45 ≤ loc ∧ loc < 2 ^ 45 + 4 * 2 ^ 43 then
    let d := (loc - 2 ^ 45) / 2 ^ 43
    if s.diePresent d && decide ((loc - 2 ^ 45) % 2 ^ 43 < s.cxlSize.getD d 0) then .ram else .absent
  else .absent

/-- A MACHINE record becomes pending at the hart whose turn it is, naming the physical address concerned, or 0 for a
scratchpad byte (14_traps.md R207). -/
def State.raiseMachine (s : State) (loc : Nat) : State :=
  { s with me := { s.me with
      machine := s.me.machine ++ [if loc < 2 ^ 52 then BitVec.ofNat 64 loc else 0] } }

/-- The byte that a hart sees at a location: its newest buffered store, else memory (12_launch.md R176). -/
def overlay (ps : List ProvStore) (loc : Nat) (b : Byte) : Byte :=
  ps.foldl (fun acc p => if p.loc ≤ loc ∧ loc < p.loc + p.bytes.length then p.bytes.getD (loc - p.loc) 0 else acc) b

/-- The n bytes that the hart whose turn it is sees from a location on (13_ordering.md R193; R176). -/
def State.view (s : State) (loc : Nat) : Nat → List Byte
  | 0 => []
  | n + 1 => overlay s.me.prov loc (memGet s.mem loc) :: State.view s (loc + 1) n

/-- Free bytes of a remote device from the free counter on (16_system.md R239; log 10). -/
def remoteBytes (k : Nat) : Nat → List Byte
  | 0 => []
  | n + 1 => Config.remoteByte k :: remoteBytes (k + 1) n

/-- All ones, for a read that no memory answers (R207, R233, R239). -/
def onesBytes (n : Nat) : List Byte := List.replicate n 0xFF

/-- A marked uncorrectable error lies in the n bytes (R207). -/
def State.hasError (s : State) (loc n : Nat) : Bool :=
  s.softErrors.any fun e => decide (loc ≤ e) && decide (e < loc + n)

/-- The address of a capability's data, by the list at CAPBASE (R236). -/
def State.capability (s : State) (id : Nat) : Nat → Nat → Option Nat
  | 0, _ => none
  | fuel + 1, p =>
    if p = 0 then none
    else
      let d := leNat (memBytes s.mem p 8)
      if d / 2 ^ 56 = id then some (leNat (memBytes s.mem (p + 8) 8) % 2 ^ 56)
      else State.capability s id fuel (d % 2 ^ 56)

/-- The data of a capability. -/
def State.capData (s : State) (id : Nat) : Option Nat :=
  s.capability id 256 ((s.capBase.toNat / 16) * 16)

/-- An access of the remote window as it is sent: PA bits 47:40 select the entry of the remote window table, and bits 39:0
are added to the base that it gives (R239). That an access goes out with an empty entry where the capability list has no such table
is the model's choice (log 10). -/
def State.remoteAccess (s : State) (pa : Nat) (op : RemoteOp) : RemoteAccess where
  entry := match s.capData 3 with
    | none => []
    | some t => memBytes s.mem (t + 32 * (pa / 2 ^ 40 % 2 ^ 8)) 32
  offset := pa % 2 ^ 40
  op := op

/-- Sends an access of the remote window. -/
def State.send (s : State) (pa : Nat) (op : RemoteOp) : State := { s with outbox := s.outbox ++ [s.remoteAccess pa op] }

/-- The hart's failed remote access (R239): the failure is used up and MACHINE is raised. -/
def State.remoteFailed (s : State) (loc : Nat) : State :=
  ({ s with me := { s.me with remoteFail := false } } : State).raiseMachine loc

/-- Bytes from a location on as the hart whose turn it is sees them, its own buffered stores over them (R176). -/
def State.overlaid (s : State) : Nat → List Byte → List Byte
  | _, [] => []
  | loc, b :: r => overlay s.me.prov loc b :: State.overlaid s (loc + 1) r

/-- The hart's own buffered stores cover all n bytes, so that memory is not read. -/
def State.covered (s : State) (loc n : Nat) : Bool :=
  !s.me.prov.isEmpty && (List.range n).all fun i =>
    s.me.prov.any fun p => decide (p.loc ≤ loc + i) && decide (loc + i < p.loc + p.bytes.length)

/-- Performs a read of n bytes at a location, for the hart whose turn it is (R176, R193, R207, R233, R239). -/
def State.readLoc (s : State) (loc n : Nat) : State × List Byte :=
  if s.covered loc n then (s, s.view loc n)
  else
    match s.place loc with
    | .ram => if s.hasError loc n then (s.raiseMachine loc, s.overlaid loc (onesBytes n)) else (s, s.view loc n)
    | .remote =>
      if s.me.remoteFail then (s.remoteFailed loc, s.overlaid loc (onesBytes n))
      else ({ s.send loc (.read n) with free := s.free + n }, s.overlaid loc (remoteBytes s.free n))
    | .absent => (s.raiseMachine loc, s.overlaid loc (onesBytes n))

/-- The publications a write makes: watched cells whose PUB rises from 0 to 1 (12_launch.md R178, R277). -/
def newPubs (gs : List Gang) (old new : List Host.Cell) (loc n : Nat) : List Publication :=
  let watching := gs.filter fun g => g.live && !g.confirmed
  ((watching.filterMap (·.cellLoc)).eraseDups.filter fun c => decide (c < loc + n) && decide (loc < c + 8)
      && !(memGet old (c + 7)).getLsbD 7 && (memGet new (c + 7)).getLsbD 7).map
    fun c =>
      { loc := c, count := leNat (memBytes new c 4)
        gangs := (watching.filter fun g => g.cellLoc == some c).map (·.id) }

/-- Stores bytes in memory, where they become visible to every agent; a store over a marked location clears its
error (log 1), and a publication is noted. -/
def State.store (s : State) (loc : Nat) (bytes : List Byte) : State :=
  let m := memPut s.mem loc bytes
  { s with
    mem := m
    pubs := s.pubs ++ newPubs s.gangs s.mem m loc bytes.length
    softErrors := s.softErrors.filter fun e => !(decide (loc ≤ e) && decide (e < loc + bytes.length)) }

/-- Performs a write at a location as an agent without buffer (R233, R239). -/
def State.performWrite (s : State) (loc : Nat) (bytes : List Byte) : State :=
  match s.place loc with
  | .ram => s.store loc bytes
  | .remote =>
    if s.me.remoteFail then s.remoteFailed loc else s.send loc (.write bytes)
  | .absent => s.raiseMachine loc

/-- The bytes of a write at a location that a run of it holds. -/
def runBytes (loc : Nat) (bytes : List Byte) (r : Nat × Nat) : List Byte := (bytes.drop (r.1 - loc)).take r.2

/-- Writes for the hart whose turn it is: what of a provisional hart's write lies outside its allocation is buffered
(R176). -/
def State.writeLoc (s : State) (loc : Nat) (bytes : List Byte) : State :=
  if !s.me.provisional || s.me.owns loc bytes.length then s.performWrite loc bytes
  else
    let h := s.me
    let r := h.inside loc bytes.length
    let s1 := if h.touches loc bytes.length then s.performWrite r.1 (runBytes loc bytes r) else s
    { s1 with me := { s1.me with prov := s1.me.prov ++ (h.outside loc bytes.length).map fun r =>
        { loc := r.1, bytes := runBytes loc bytes r, notes := [] } } }

/-- The aligned doubleword that a buffered store ends in. -/
def ProvStore.last (p : ProvStore) : Nat := (p.loc + p.bytes.length - 1) / 8

/-- The buffer entries a provisional hart holds: one for each aligned doubleword of a store, and consecutive stores within
one doubleword share one (R177). The manual states the sharing for the elements of a store sink; that consecutive scalar stores
within one doubleword share too is the model's choice (log 22). -/
def provEntries : List ProvStore → Nat
  | [] => 0
  | [a] => a.last + 1 - a.loc / 8
  | a :: b :: r => (if a.last = b.loc / 8 then a.last - a.loc / 8 else a.last + 1 - a.loc / 8) + provEntries (b :: r)

/-- The entries in use on a hart's core (R177). -/
def State.provUsed (s : State) : Nat :=
  ((s.harts.filter fun h => h.core == s.me.core).map fun h => provEntries h.prov).sum

/-- The provisional store buffer has an entry for a store of the hart (R177). -/
def State.provRoom (s : State) (loc n : Nat) : Bool :=
  !s.me.provisional || s.me.owns loc n || decide (s.provUsed < 2048)
    || (match s.me.prov.getLast? with
        | some p => p.last == loc / 8
        | none => false)

/-- The hart's allocation is closed to other agents: the hart is provisional, or squashed and its allocation is not yet
zeroed (R176; 13_ordering.md R201). -/
def Hart.closed (h : Hart) : Bool := h.provisional && (h.resident || h.status == .squashed)

/-- The bytes lie in the closed allocation of another hart, so that the access stalls (R176, R201). -/
def State.heldByOther (s : State) (loc n : Nat) : Bool :=
  s.others.any fun h => h.closed && h.touches loc n

/-! ### Translation -/

/-- The kinds of access a translation is checked for (14_traps.md R216). -/
inductive Kind where
  | read
  | write
  | amo
  | fetch
  deriving DecidableEq, Repr

/-- The window a virtual address lies in, with its location, for a hart of a core (01_device.md R17, R18). -/
def windowLoc (core : Nat) (va : Nat) : Option Nat :=
  if va / 2 ^ 19 = 0x0070000000000000 / 2 ^ 19 then some (spadLoc core + va % 2 ^ 19)
  else if va / 2 ^ 23 = 0x0071000000000000 / 2 ^ 23 then
    some (spadLoc (core / 16 * 16 + va / 2 ^ 19 % 16) + va % 2 ^ 19)
  else none

/-- The first address after the window that holds an address (R18). -/
def windowEnd (va : Nat) : Option Nat :=
  if va / 2 ^ 19 = 0x0070000000000000 / 2 ^ 19 then some 0x0070000000080000
  else if va / 2 ^ 23 = 0x0071000000000000 / 2 ^ 23 then some 0x0071000000800000
  else none

/-- An access that starts at the first address in a window has run past the window's end (R18). -/
def pastWindow (first va : Nat) : Bool :=
  match windowEnd first with
  | none => false
  | some e => decide (e ≤ va)

/-- The bits of a PTE (14_traps.md R216). -/
def pteV (p : Nat) : Bool := p % 2 == 1
def pteR (p : Nat) : Bool := p / 2 % 2 == 1
def pteW (p : Nat) : Bool := p / 4 % 2 == 1
def pteX (p : Nat) : Bool := p / 8 % 2 == 1
def pteU (p : Nat) : Bool := p / 16 % 2 == 1
def pteL (p : Nat) : Bool := p / 32 % 2 == 1
def pteA (p : Nat) : Bool := p / 64 % 2 == 1
def pteD (p : Nat) : Bool := p / 128 % 2 == 1
def pteM (p : Nat) : Bool := p / 256 % 2 == 1

/-- ADDR as a physical address: bits 51:10 in place. -/
def pteAddr (p : Nat) : Nat := p / 2 ^ 10 % 2 ^ 42 * 2 ^ 10

/-- The first check of a walk on a PTE of a level (R216, item 1). -/
def pteSound (p level : Nat) : Bool :=
  pteV p && p / 2 ^ 52 == 0 && p / 512 % 2 == 0
    && (if pteL p then
          level != 1
            && (if level = 2 then p / 2 ^ 10 % 2 ^ 21 == 0 && !pteM p
                else pteM p || p / 2 ^ 10 % 2 ^ 8 == 0)
        else level != 3 && p / 2 % 2 ^ 8 == 0 && p / 2 ^ 10 % 2 ^ 6 == 0)

/-- The permission check at a leaf (R216, item 2): U-mode needs U, and an AMO needs R and W. -/
def pteAllows (p : Nat) (k : Kind) (user : Bool) : Bool :=
  (match k with
    | .read => pteR p
    | .write => pteW p
    | .amo => pteR p && pteW p
    | .fetch => pteX p) && (!user || pteU p)

/-- A write marks the page dirty (R216, item 3). -/
def Kind.dirties : Kind → Bool
  | .write | .amo => true
  | _ => false

/-- The PTE with A set, and D on a write (R216, item 3). -/
def pteMark (p : Nat) (k : Kind) : Nat :=
  p + (if pteA p then 0 else 64) + (if k.dirties && !pteD p then 128 else 0)

/-- The doubleword of a page table as the walking hart sees it, or all ones where no memory backs it or an uncorrectable
error is marked, which MACHINE reports (R207, R215, R233). In the remote window, where the manual lists no walk (16_system.md
R239), it reads as all ones, with no access sent and no MACHINE: the model's choice (log 10). -/
def State.readPte (s : State) (loc : Nat) : State × Nat :=
  match s.place loc with
  | .remote => (s, 2 ^ 64 - 1)
  | _ =>
    let (s1, bs) := s.readLoc loc 8
    (s1, leNat bs)

/-- The walk of a virtual address: the location of its leaf PTE, the PTE and whether it maps 2 GiB; none where the walk
raises PAGEFAULT (R215, R216). -/
def State.walk (s : State) (ptbase : Word) (va : Nat) : State × Option (Nat × Nat × Bool) :=
  let e1 := ptbase.toNat / 2 ^ 15 % 2 ^ 37 * 2 ^ 15 + 8 * (va / 2 ^ 44 % 2 ^ 12)
  let (s1, p1) := s.readPte e1
  if !pteSound p1 1 then (s1, none)
  else
    let e2 := pteAddr p1 + 8 * (va / 2 ^ 31 % 2 ^ 13)
    let (s2, p2) := s1.readPte e2
    if !pteSound p2 2 then (s2, none)
    else if pteL p2 then (s2, some (e2, p2, true))
    else
      let e3 := pteAddr p2 + 8 * (va / 2 ^ 18 % 2 ^ 13)
      let (s3, p3) := s2.readPte e3
      if !pteSound p3 3 then (s3, none) else (s3, some (e3, p3, false))

/-- Memory backs the n bytes at a location and holds no uncorrectable error there. -/
def State.sound (s : State) (loc n : Nat) : Bool :=
  ((List.range n).all fun i => s.place (loc + i) == .ram) && !s.hasError loc n

/-- A doubleword of a migration record, all ones where no memory backs it or an uncorrectable error is marked (R207, R233). In
the remote window, where the manual lists no such read (16_system.md R239), it reads as all ones, with no access sent: the
model's choice (log 10). -/
def State.recordDword (s : State) (loc : Nat) : Nat :=
  if s.sound loc 8 then leNat (memBytes s.mem loc 8) else 2 ^ 64 - 1

/-- A frame that an argument or a migration record names: bits 51:18, the others ignored (14_traps.md R218; 00_scope.md R5). -/
def frameField (x : Nat) : Nat := x / 2 ^ 18 % 2 ^ 34 * 2 ^ 18

/-- The location that a leaf PTE gives a virtual address; a page in migration lies in its new frame below the progress
pointer and in its old frame from there (R216, R218; 07_streams.md R115). -/
def State.frameLoc (s : State) (pte : Nat) (large : Bool) (va : Nat) : Nat :=
  if large then pteAddr pte / 2 ^ 31 * 2 ^ 31 + va % 2 ^ 31
  else if pteM pte then
    let r := pteAddr pte
    let off := va % 2 ^ 18
    let frame := if off < s.recordDword (r + 16) % 2 ^ 19 then s.recordDword (r + 8) else s.recordDword r
    frameField frame + off
  else pteAddr pte / 2 ^ 18 * 2 ^ 18 + va % 2 ^ 18

/-- The read of a migration record at a location raises MACHINE: an uncorrectable error lies there, or no memory backs it
(R207, R233). -/
def State.recordBad (s : State) (r : Nat) : Bool := s.place r != .remote && !s.sound r 24

/-- The location of an address under a translation, an error in the migration record reported by MACHINE (R207, R216, R233). -/
def State.frameOf (s : State) (t : Translation) (va : Nat) : State × Nat :=
  let p := t.pte.toNat
  (if !t.large && pteM p && s.recordBad (pteAddr p) then s.raiseMachine (pteAddr p) else s, s.frameLoc p t.large va)

/-- The page a translation maps. -/
def pageOf (large : Bool) (va : Nat) : Nat := if large then va / 2 ^ 31 else va / 2 ^ 18

/-- The second-level TLB of a core: its cluster's (00_scope.md R9; 01_device.md R11). The manual gives a miller core's TLB
nowhere: that it has one level, of a core's size and its own, is the model's choice (log 2). -/
def clusterTlb (core : Nat) : Nat := if core < Config.cores then 1024 + core / 16 else core

/-- The TLB entry a hart of a core uses for an address: its core's, or one its cluster shares (R11, R217). -/
def State.tlbHit (s : State) (ptbase : Word) (va : Nat) : Option TlbEntry :=
  s.tlb.find? fun e => (e.unit == s.me.core || e.unit == clusterTlb s.me.core) && e.ptbase == ptbase
    && e.tr.page == pageOf e.tr.large va

/-- A list of TLB entries, newest first, with at most n of one TLB (R9). -/
def keepEntries (unit : Nat) : Nat → List TlbEntry → List TlbEntry
  | _, [] => []
  | 0, e :: r => if e.unit = unit then keepEntries unit 0 r else e :: keepEntries unit 0 r
  | n + 1, e :: r => if e.unit = unit then e :: keepEntries unit n r else e :: keepEntries unit (n + 1) r

/-- Enters a translation into the core's TLB of 512 entries and its cluster's of 16,384, in place of what they held for the
page (R9, R11). The manual gives the sizes and no order of replacement: that the entry filled longest ago gives way is the
model's choice (log 2). -/
def State.tlbFill (s : State) (ptbase : Word) (t : Translation) : State :=
  let mine (e : TlbEntry) : Bool := (e.unit == s.me.core || e.unit == clusterTlb s.me.core) && e.ptbase == ptbase
    && e.tr.page == t.page && e.tr.large == t.large
  let old := keepEntries s.me.core 511 (keepEntries (clusterTlb s.me.core) 16383 (s.tlb.filter fun e => !mine e))
  let shared : List TlbEntry := if clusterTlb s.me.core = s.me.core then []
    else [{ unit := clusterTlb s.me.core, ptbase := ptbase, tr := t }]
  { s with tlb := { unit := s.me.core, ptbase := ptbase, tr := t } :: shared ++ old }

/-- Writes the A and D bits, after the walking hart's own buffered stores of the PTE where it has any (R215). -/
def State.writePte (s : State) (loc p : Nat) : State :=
  if s.me.prov.any fun q => decide (q.loc < loc + 8) && decide (loc < q.loc + q.bytes.length) then
    { s with me := { s.me with prov := s.me.prov ++ [{ loc := loc, bytes := leBytes 8 p, notes := [] }] } }
  else s.store loc (leBytes 8 p)

/-- The translation of a canonical address by a walk, with A and D marked in its PTE (R215, R216). -/
def State.translateWalk (s : State) (ptbase : Word) (user : Bool) (va : Nat) (k : Kind) :
    Except Cause (State × Translation) :=
  match s.walk ptbase va with
  | (_, none) => .error .pagefault
  | (s1, some (loc, p, large)) =>
    if !pteAllows p k user then .error .prot
    else
      .ok (if pteMark p k = p then s1 else s1.writePte loc (pteMark p k),
        { page := pageOf large va, large := large, pte := BitVec.ofNat 64 (pteMark p k) })

/-- The same with the translation entered into the TLBs. -/
def State.translateFill (s : State) (ptbase : Word) (user : Bool) (va : Nat) (k : Kind) :
    Except Cause (State × Translation) :=
  match s.translateWalk ptbase user va k with
  | .error c => .error c
  | .ok (s1, t) => .ok (s1.tlbFill ptbase t, t)

/-- The translation of a canonical address through a page table at a level: the state with A, D and the TLBs updated, and
the translation used (R215 to R217). -/
def State.translateAs (s : State) (ptbase : Word) (user : Bool) (va : Nat) (k : Kind) :
    Except Cause (State × Translation) :=
  match s.tlbHit ptbase va with
  | some e =>
    if !pteAllows e.tr.pte.toNat k user then .error .prot
    else if k.dirties && !pteD e.tr.pte.toNat then s.translateFill ptbase user va k
    else .ok (s, e.tr)
  | none => s.translateFill ptbase user va k

/-- The location of an address for the hart whose turn it is: canonical form, the scratchpad windows, which a miller
core lacks, then translation and permission (03_formats.md R58; R215; 18_reference_a_f.md R257). -/
def State.locate (s : State) (va : Word) (k : Kind) : Except Cause (State × Nat) :=
  if !canonical va then .error .prot
  else
    match windowLoc s.me.core va.toNat with
    | some loc => if s.me.miller then .error .prot else .ok (s, loc)
    | none =>
      match s.translateAs s.me.cr.ptbase (s.me.level == .u) va.toNat k with
      | .error c => .error c
      | .ok (s', t) => .ok (s'.frameOf t va.toNat)

/-- A translation of an address that a TLB or a pin holds leaves nothing to walk for an access of a kind: it grants the access,
or forbids it. -/
def Translation.settles (t : Translation) (k : Kind) (user : Bool) : Bool :=
  !pteAllows t.pte.toNat k user || !k.dirties || pteD t.pte.toNat

/-- What a failed access of a kind through a page table leaves, where held is the translation that serves the address without a
walk: the MACHINE records of the errors that its walk met (R207). -/
def State.missedBy (s : State) (ptbase : Word) (user : Bool) (held : Option Translation) (va : Word) (k : Kind) : State :=
  if !canonical va || (windowLoc s.me.core va.toNat).isSome || (held.map fun t => t.settles k user) == some true then s
  else (s.walk ptbase va.toNat).1

/-- The same of an access through the TLBs. -/
def State.missedAs (s : State) (ptbase : Word) (user : Bool) (va : Word) (k : Kind) : State :=
  s.missedBy ptbase user ((s.tlbHit ptbase va.toNat).map (·.tr)) va k

/-- The same of an access of the hart. -/
def State.missed (s : State) (va : Word) (k : Kind) : State := s.missedAs s.me.cr.ptbase (s.me.level == .u) va k

/-- The same, as part of a unit: a fault is taken with EVA at an address (R58). -/
def State.locateOr (s : State) (va : Word) (k : Kind) (eva : Word) : Res (State × Nat) :=
  match s.locate va k with
  | .ok r => .ok r
  | .error c => .error (.trap (s.missed va k) c eva)

/-! ### Watchpoints -/

/-- The agent classes of a watchpoint (15_debug.md R226, R229). -/
inductive Agent where
  | hart
  | copy
  | bond
  | remote
  deriving DecidableEq, Repr

/-- The access kinds as WPCTL numbers them: 0 read, 1 write, 2 atomic (04_registers.md R70). -/
def Kind.watchBit : Kind → Nat
  | .write => 1
  | .amo => 2
  | _ => 0

/-- The lowest byte of a granule that n bytes from a on touch and a mask names. -/
def granuleByte (granule : Nat) (mask : Word) (a n : Nat) : Option Nat :=
  (List.range 16).find? fun b => mask.getLsbD b && decide (a ≤ granule + b) && decide (granule + b < a + n)

/-- The watchpoint is enabled for a kind and a class bit (R226). -/
def wpArmed (ctl : Word) (k : Kind) (cls : Nat) : Bool :=
  ctl.getLsbD 3 && ctl.getLsbD k.watchBit && ctl.getLsbD cls

/-- The watchpoints of the hart's core that watch the access precisely: index and lowest matching byte (R226, R228). The manual
names the watchpoints of a core: that a miller core has the registers too and matches classes 6 and 7, but never class 4, is the
model's choice (log 23). -/
def State.watchOwn (s : State) (va n : Nat) (k : Kind) : List (Nat × Nat) :=
  if s.me.level != .u || s.me.miller then []
  else
    let c := s.myCore
    (List.finRange 4).filterMap fun i =>
      if c.wowner.get i == some s.me.num && wpArmed (c.wpctl.get i) k 4 then
        (granuleByte (c.wpad.get i).toNat (c.wpmask.get i) (va % 2 ^ 56) n).map fun b =>
          (i.val, (c.wpad.get i).toNat + b)
      else none

/-- The lowest of a list of addresses. -/
def lowest : List Nat → Nat
  | [] => 0
  | [a] => a
  | a :: r => min a (lowest r)

/-- Clears bit 4 of every watchpoint the access matched (R228). -/
def Core.disarm (c : Core) (hits : List (Nat × Nat)) : Core :=
  { c with wpctl := c.wpctl.mapFinIdx fun i w _ => if hits.any (·.1 == i) then w &&& ~~~(16 : Word) else w }

/-- The WATCH of watchpoints that an access of the hart matched: bit 4 of each is cleared, EVA is the lowest matching
byte, and FBLAME and FELEM name the access (R228). -/
def State.watchStop (s : State) (hits : List (Nat × Nat)) (blame : Word) (felem : Nat) : Act :=
  let s1 := s.setCore (s.myCore.disarm hits)
  .trap { s1 with me := { s1.me with
      cr := { s1.me.cr with fblame := keepBits blame 55 2, felem := BitVec.ofNat 64 felem } } } .watch
    (sx56 (BitVec.ofNat 64 (lowest (hits.map (·.2)))))

/-- The precise watch check of an access: WATCH before the access performs, FBLAME at the instruction (R228). -/
def State.watchCheck (s : State) (va n : Nat) (k : Kind) (blame : Word) (felem : Nat) : Res Unit :=
  match s.watchOwn va n k with
  | [] => .ok ()
  | hits => .error (s.watchStop hits blame felem)

/-- A piece of an access: virtual address, location, bytes. -/
abbrev Piece := Nat × Nat × Nat

/-- The same check of an access of several pieces. -/
def State.watchCheckAll (s : State) (ps : List Piece) (k : Kind) (blame : Word) (felem : Nat) : Res Unit :=
  match ps.flatMap fun (va, _, n) => s.watchOwn va n k with
  | [] => .ok ()
  | hits => .error (s.watchStop hits blame felem)

/-- The imprecise records that an access sends (R226, R229): for each watchpoint of the package, the lowest matching
byte of the access by its class. -/
def State.watchRecords (s : State) (who : Agent) (k : Kind) (ps : List Piece) : List WatchRecord :=
  s.cores.flatMap fun c =>
    (List.finRange 4).filterMap fun i =>
      match c.wowner.get i with
      | none => none
      | some owner =>
          let inside := c.num == s.me.core && who != .remote
          let cls := if !inside then 7 else if who == .hart then 5 else 6
          if (inside && who == .hart && owner == s.me.num) || !wpArmed (c.wpctl.get i) k cls then none
          else
            let found := if inside then
                ps.filterMap fun (va, _, n) => granuleByte (c.wpad.get i).toNat (c.wpmask.get i) (va % 2 ^ 56) n
              else
                (c.wloc.get i).flatMap fun g => ps.filterMap fun (_, loc, n) => granuleByte g (c.wpmask.get i) loc n
            found.min?.map fun b =>
              { owner := owner, core := c.num, wp := i.val,
                src := if !inside then 2 else if who == .hart then 0 else 1
                kind := BitVec.ofNat 3 (2 ^ k.watchBit)
                id := if who == .remote then 0xFFFF
                  else if inside && who != .hart then
                    BitVec.ofNat 16 (256 * (if who == .bond then 1 else 0) + s.me.slot)
                  else BitVec.ofNat 16 s.me.num
                eva := sx56 (BitVec.ofNat 64 ((c.wpad.get i).toNat + b))
                lost := false }

/-- A part of a piece. -/
def partOf (p : Piece) (r : Nat × Nat) : Piece := (p.1 + (r.1 - p.2.1), r.1, r.2)

/-- The access is a write of a provisional hart, whose buffer takes in what lies outside its allocation (12_launch.md R176). -/
def State.buffers (s : State) (k : Kind) : Bool := s.me.provisional && k.watchBit == 1

/-- What of the pieces of an access a provisional hart's buffer holds back. -/
def State.buffered (s : State) (k : Kind) (ps : List Piece) : List Piece :=
  if s.buffers k then ps.flatMap fun p => (s.me.outside p.2.1 p.2.2).map (partOf p) else []

/-- What of them performs at once. -/
def State.direct (s : State) (k : Kind) (ps : List Piece) : List Piece :=
  if s.buffers k then (ps.filter fun p => s.me.touches p.2.1 p.2.2).map fun p => partOf p (s.me.inside p.2.1 p.2.2) else ps

/-- The records of buffered writes wait until the newest buffered store drains (R178, R229). -/
def Hart.noteLater (h : Hart) (bond : Bool) (ps : List Piece) : Hart :=
  match ps, h.prov.getLast? with
  | _ :: _, some p => { h with prov := h.prov.dropLast ++ [{ p with notes := p.notes ++ [(bond, ps)] }] }
  | _, _ => h

/-- Sends the records of an access that has performed; an access of a hart in S-mode is never watched (R226, R229). -/
def State.watchNote (s : State) (who : Agent) (k : Kind) (ps : List Piece) : State :=
  if who == .hart && s.me.level == .s then s
  else
    { s with
      watchFlight := s.watchFlight ++ s.watchRecords who k (s.direct k ps)
      me := s.me.noteLater (who == .bond) (s.buffered k ps) }

/-! ### The interlock table -/

/-- The range of n bytes at an address, read as a signed 56-bit value (08_faults.md R116). -/
def rangeOf (va : Word) (n : Nat) : Range := ⟨va.toInt, va.toInt + n - 1⟩

/-- The copies in flight whose destination the range meets. -/
def Hart.copyWrites (h : Hart) (r : Range) : Bool :=
  h.copies.any fun c => r.meets (rangeOf c.dst c.count)

/-- The copies in flight whose source the range meets. -/
def Hart.copyReads (h : Hart) (r : Range) : Bool :=
  h.copies.any fun c => r.meets (rangeOf c.src c.count)

/-- The instructions whose entries of the table hold an access of a range back: those that appended its sinks and, for a write,
the leaves that a sink reaches, and those that issued its copies (15_debug.md R225). -/
def Hart.holding (h : Hart) (r : Range) (write : Bool) : List Word :=
  ((h.vec.galley.filter fun g => ((sinkRange h.vec g).map r.meets) == some true).map (·.pc))
    ++ (if write then
        (h.vec.forme.filter fun n => (galleyReach h.vec).contains n.id && (leavesMet h.vec r).contains n.id).map (·.blame)
      else [])
    ++ (h.copies.filter fun c => r.meets (rangeOf c.dst c.count) || (write && r.meets (rangeOf c.src c.count))).map (·.pc)

/-- The unit at the pc is held back by the entries that an access of a range meets. -/
def State.heldBack (s : State) (r : Range) (write : Bool) : State :=
  { s with me := { s.me with holders := s.me.holding r write } }

/-- The table's action for a read of the hart (R117). -/
def State.readGate (s : State) (r : Range) : Res Unit :=
  if s.handlerBypass then .ok ()
  else if meetsSink s.me.vec r then .error (.demand (s.heldBack r false))
  else if s.me.copyWrites r then .error (.wait (s.heldBack r false))
  else .ok ()

/-- A write of the hart demands a pass; the leaves that it overlaps as it issues are kept for its STALE marks (R121). -/
def State.writeDemand (s : State) (r : Range) (leaves : List Nat) : Act :=
  let s1 := s.heldBack r true
  .demand { s1 with me := { s1.me with met := s1.me.met ++ leaves } }

/-- The table's action for a write of the hart, the source rule's pass included, where the bytes to be written overlap some
leaves (R117, R121). -/
def State.writeGateOf (s : State) (r : Range) (leaves : List Nat) : Res Unit :=
  if s.handlerBypass then .ok ()
  else if meetsSink s.me.vec r then .error (s.writeDemand r leaves)
  else if (leavesMet s.me.vec r).any (galleyReach s.me.vec).contains then .error (s.writeDemand r leaves)
  else if s.me.copyWrites r || s.me.copyReads r then .error (.wait (s.heldBack r true))
  else .ok ()

/-- The same for a write of the whole range. -/
def State.writeGate (s : State) (r : Range) : Res Unit := s.writeGateOf r (leavesMet s.me.vec r)

/-- The STALE marks of a write that has performed (R121). -/
def State.spoil (s : State) (r : Range) (pc : Word) : State :=
  if s.handlerBypass then s
  else { s with me := { s.me with vec := spoilRegs s.me.vec (s.me.met ++ leavesMet s.me.vec r) pc } }

/-- An accepted copy of a hart of a core writes into another hart's allocation (12_launch.md R178, R186). -/
def Copy.targets (c : Copy) (core : Nat) (h : Hart) : Bool :=
  match windowLoc core c.dst.toNat with
  | none => false
  | some loc => h.touches loc c.count

/-- Some accepted copy of the package writes into the hart's allocation. -/
def State.copiesInto (s : State) (h : Hart) : Bool :=
  s.harts.any fun x => x.copies.any fun c => c.targets x.core h

/-! ### Accesses of a hart -/

/-- read_mem: an n-byte read at an address (03_formats.md R58), returning the value. -/
def State.readMem (s : State) (va : Word) (n : Nat) : Res (State × Nat) := do
  if va.toNat % n ≠ 0 then throw (.trap s .misalign va)
  let (s1, loc) ← s.locateOr va .read va
  s1.watchCheck va.toNat n .read s1.me.pc 0
  s1.readGate (rangeOf va n)
  if s1.heldByOther loc n then throw (.stall s)
  let (s2, bs) := s1.readLoc loc n
  return (s2.watchNote .hart .read [(va.toNat, loc, n)], leNat bs)

/-- write_mem: an n-byte write at an address (R58). -/
def State.writeMem (s : State) (va : Word) (n : Nat) (v : Nat) : Res State := do
  if va.toNat % n ≠ 0 then throw (.trap s .misalign va)
  let (s1, loc) ← s.locateOr va .write va
  s1.watchCheck va.toNat n .write s1.me.pc 0
  s1.writeGate (rangeOf va n)
  if s1.heldByOther loc n || !s1.provRoom loc n then throw (.stall s)
  let s2 := (s1.writeLoc loc (leBytes n v)).spoil (rangeOf va n) s1.me.pc
  return s2.watchNote .hart .write [(va.toNat, loc, n)]

/-- A hart with its own changes undone, but for what accesses have told it: its MACHINE records, and the failed remote access
that has been used up (14_traps.md R207; 16_system.md R239). -/
def Hart.told (h0 h : Hart) : Hart := { h0 with machine := h.machine, remoteFail := h.remoteFail }

/-- A hart with its own changes undone, but for what an access that is held back keeps: the leaves that its write meets (08_faults.md
R121) and the instructions that hold it (15_debug.md R225). -/
def Hart.kept (h0 h : Hart) : Hart := { h0 with met := h.met, holders := h.holders }

/-! ### Units, tokens and the hardware loop -/

/-- The addresses of the unit's words (03_formats.md R43). -/
def Hart.unitWords (h : Hart) : List Word :=
  (List.range (h.prefixes + 1)).map fun i => h.unitPc + BitVec.ofNat 64 (4 * i)

/-- The queue that a TOK word's enabled wait part names. -/
def tokWait (w : BitVec 32) : Option Nat :=
  if w.getLsbD 25 then some (fld w.toNat 22 3) else none

/-- The queue that a TOK word's enabled signal part names. -/
def tokSignal (w : BitVec 32) : Option Nat :=
  if w.getLsbD 21 then some (fld w.toNat 18 3) else none

/-- The FIFO (X, Y) (12_launch.md R171). -/
def fifo (x y : Nat) : Fin 25 := ⟨(5 * x + y) % 25, by omega⟩

/-- A token word is one the decoder accepts (03_formats.md R41). -/
def tokSound (w : BitVec 32) : Bool := (decode w.toNat).isSome

/-- A TOK names the queue that receives the unit's instruction (R41). -/
def tokNames (w : BitVec 32) (q : Queue) : Bool :=
  tokWait w == some q.num || tokSignal w == some q.num

/-- A TOK names a queue that a miller core lacks (20_reference_t_z.md R303). -/
def tokMillerBad (w : BitVec 32) : Bool :=
  [tokWait w, tokSignal w].any fun p => p == some 1 || p == some 2 || p == some 3

/-- The queue with a number. -/
def queueOf (n : Nat) : Queue :=
  match n with
  | 0 => .s
  | 1 => .v
  | 2 => .m
  | 3 => .b
  | _ => .c

/-- A token of FIFO (x, q) has been taken already by a unit that has issued and not retired; the units of a queue issue in
program order, so that it is the next unit of q that waits for x (01_device.md R14; R171; log 15). -/
def Hart.tookEarly (h : Hart) (x : Nat) (q : Queue) : Bool := h.early.get (fifo x q.num) != 0

/-- A unit of q takes a token of queue x as it issues, before it retires (R171). -/
def Hart.takeEarly (h : Hart) (x : Nat) (q : Queue) : Hart :=
  { h with
    early := h.early.set (fifo x q.num) (h.early.get (fifo x q.num) + 1)
    tokens := h.tokens.set (fifo x q.num) (h.tokens.get (fifo x q.num) - 1) }

/-- The token of the retiring unit's wait part is used up, taken at its issue or now (R42, R171). -/
def Hart.takeToken (h : Hart) (q : Queue) : Hart :=
  match h.tok.bind tokWait with
  | none => h
  | some x =>
    let h1 := { h with givers := h.givers.set (fifo x q.num) (h.givers.get (fifo x q.num)).tail }
    if h.tookEarly x q then { h1 with early := h.early.set (fifo x q.num) (h.early.get (fifo x q.num) - 1) }
    else { h1 with tokens := h.tokens.set (fifo x q.num) (h.tokens.get (fifo x q.num) - 1) }

/-- The tokens of each FIFO, with those that units have taken which have not retired. -/
def Hart.allTokens (h : Hart) : Vector Nat 25 := h.tokens.mapFinIdx fun i n _ => n + h.early.getD i 0

/-- The tokens that units have taken which have not retired return to their FIFOs (R42; 14_traps.md R208). -/
def Hart.returnEarly (h : Hart) : Hart := { h with early := Vector.replicate 25 0, tokens := h.allTokens }

/-- Adds a token to the FIFO (X, Y), from the unit at an address. -/
def Hart.pushToken (h : Hart) (x y : Queue) (a : Word) : Hart :=
  { h with
    tokens := h.tokens.set (fifo x.num y.num) (h.tokens.get (fifo x.num y.num) + 1)
    givers := h.givers.set (fifo x.num y.num) (h.givers.get (fifo x.num y.num) ++ [some a]) }

/-- Gives the token of the signal part of the unit at an address (R171). -/
def Hart.giveToken (h : Hart) (q : Queue) (a : Word) : Hart :=
  match h.tok.bind tokSignal with
  | none => h
  | some y => h.pushToken q (queueOf y) a

/-- The signal part of the unit, for a sink or copy that gives its token later (13_ordering.md R205; R171). -/
def Hart.signal (h : Hart) : Option Queue := (h.tok.bind tokSignal).map queueOf

/-- The unit is over: its prefixes are used up, and no order program of it runs. -/
def Hart.clearUnit (h : Hart) : Hart :=
  { h with tok := none, ext := none, checked := none, met := [], brun := none, holders := [], woke := none }

/-- The armed loop's LEND is the address of one of the words (R141). -/
def CtrlRegs.atLend (c : CtrlRegs) (ws : List Word) : Bool :=
  c.lend.getLsbD 0 && ws.any fun w => keepBits w 55 2 == keepBits c.lend 55 2

/-- Disarms the hardware loop. -/
def CtrlRegs.disarm (c : CtrlRegs) : CtrlRegs := { c with lend := c.lend &&& ~~~(1 : Word) }

/-- The test at LEND for a retiring unit that is no transfer, after the pc has moved on (09_control.md R141;
19_reference_j_s.md R282). -/
def Hart.loopTest (h : Hart) (ws : List Word) : Hart :=
  if !h.cr.atLend ws then h
  else if 1 < h.cr.lc.toNat then { h with pc := sx56 h.cr.lstart, cr := { h.cr with lc := h.cr.lc - 1 } }
  else { h with cr := { h.cr with lc := 0 }.disarm }

/-- A taken transfer disarms the loop when its target lies outside LSTART to LEND (R141). -/
def CtrlRegs.leaveLoop (c : CtrlRegs) (t : Word) : CtrlRegs :=
  if (keepBits c.lstart 55 2).toNat ≤ (keepBits t 55 2).toNat
      ∧ (keepBits t 55 2).toNat ≤ (keepBits c.lend 55 2).toNat then c
  else c.disarm

/-! ### Taking an exception, and returning -/

/-- TRAP_ENTRY (14_traps.md R208): EPC, ECAUSE, EVA and ESTATUS are written, the level becomes S and the pc TVEC; with
TVEC = 0 the hart stops and management is told. -/
def State.enterTrap (s : State) (c : Cause) (eva : Word) : State :=
  let h := s.me.returnEarly
  if h.cr.tvec = 0 then
    { s with me := { h.clearUnit with status := .halted }, log := s.log ++ [.hartStopped h.num] }
  else
    { s with me := { h.clearUnit with
        level := .s
        pc := sx56 h.cr.tvec
        cr := { h.cr with
          epc := keepBits h.unitPc 55 2
          ecause := BitVec.ofNat 64 c.code
          eva := eva
          estatus := esMake (h.cr.fdemand.getLsbD 0) (esIe h.cr.estatus) false (h.level == .s) } } }

/-- A trap waits until every accepted copy of the hart has completed (R208; 18_reference_a_f.md R256). -/
def State.takeTrap (before s : State) (c : Cause) (eva : Word) : State :=
  if before.me.copies.isEmpty then s.enterTrap c eva else before

/-- The return of ERET (R210): the level and IE come back from ESTATUS and the pc from EPC. -/
def State.leaveTrap (s : State) : State :=
  let c := s.me.cr
  { s with me := { s.me with
      level := if esPpriv c.estatus then .s else .u
      pc := sx56 c.epc
      cr := { c with estatus := esMake false (esPie c.estatus) (esPie c.estatus) false } } }

/-! ### Issue and retirement -/

/-- Gives the tokens of completed sinks and copies whose FIFOs have room; a queue stalls behind one that has none, and its later
tokens wait with it (R171; 13_ordering.md R205). held names the queues that stall. -/
def Hart.payFrom (h : Hart) (held : List Queue) : List (Queue × Queue × Word) → Hart
  | [] => { h with owed := [] }
  | (x, y, a) :: r =>
    if !held.contains x && decide (h.tokens.get (fifo x.num y.num) < 16) then payFrom (h.pushToken x y a) held r
    else
      let h1 := payFrom h (x :: held) r
      { h1 with owed := (x, y, a) :: h1.owed }

/-- The tokens of a list, in order, given as far as there is room. -/
def Hart.payOwed (h : Hart) (ts : List (Queue × Queue × Word)) : Hart := h.payFrom [] ts

/-- The owed tokens are given as far as there is room. -/
def Hart.payAll (h : Hart) : Hart := if h.owed.isEmpty then h else h.payOwed h.owed

/-- The unit at the pc, of a queue, has issued: the token that its wait part names is taken, and the room that this makes goes to
the tokens that are owed (03_formats.md R41; R171). -/
def State.takeIssued (s : State) (q : Queue) : State :=
  match s.me.tok.bind tokWait with
  | none => s
  | some x =>
    if x < 5 ∧ !s.me.tookEarly x q ∧ s.me.tokens.get (fifo x q.num) ≠ 0 then { s with me := (s.me.takeEarly x q).payAll }
    else s

/-- A token of the queue waits for room, so that the queue stalls behind it (R171). -/
def Hart.owes (h : Hart) (q : Queue) : Bool := h.owed.any fun o => o.1 == q

/-- The FIFO counts after the unit at an address, of a queue, retires, with its latches cleared (R42, R171). -/
def Hart.retireTokens (h : Hart) (q : Queue) (signalNow : Bool) (a : Word) : Hart :=
  let h1 := (h.takeToken q).payAll
  (if signalNow then h1.giveToken q a else h1).clearUnit

/-- The queue that receives a word's instruction (03_formats.md R44); majors 1A, 1B and 21 depend on the mode. -/
def wordQueue (matrix : Bool) (w : Nat) : Nat :=
  let major := fld w 26 6
  if major = 0x1A ∨ major = 0x1B ∨ major = 0x21 then (if matrix then 2 else 1)
  else if (0x18 ≤ major ∧ major ≤ 0x23) ∨ major = 0x2D then 1
  else if 0x24 ≤ major ∧ major ≤ 0x26 then 2
  else if major = 0x27 then 3
  else if major = 0x28 then 4
  else 0

/-! ### The end of a unit -/

/-- The hart begins or goes on with the pass that a demand point runs (06_forme.md R94, R95; 08_faults.md R127). -/
def State.startPass (s : State) (late : Bool) : State :=
  let v := s.me.vec
  let p := match v.pass with
    | none => Pass.begin v s.me.unitPc late s.me.met
    | some p => { (if p.suspended then p.resume (passSl v) s.me.cr.ecmw else p) with
        suspended := false
        demand := s.me.unitPc
        late := late || (p.late && p.demand == s.me.unitPc)
        met := s.me.met ++ (if p.demand = s.me.unitPc then p.met else []) }
  { s with me := { s.me with vec := { v with pass := some p }, met := [] } }

/-- The signal part finds its FIFO full (R171). -/
def Hart.signalBlocked (h : Hart) (q : Queue) : Bool :=
  match h.signal with
  | none => false
  | some y => decide (16 ≤ h.tokens.get (fifo q.num y.num))

/-- A unit that is no transfer retires (R141, R171). -/
def retire (q : Queue) (before s : State) (signalNow : Bool) : State :=
  let h := ({ s.me with pc := s.me.pc + 4 } : Hart).loopTest before.me.unitWords
  { s with me := h.retireTokens q signalNow before.me.unitPc }

/-- The state that a unit's end leaves (R208, R94, R141, R171). A unit whose signal finds its FIFO full does not retire: it
has taken its token and has no other effect yet. -/
def settle (q : Queue) (before : State) (a : Act) : State :=
  let full := before.me.signalBlocked q
  let waits := before.takeIssued q
  match a with
  | .done s => if full then waits else retire q before s true
  | .after s f => if full then waits else f (retire q before s true)
  | .held s => retire q before s false
  | .jump s t =>
    if full then waits
    else { s with
      me := ({ s.me with pc := t, cr := s.me.cr.leaveLoop t } : Hart).retireTokens q true before.me.unitPc }
  | .goto s => if full then waits else { s with me := s.me.retireTokens q true before.me.unitPc }
  | .trap s c eva => before.takeTrap s c eva
  | .demand s => s.startPass false
  | .demandLate s => s.startPass true
  | .wait s => s
  | .stall s => s
  | .stay s => s

/-- What an instruction asks before it acts (03_formats.md R34). -/
structure Gate where
  /-- The receiving queue (R44). -/
  queue : Queue := .s
  /-- EXT is accepted (R40). -/
  ext : Bool := false
  /-- A field's composed value lies in its range (R38). -/
  sound : Bool := true
  /-- A miller core has the instruction's group (R12). -/
  miller : Bool := true
  /-- The instruction needs S (14_traps.md R206). -/
  supervisor : Bool := false
  /-- The instruction runs only in matrix mode (some true) or only in pass mode (some false) (R146). -/
  mode : Option Bool := none
  /-- A pass-queue instruction (08_faults.md R127). -/
  passQueue : Bool := false
  /-- The receiving queue depends on the mode, so that R41's check is made at issue. -/
  tokAtIssue : Bool := false
  /-- The scalars it names as sources and destinations (06_forme.md R93). -/
  scalars : List SReg := []
  /-- The vector register numbers it names (R34, cause 6). -/
  vregs : List Nat := []

/-- R41's check of the unit's TOK against the receiving queue. -/
def Hart.tokBad (h : Hart) (q : Queue) : Bool :=
  match h.tok with
  | none => false
  | some w => tokNames w q

/-- The unit's TOK word itself is ILLEGAL (R41; R303 on a miller core). -/
def Hart.tokUnsound (h : Hart) : Bool :=
  match h.tok with
  | none => false
  | some w => !tokSound w || (h.miller && tokMillerBad w)

/-- The wait part finds its FIFO empty (R171). -/
def Hart.tokBlocked (h : Hart) (q : Queue) : Bool :=
  match h.tok.bind tokWait with
  | none => false
  | some x => !h.tookEarly x q && h.tokens.get (fifo x q.num) == 0

/-- The unit demanded the hart's suspended pass: executed again, it continues the pass first (06_forme.md R94). -/
def State.demandsAgain (s : State) : Bool :=
  s.me.cr.fdemand.getLsbD 0 && !s.handlerBypass
    && (match s.me.vec.pass with | none => false | some p => p.demand == s.me.unitPc)

/-- The exceptions and waits that come before an instruction's own, in the order of R34; then the queue that stalls behind a
token (R171), the passes that run before the unit issues (R127, R93), and the token that it takes as it issues (R41, R171). -/
def Gate.check (g : Gate) (s : State) : Res Unit :=
  let h := s.me
  if h.tokUnsound || (h.ext.isSome && !g.ext) || !g.sound || (!g.tokAtIssue && h.tokBad g.queue) then
    .error (.trap s .illegal 0)
  else if h.miller && !g.miller then .error (.trap s .illegal 0)
  else if g.supervisor && h.level == .u then .error (.trap s .priv 0)
  else if (match g.mode with | none => false | some m => m != h.vec.matrix) || (g.passQueue && s.handlerBypass) then
    .error (.trap s .mode 0)
  else if g.tokAtIssue && h.tokBad g.queue then .error (.trap s .illegal 0)
  else if h.owes g.queue then .error (.stall s)
  else if (g.passQueue && h.level == .u && h.cr.fdemand.getLsbD 0 && h.vec.pass.isSome) || s.demandsAgain then
    .error (.demand s)
  else if !s.handlerBypass && g.scalars.any h.isPending then .error (.demand s)
  else if h.tokBlocked g.queue then .error (.stall s)
  else if g.vregs.any fun n => decide (h.cr.nv ≤ n) then .error (.trap s .illegal 0)
  else .ok ()

/-- What a unit of a queue comes to: one that has issued, and waits or runs a pass first, holds its token (R41, R171); one that stalls
has not issued and changes nothing (00_scope.md R7). -/
def Act.issued (a : Act) (q : Queue) : Act :=
  match a with
  | .wait s => .wait (s.takeIssued q)
  | .stay s => .stay (s.takeIssued q)
  | .demand s => .demand (s.takeIssued q)
  | .demandLate s => .demandLate (s.takeIssued q)
  | a => a

/-- How an instruction ends: its gate, then its own effect. -/
def issue (g : Gate) (s : State) (body : Res State) : Act :=
  match g.check s with
  | .error a => a
  | .ok () =>
    match body with
    | .error a => a.issued g.queue
    | .ok s' => .done s'

/-- A unit's whole step. -/
def unit (g : Gate) (s : State) (body : Res State) : Host.Outcome State Fault Refusal :=
  .next (settle g.queue s (issue g s body))

/-- A demand point (06_forme.md R94): the pass runs before the instruction takes any other effect. -/
def State.demandPoint (s : State) : Res Unit := if s.wouldRun then .error (.demand s) else .ok ()

/-- An exception of the instruction's own (R34, cause 7). -/
def raise {α : Type} (s : State) (c : Cause) (eva : Word) : Res α := .error (.trap s c eva)

/-- An immediate field with the EXT value above it, sign-extended (R38, imm_s). -/
def Hart.immS (h : Hart) (f n : Nat) : Int :=
  match h.ext with
  | none => sext f n
  | some e => sext (e.toNat * 2 ^ n + f) (n + 26)

/-- The same, zero-extended (R38, imm_z). -/
def Hart.immZ (h : Hart) (f n : Nat) : Nat :=
  match h.ext with
  | none => f
  | some e => e.toNat * 2 ^ n + f

end Sys2Proof.Machine
end

