-- ==== Sys2Proof/Machine/Flags.lean ====
section
/-! DEFINITION. The seven sticky flags of VFLAGS (05_numbers.md R83; 04_registers.md R70) and the rounding modes of FRM
(R72). -/

namespace Sys2Proof.Machine

/-- A set of sticky flags, in the bit order of VFLAGS. -/
abbrev FlagSet := BitVec 7

def fInvalid : FlagSet := 1
def fDivZero : FlagSet := 2
def fOverflow : FlagSet := 4
def fUnderflow : FlagSet := 8
def fInexact : FlagSet := 16
def fIntOverflow : FlagSet := 32
def fD8Sat : FlagSet := 64

/-- A flag that is set under a condition. -/
def flagIf (c : Bool) (f : FlagSet) : FlagSet := if c then f else 0

/-- ORs flags into VFLAGS of the hart whose turn it is (R83). -/
def State.orFlags (s : State) (f : FlagSet) : State :=
  { s with me := { s.me with cr := { s.me.cr with vflags := s.me.cr.vflags ||| f } } }

/-- A scalar FP instruction ORs its flags into VFLAGS bits 4:0 (R83). -/
def State.orScalarFlags (s : State) (f : FlagSet) : State := s.orFlags (f &&& 0x1F)

/-- The rounding modes (R72). -/
inductive RMode where
  | rne
  | rtz
  | rup
  | rdn
  deriving DecidableEq, Repr

/-- The mode of an FRM value (R70). -/
def rmodeOf (frm : BitVec 2) : RMode :=
  match frm.toNat with
  | 0 => .rne
  | 1 => .rtz
  | 2 => .rup
  | _ => .rdn

end Sys2Proof.Machine
end

