-- ==== Sys2Proof/Machine/Num.lean ====
section
/-! DEFINITION. The number formats (05_numbers.md R71 to R80): exact values, the binary formats, D8, the integers, and
rounding into each. -/

namespace Sys2Proof.Machine

/-- An exact value as an operation takes it: a NaN, quiet or signalling, an infinity, or a signed fraction m ÷ d with
d > 0. -/
inductive XVal where
  | nan (signalling : Bool)
  | inf (neg : Bool)
  | num (neg : Bool) (m d : Nat)
  deriving DecidableEq, Repr

/-- An integer as an exact value. -/
def XVal.ofInt (i : Int) : XVal := .num (decide (i < 0)) i.natAbs 1

def XVal.isNan : XVal → Bool
  | .nan _ => true
  | _ => false

def XVal.isSignalling : XVal → Bool
  | .nan b => b
  | _ => false

/-- The value is negative; a zero with its sign set counts. -/
def XVal.signBit : XVal → Bool
  | .nan _ => false
  | .inf b => b
  | .num b _ _ => b

def XVal.isZero : XVal → Bool
  | .num _ m _ => m == 0
  | _ => false

/-- The negated value. -/
def XVal.negate : XVal → XVal
  | .nan b => .nan b
  | .inf b => .inf (!b)
  | .num b m d => .num (!b) m d

/-- invalid, when an operand is a signalling NaN (R71). -/
def sigFlag (xs : List XVal) : FlagSet := flagIf (xs.any XVal.isSignalling) fInvalid

/-- The canonical quiet NaN as an exact value. -/
def qnan : XVal := .nan false

/-- The signed fraction of an integer numerator; a zero takes the sign given. -/
def mkNum (n : Int) (d : Nat) (zeroNeg : Bool) : XVal :=
  if n = 0 then .num zeroNeg 0 1 else .num (decide (n < 0)) n.natAbs d

/-- The signed numerator. -/
def signedNum (neg : Bool) (m : Nat) : Int := if neg then -(m : Int) else m

/-- x + y, exact; an exact zero sum of operands of opposite signs is +0, but −0 under RDN (R72). -/
def xAdd (mode : RMode) (x y : XVal) : XVal × FlagSet :=
  match x, y with
  | .nan _, _ => (qnan, sigFlag [x, y])
  | _, .nan _ => (qnan, sigFlag [x, y])
  | .inf a, .inf b => if a == b then (.inf a, 0) else (qnan, fInvalid)
  | .inf a, _ => (.inf a, 0)
  | _, .inf b => (.inf b, 0)
  | .num a m d, .num b n e =>
    let zeroNeg := if a == b then a else mode == .rdn
    (mkNum (signedNum a m * e + signedNum b n * d) (d * e) zeroNeg, 0)

/-- x × y, exact. -/
def xMul (x y : XVal) : XVal × FlagSet :=
  match x, y with
  | .nan _, _ => (qnan, sigFlag [x, y])
  | _, .nan _ => (qnan, sigFlag [x, y])
  | .inf a, .inf b => (.inf (a != b), 0)
  | .inf a, .num b n _ => if n = 0 then (qnan, fInvalid) else (.inf (a != b), 0)
  | .num a m _, .inf b => if m = 0 then (qnan, fInvalid) else (.inf (a != b), 0)
  | .num a m d, .num b n e => (.num (a != b) (m * n) (d * e), 0)

/-- x ÷ y, exact. -/
def xDiv (x y : XVal) : XVal × FlagSet :=
  match x, y with
  | .nan _, _ => (qnan, sigFlag [x, y])
  | _, .nan _ => (qnan, sigFlag [x, y])
  | .inf _, .inf _ => (qnan, fInvalid)
  | .inf a, .num b _ _ => (.inf (a != b), 0)
  | .num a _ _, .inf b => (.num (a != b) 0 1, 0)
  | .num a m d, .num b n e =>
    if n = 0 then (if m = 0 then (qnan, fInvalid) else (.inf (a != b), fDivZero))
    else (.num (a != b) (m * e) (d * n), 0)

/-- x × y + z with one rounding to come; an infinite product and an invalid one decide first (R72, R73). -/
def xFma (mode : RMode) (x y z : XVal) : XVal × FlagSet :=
  let (p, f) := xMul x y
  if p.isNan && f != 0 then (qnan, f ||| sigFlag [z])
  else
    let (r, g) := xAdd mode p z
    (r, f ||| g ||| sigFlag [x, y, z])

/-- The order of two numbers or infinities: x < y, with −0 below +0 when asked (R73). -/
def xLess (signedZero : Bool) (x y : XVal) : Bool :=
  match x, y with
  | .nan _, _ => false
  | _, .nan _ => false
  | .inf a, .inf b => a && !b
  | .inf a, _ => a
  | _, .inf b => !b
  | .num a m d, .num b n e =>
    if m == 0 && n == 0 then signedZero && a && !b
    else decide (signedNum a m * e < signedNum b n * d)

/-- Equality of numbers or infinities, the zeros being equal. -/
def xEqual (x y : XVal) : Bool :=
  !x.isNan && !y.isNan && !xLess false x y && !xLess false y x

/-- The smaller or larger operand; a NaN operand gives the canonical NaN (R73). -/
def xMinMax (max : Bool) (x y : XVal) : XVal × FlagSet :=
  if x.isNan || y.isNan then (qnan, sigFlag [x, y])
  else if (if max then xLess true x y else xLess true y x) then (y, 0) else (x, 0)

/-! ### Binary formats -/

/-- A binary format: precision, least exponent of a normal number, and exponent bits (R71). -/
structure BinFmt where
  p : Nat
  emin : Int
  ebits : Nat
  deriving DecidableEq, Repr

def fmtF32 : BinFmt := ⟨24, -126, 8⟩
def fmtBf16 : BinFmt := ⟨8, -126, 8⟩
def fmtF64 : BinFmt := ⟨53, -1022, 11⟩

/-- The pattern of +infinity. -/
def BinFmt.infBits (f : BinFmt) : Nat := (2 ^ f.ebits - 1) * 2 ^ (f.p - 1)

/-- The sign bit's weight. -/
def BinFmt.signBit (f : BinFmt) : Nat := 2 ^ (f.ebits + f.p - 1)

/-- The canonical quiet NaN (R71). -/
def BinFmt.nanBits (f : BinFmt) : Nat := f.infBits + 2 ^ (f.p - 2)

/-- m × 2^e ÷ d as a fraction. -/
def scaleFrac (m d : Nat) (e : Int) : Nat × Nat :=
  if 0 ≤ e then (m * 2 ^ e.toNat, d) else (m, d * 2 ^ (-e).toNat)

/-- The value of a bit pattern (R71). -/
def BinFmt.decode (f : BinFmt) (bits : Nat) : XVal :=
  let neg := bits / f.signBit % 2 == 1
  let ex := bits / 2 ^ (f.p - 1) % 2 ^ f.ebits
  let fr := bits % 2 ^ (f.p - 1)
  if ex = 2 ^ f.ebits - 1 then (if fr = 0 then .inf neg else .nan (decide (fr < 2 ^ (f.p - 2))))
  else
    let (m, d) := if ex = 0 then scaleFrac fr 1 (f.emin - (f.p - 1 : Nat))
      else scaleFrac (fr + 2 ^ (f.p - 1)) 1 (f.emin + (ex - 1 : Nat) - (f.p - 1 : Nat))
    .num neg m d

/-- The magnitude n ÷ d rounded to an integer under a mode, and whether it was one. -/
def roundMag (mode : RMode) (neg : Bool) (n d : Nat) : Nat × Bool :=
  let q := n / d
  let r := n % d
  let up := match mode with
    | .rne => decide (d < 2 * r) || (decide (d = 2 * r) && q % 2 == 1)
    | .rtz => false
    | .rup => !neg && r != 0
    | .rdn => neg && r != 0
  (if up then q + 1 else q, r == 0)

/-- The exponent of m ÷ d, m > 0: the greatest e with 2^e ≤ m ÷ d. -/
def exponentOf (m d : Nat) : Int :=
  let e : Int := (Nat.log2 m : Int) - Nat.log2 d
  let (a, b) := scaleFrac m d (-e)
  if a < b then e - 1 else e

/-- The exact value rounded once into a binary format (R72): bits and flags, tininess detected after rounding. -/
def BinFmt.round (f : BinFmt) (mode : RMode) (x : XVal) : Nat × FlagSet :=
  match x with
  | .nan s => (f.nanBits, flagIf s fInvalid)
  | .inf neg => (f.infBits + (if neg then f.signBit else 0), 0)
  | .num neg m d =>
    let sign := if neg then f.signBit else 0
    if m = 0 then (sign, 0)
    else
      let e := exponentOf m d
      let e1 := max e f.emin
      let (a, b) := scaleFrac m d ((f.p - 1 : Nat) - e1)
      let (n, exact) := roundMag mode neg a b
      let bits := (e1 - f.emin).toNat * 2 ^ (f.p - 1) + n
      let (a', b') := scaleFrac m d ((f.p - 1 : Nat) - e)
      let tiny := decide (e < f.emin)
        && !(e == f.emin - 1 && (roundMag mode neg a' b').1 == 2 ^ f.p)
      if f.infBits ≤ bits then
        let toInf := match mode with
          | .rne => true
          | .rtz => false
          | .rup => !neg
          | .rdn => neg
        ((if toInf then f.infBits else f.infBits - 1) + sign, fOverflow ||| fInexact)
      else (bits + sign, flagIf (!exact) fInexact ||| flagIf (tiny && !exact) fUnderflow)

/-- The saturating form of a conversion into a binary format: RNE, then clamped (R72). -/
def BinFmt.roundSat (f : BinFmt) (x : XVal) : Nat × FlagSet :=
  match x with
  | .nan _ => (0, fInvalid)
  | .inf neg => (f.infBits - 1 + (if neg then f.signBit else 0), fOverflow ||| fInexact)
  | .num neg _ _ =>
    let (b, fl) := f.round .rne x
    if b % f.signBit = f.infBits then (f.infBits - 1 + (if neg then f.signBit else 0), fOverflow ||| fInexact)
    else (b, fl)

/-! ### D8 -/

/-- The exponent E of R76's table for a marker h and an exponent field e. -/
def d8Exp (h e : Nat) : Int :=
  let t : List Int := match h with
    | 6 => [0, -1]
    | 5 => [1, 2, -2, -3]
    | 4 => [3, 4, -4, -5]
    | 3 => [5, 6, -6, -7]
    | 2 => [7, 8, -8, -9]
    | _ => [9, -10]
  t.getD e 0

/-- The magnitude of a payload of 2 to 127 as a fraction (R76). -/
def d8Mag (p : Nat) : Nat × Nat :=
  let h := Nat.log2 p
  let ew := if h = 6 ∨ h = 1 then 1 else 2
  let fw := h - ew
  let e := p / 2 ^ fw % 2 ^ ew
  let f := p % 2 ^ fw
  let n := 2 ^ fw + 9 * f
  let ex := d8Exp h e
  if 0 ≤ ex then (n * 10 ^ ex.toNat, 2 ^ fw) else (n, 2 ^ fw * 10 ^ (-ex).toNat)

/-- The value of a D8 code (R76, R77). -/
def d8Decode (c : Nat) : XVal :=
  let neg := c / 128 % 2 == 1
  let p := c % 128
  if p = 0 then (if neg then .nan false else .num false 0 1)
  else if p = 1 then .inf neg
  else
    let (m, d) := d8Mag p
    .num neg m d

/-- The finite payloads with their magnitudes, zero first. -/
def d8Finite : List (Nat × Nat × Nat) :=
  (0, 0, 1) :: ((List.range 126).map fun i => (i + 2, d8Mag (i + 2)))

/-- a ÷ b ≤ c ÷ d. -/
def fracLe (a b c d : Nat) : Bool := decide (a * d ≤ c * b)

/-- The greatest finite magnitude not above m ÷ d. -/
def d8Below (m d : Nat) : Nat × Nat × Nat :=
  d8Finite.foldl (fun best x =>
    if fracLe x.2.1 x.2.2 m d && fracLe best.2.1 best.2.2 x.2.1 x.2.2 then x else best) (0, 0, 1)

/-- The least finite magnitude not below m ÷ d, for m ÷ d ≤ 10^9. -/
def d8Above (m d : Nat) : Nat × Nat × Nat :=
  d8Finite.foldl (fun best x =>
    if fracLe m d x.2.1 x.2.2 && fracLe x.2.1 x.2.2 best.2.1 best.2.2 then x else best) (2, 1000000000, 1)

/-- The payload under a mode of a magnitude m ÷ d ≤ 10^9, and whether it is exact (R78). -/
def d8Round (mode : RMode) (neg : Bool) (m d : Nat) : Nat × Bool :=
  let lo := d8Below m d
  let hi := d8Above m d
  if lo.1 = hi.1 then (lo.1, true)
  else
    let down := match mode with
      | .rne =>
        -- twice the value against the sum of the neighbours
        let a := 2 * m * (lo.2.2 * hi.2.2)
        let b := d * (lo.2.1 * hi.2.2 + hi.2.1 * lo.2.2)
        if a < b then true else if b < a then false
        else if lo.1 % 2 = hi.1 % 2 then true else lo.1 % 2 == 0
      | .rtz => true
      | .rup => neg
      | .rdn => !neg
    (if down then lo.1 else hi.1, false)

/-- A payload with its sign; zero has none (R76, R78). -/
def d8Code (neg : Bool) (p : Nat) : Nat := if p = 0 then 0 else p + (if neg then 128 else 0)

/-- The magnitude exceeds 10^9 (R78). -/
def d8Beyond (m d : Nat) : Bool := decide (1000000000 * d < m)

/-- Encoding into D8 (R78): the ordinary form. -/
def d8Encode (mode : RMode) (x : XVal) : Nat × FlagSet :=
  match x with
  | .nan s => (0x80, flagIf s fInvalid)
  | .inf neg => (d8Code neg 1, 0)
  | .num neg m d =>
    if d8Beyond m d then
      let toInf := match mode with
        | .rne => true
        | .rtz => false
        | .rup => !neg
        | .rdn => neg
      (d8Code neg (if toInf then 1 else 2), fOverflow ||| fInexact)
    else
      let (p, exact) := d8Round mode neg m d
      (d8Code neg p, flagIf (!exact) fInexact
        ||| flagIf (!exact && decide (m * 10000000000 < d)) fUnderflow)

/-- Encoding into D8: the saturating form (R78, R72). -/
def d8EncodeSat (x : XVal) : Nat × FlagSet :=
  match x with
  | .nan _ => (0, fInvalid)
  | .inf neg => (d8Code neg 2, fD8Sat ||| fInexact)
  | .num neg m d => if d8Beyond m d then (d8Code neg 2, fD8Sat ||| fInexact) else d8Encode .rne x

/-- x × 10^s, exact (R79). -/
def xScale10 (s : Int) (x : XVal) : XVal :=
  match x with
  | .num neg m d => if 0 ≤ s then .num neg (m * 10 ^ s.toNat) d else .num neg m (d * 10 ^ (-s).toNat)
  | x => x

/-- Steps down from a decade until 10^k ≤ m ÷ d. -/
def decadeFrom (m d : Nat) : Nat → Int → Int
  | 0, k => k
  | n + 1, k =>
    let ok := if 0 ≤ k then decide (10 ^ k.toNat * d ≤ m) else decide (d ≤ m * 10 ^ (-k).toNat)
    if ok then k else decadeFrom m d n (k - 1)

/-- floor(log10(m ÷ d)) clamped to −128 to 127 (R80); 0 for zero. -/
def decadeOf (m d : Nat) : Int := if m = 0 then 0 else decadeFrom m d 255 127

/-- The larger of two magnitudes. -/
def magMax (a b : Nat × Nat) : Nat × Nat := if fracLe a.1 a.2 b.1 b.2 then b else a

/-- The scale of a block: the decade of its largest finite magnitude (R80). -/
def blockScale (xs : List XVal) : Int :=
  let m := xs.foldl (fun acc x => match x with | .num _ m d => magMax acc (m, d) | _ => acc) (0, 1)
  decadeOf m.1 m.2

/-! ### Integers and tags -/

/-- The width of a tag's element in bits, D8S by its code (R58, width). -/
def tagWidth (t : Tag) : Nat := 8 * tagBytes t

/-- The tag is an integer type (R62). -/
def tagIsInt : Tag → Bool
  | .i8 | .i16 | .i32 | .i64 => true
  | _ => false

/-- The integer v wrapped into a width: its bits (R74). -/
def wrapBits (v : Int) (w : Nat) : Nat := (v % (2 ^ w : Nat)).toNat

/-- The integer that bits of a width hold, signed or unsigned (R58). -/
def intOf (bits w : Nat) (uns : Bool) : Int := if uns then (bits % 2 ^ w : Nat) else sext bits w

/-- The bounds of an integer type. -/
def intMin (w : Nat) (uns : Bool) : Int := if uns then 0 else -(2 ^ (w - 1) : Nat)
def intMax (w : Nat) (uns : Bool) : Int := if uns then (2 ^ w : Nat) - 1 else (2 ^ (w - 1) : Nat) - 1

/-- A floating value converted to an integer type: rounded, then saturated (R75). -/
def roundToInt (mode : RMode) (w : Nat) (uns : Bool) (x : XVal) : Nat × FlagSet :=
  match x with
  | .nan _ => (0, fInvalid)
  | .inf neg => (wrapBits (if neg then intMin w uns else intMax w uns) w, fInvalid)
  | .num neg m d =>
    let (q, exact) := roundMag mode neg m d
    let v := signedNum neg q
    if v < intMin w uns then (wrapBits (intMin w uns) w, fInvalid)
    else if intMax w uns < v then (wrapBits (intMax w uns) w, fInvalid)
    else (wrapBits v w, flagIf (!exact) fInexact)

/-- An element: the bits of its tag's format and, for D8S, the scale of its block. -/
structure Elem where
  tag : Tag
  bits : Nat
  scale : Int
  deriving DecidableEq, Repr

/-- The integer value of an integer element (R58). -/
def Elem.int (e : Elem) (uns : Bool) : Int := intOf e.bits (tagWidth e.tag) uns

/-- The exact value of an element (R58, value): an integer read signed or unsigned, a floating, D8 or D8S element at
its decoded value. -/
def Elem.val (e : Elem) (uns : Bool) : XVal :=
  match e.tag with
  | .i8 | .i16 | .i32 | .i64 => .ofInt (e.int uns)
  | .d8 => d8Decode e.bits
  | .d8s => xScale10 e.scale (d8Decode e.bits)
  | .bf16 => fmtBf16.decode e.bits
  | .f32 => fmtF32.decode e.bits

/-- round_to_tag for an exact value that a floating operation gives (R58, R63, R72): a floating tag rounds once, an
integer tag saturates; D8S uses the block's scale. -/
def roundToTag (t : Tag) (mode : RMode) (uns : Bool) (scale : Int) (x : XVal) : Elem × FlagSet :=
  let (b, f) := match t with
    | .f32 => fmtF32.round mode x
    | .bf16 => fmtBf16.round mode x
    | .d8 => d8Encode mode x
    | .d8s => d8Encode mode (xScale10 (-scale) x)
    | t => roundToInt mode (tagWidth t) uns x
  (⟨t, b, scale⟩, f)

/-- sat_to_tag (R58, R72, R78): RNE, then clamped. -/
def satToTag (t : Tag) (uns : Bool) (scale : Int) (x : XVal) : Elem × FlagSet :=
  let (b, f) := match t with
    | .f32 => fmtF32.roundSat x
    | .bf16 => fmtBf16.roundSat x
    | .d8 => d8EncodeSat x
    | .d8s => d8EncodeSat (xScale10 (-scale) x)
    | t => roundToInt .rne (tagWidth t) uns x
  (⟨t, b, scale⟩, f)

/-- round_to_tag for an integer result (R63, R74): wrapped to the promoted width, then wrapped into an integer tag or
rounded once into a floating one; integer overflow is set when the stored value differs from the exact result. -/
def intToTag (t : Tag) (mode : RMode) (uns : Bool) (scale : Int) (promoted : Nat) (v : Int) : Elem × FlagSet :=
  let w := intOf (wrapBits v promoted) promoted false
  if tagIsInt t then
    let b := wrapBits w (tagWidth t)
    (⟨t, b, scale⟩, flagIf (intOf b (tagWidth t) uns != v) fIntOverflow)
  else
    let (e, f) := roundToTag t mode uns scale (.ofInt w)
    (e, f ||| flagIf (w != v) fIntOverflow)

/-- The promoted type of two tags (R63). -/
def promote (a b : Tag) : Tag :=
  if tagIsInt a && tagIsInt b then (if tagWidth a < tagWidth b then b else a) else .f32

/-- The promoted type of one tag: a floating tag promotes to F32 (R63). -/
def promote1 (a : Tag) : Tag := if tagIsInt a then a else .f32

/-- A scalar of a vector-scalar form as an element of va's tag (R64). -/
def scalarElem (t : Tag) (w : Word) : Elem := ⟨t, w.toNat % 2 ^ tagWidth t, 0⟩

/-! ### The square root and the approximated functions -/

/-- The integer square root by bits from 2^(n − 1) down. -/
def isqrtBits (x : Nat) : Nat → Nat → Nat
  | 0, r => r
  | n + 1, r => if (r + 2 ^ n) * (r + 2 ^ n) ≤ x then isqrtBits x n (r + 2 ^ n) else isqrtBits x n r

/-- The integer square root. -/
def isqrt (x : Nat) : Nat := isqrtBits x (Nat.log2 x / 2 + 1) 0

/-- The square root of m ÷ d to 3,000 fraction bits; where it is not exact, half a unit more, which rounds as the exact
root does into every format of the machine. -/
def sqrtFrac (m d : Nat) : Nat × Nat :=
  let g := max 1 (Nat.gcd m d)
  let a := isqrt (m / g)
  let b := isqrt (d / g)
  if a * a = m / g ∧ b * b = d / g then (a, b)
  else (2 * isqrt (m * 4 ^ 3000 / d) + 1, 2 ^ 3001)

/-- The square root (R73). -/
def xSqrt (x : XVal) : XVal × FlagSet :=
  match x with
  | .nan s => (qnan, flagIf s fInvalid)
  | .inf neg => if neg then (qnan, fInvalid) else (.inf false, 0)
  | .num neg m d =>
    if m = 0 then (.num neg 0 1, 0)
    else if neg then (qnan, fInvalid)
    else
      let (a, b) := sqrtFrac m d
      (.num false a b, 0)

/-- Fraction bits of the fixed-point evaluations below. -/
def fixBits : Nat := 256

/-- ln 2 with fixBits fraction bits, by the sum of 1 ÷ (k 2^k). -/
def ln2Sum : Nat → Nat
  | 0 => 0
  | k + 1 => 2 ^ (fixBits + 16) / ((k + 1) * 2 ^ (k + 1)) + ln2Sum k

def ln2Fix : Int := (ln2Sum 280 / 2 ^ 16 : Nat)

/-- Σ t^k ÷ k! over n further terms, in fixed point. -/
def expTerms (x : Int) : Nat → Nat → Int → Int
  | 0, _, _ => 0
  | n + 1, k, t => t + expTerms x n (k + 1) (t * x / 2 ^ fixBits / (k + 1 : Nat))

/-- e^(n ÷ d) as a fraction with a relative error below 2^−100, for |n ÷ d| ≤ 300. -/
def expFrac (n : Int) (d : Nat) : Nat × Nat :=
  let x := n * 2 ^ fixBits / d
  let k := x / ln2Fix
  let r := x - k * ln2Fix
  let m := (expTerms r 64 0 (2 ^ fixBits)).toNat
  scaleFrac m (2 ^ fixBits) k

/-- Σ z^(2j+1) ÷ (2j+1) over n further terms, in fixed point. -/
def atanhTerms (zz : Int) : Nat → Nat → Int → Int
  | 0, _, _ => 0
  | n + 1, j, t => t / (2 * j + 1 : Nat) + atanhTerms zz n (j + 1) (t * zz / 2 ^ fixBits)

/-- ln(m ÷ d), m > 0, in fixed point with fixBits fraction bits. -/
def lnFix (m d : Nat) : Int :=
  let e := exponentOf m d
  let (a, b) := scaleFrac m d (-e)
  let z := ((a : Int) - b) * 2 ^ fixBits / ((a : Int) + b)
  e * ln2Fix + 2 * atanhTerms (z * z / 2 ^ fixBits) 128 0 z

/-- A signed fixed-point value as an exact value. -/
def fixVal (v : Int) : XVal := .num (decide (v < 0)) v.natAbs (2 ^ fixBits)

/-- 1 ÷ sqrt(m ÷ d). -/
def rsqrtFrac (m d : Nat) : Nat × Nat :=
  let (a, b) := sqrtFrac m d
  (b, a)

/-- tanh of a magnitude m ÷ d: small arguments by the value itself less a third of its cube, large ones by 1. -/
def tanhFrac (m d : Nat) : Nat × Nat :=
  if m * 2 ^ 20 < d then (m * (3 * d * d) - m * m * m, 3 * d * d * d)
  else if 50 * d < m then (2 ^ 200 - 1, 2 ^ 200)
  else
    let (a, b) := expFrac (2 * (m : Int)) d
    (a - b, a + b)

/-- The magnitude of the difference of two fractions is at most two units in the last place of the F32 value of the
first: |v − x| ≤ 2 ulp. -/
def within2Ulp (v : Nat) (m d : Nat) : Bool :=
  match fmtF32.decode v with
  | .num _ a b =>
    let e := max (exponentOf m d) (-126) - 23
    let diff : Int := (a * d : Nat) - (m * b : Nat)
    let (u, w) := scaleFrac 2 1 e
    decide (diff.natAbs * w ≤ u * (b * d))
  | _ => false

/-- The F32 function value that the part computes where the exact value is ±(m ÷ d), m > 0 (R73; log 8): it is within
2 ulp of it, and otherwise free, as a function of the operand. It is never exact, so that a tiny one underflows (R72, R83). -/
def approxF32 (op : Nat) (arg : XVal) (neg : Bool) (m d : Nat) : Nat × FlagSet :=
  let (b, f) := fmtF32.round .rne (.num false m d)
  let (argNeg, n, k) : Bool × Nat × Nat := match arg with
    | .num s p q => (s, p / Nat.gcd p q, q / Nat.gcd p q)
    | _ => (false, 0, 1)
  let v := b + Config.approx op argNeg n k % 9 - 4
  let r := if fmtF32.infBits ≤ v || !within2Ulp v m d then b else v
  (r + (if neg then fmtF32.signBit else 0),
    (if r < fmtF32.infBits then f &&& ~~~(fOverflow ||| fUnderflow) else f) ||| fInexact
      ||| flagIf (decide (r < 2 ^ 23)) fUnderflow)

/-- e^x (R73). Arguments beyond ±300 round as those at ±300 do. -/
def xExp (x : XVal) : Nat × FlagSet :=
  match x with
  | .nan s => (fmtF32.nanBits, flagIf s fInvalid)
  | .inf neg => (if neg then 0 else fmtF32.infBits, 0)
  | .num neg m d =>
    if m = 0 then (0x3F800000, 0)
    else
      let (n, k) : Int × Nat := if 300 * d < m then (signedNum neg 300, 1) else (signedNum neg m, d)
      let (a, b) := expFrac n k
      approxF32 0 x false a b

/-- ln x (R73). -/
def xLog (x : XVal) : Nat × FlagSet :=
  match x with
  | .nan s => (fmtF32.nanBits, flagIf s fInvalid)
  | .inf neg => if neg then (fmtF32.nanBits, fInvalid) else (fmtF32.infBits, 0)
  | .num neg m d =>
    if m = 0 then (fmtF32.infBits + fmtF32.signBit, fDivZero)
    else if neg then (fmtF32.nanBits, fInvalid)
    else if m = d then (0, 0)
    else
      let v := lnFix m d
      approxF32 1 x (decide (v < 0)) v.natAbs (2 ^ fixBits)

/-- tanh x (R73). -/
def xTanh (x : XVal) : Nat × FlagSet :=
  match x with
  | .nan s => (fmtF32.nanBits, flagIf s fInvalid)
  | .inf neg => (0x3F800000 + (if neg then fmtF32.signBit else 0), 0)
  | .num neg m d =>
    if m = 0 then ((if neg then fmtF32.signBit else 0), 0)
    else
      let (a, b) := tanhFrac m d
      approxF32 2 x neg a b

/-- 1 ÷ sqrt x (R73). -/
def xRsqrt (x : XVal) : Nat × FlagSet :=
  match x with
  | .nan s => (fmtF32.nanBits, flagIf s fInvalid)
  | .inf neg => if neg then (fmtF32.nanBits, fInvalid) else (0, 0)
  | .num neg m d =>
    if m = 0 then (fmtF32.infBits + (if neg then fmtF32.signBit else 0), fDivZero)
    else if neg then (fmtF32.nanBits, fInvalid)
    else
      let (a, b) := rsqrtFrac m d
      approxF32 3 x false a b

/-- 1 ÷ x (R73). -/
def xRcp (x : XVal) : Nat × FlagSet :=
  match x with
  | .nan s => (fmtF32.nanBits, flagIf s fInvalid)
  | .inf neg => ((if neg then fmtF32.signBit else 0), 0)
  | .num neg m d =>
    if m = 0 then (fmtF32.infBits + (if neg then fmtF32.signBit else 0), fDivZero)
    else approxF32 4 x neg d m

end Sys2Proof.Machine
end

