-- ==== Sys2Proof/Machine/Operands.lean ====
section
/-! DEFINITION. The operand forms: scalar operands at 32 or 64 bits (03_formats.md R37), immediates (R38), word targets
(R39) and the memory address form (19_reference_j_s.md R278). -/

namespace Sys2Proof.Machine

/-- The width .W selects (R37). -/
def opWidth (w : Bool) : Nat := if w then 32 else 64

/-- A scalar operand read at a width, signed or unsigned (18_reference_a_f.md R246). -/
def Hart.opInt (h : Hart) (r : SReg) (w uns : Bool) : Int := intOf (h.reg r).toNat (opWidth w) uns

/-- The low bits of a scalar operand at a width. -/
def Hart.opNat (h : Hart) (r : SReg) (w : Bool) : Nat := (h.reg r).toNat % 2 ^ opWidth w

/-- sext(wrap(res, n), n) as a register value (R246). -/
def wrapWord (w : Bool) (v : Int) : Word := BitVec.ofInt 64 (sext (wrapBits v (opWidth w)) (opWidth w))

/-- The SI immediate of majors 02 and 07 (R38). -/
def Hart.immS16 (h : Hart) (i : BitVec 16) : Int := h.immS i.toNat 16

/-- The SI immediate of majors 03 to 05 (R38). -/
def Hart.immZ16 (h : Hart) (i : BitVec 16) : Word := BitVec.ofNat 64 (h.immZ i.toNat 16)

/-- The target of a signed word offset from the instruction word (R39), exact. -/
def Hart.target (h : Hart) (off : BitVec n) : Int := h.pc.toInt + 4 * h.immS off.toNat n

/-- The address of an M-format access: the base and a signed byte offset, wrapped (R278). -/
def Hart.memAddr (h : Hart) (b : SReg) (off : BitVec 13) : Word :=
  h.reg b + BitVec.ofInt 64 (h.immS off.toNat 13)

/-- The bytes of a size code (R47). -/
def sizeBytes : MemSize → Nat
  | .b => 1
  | .h => 2
  | .w => 4
  | .d => 8

/-- The registers a CALL's frame slides (R47). -/
def frameRegs : Frame → Nat
  | .regs8 => 8
  | .regs16 => 16
  | .regs24 => 24

/-- A transfer's target check (R32): PROT at a target whose bits 63:56 are not copies of bit 55. -/
def State.checkTarget (s : State) (t : Int) : Res Word :=
  if canonicalInt (BitVec.ofInt 64 t).toInt then .ok (BitVec.ofInt 64 t)
  else raise s .prot (BitVec.ofInt 64 t)

/-- The checks of a target held in a register (R32): MISALIGN, then PROT. -/
def State.checkReg (s : State) (t : Word) : Res Word :=
  if t.toNat % 4 ≠ 0 then raise s .misalign t
  else if canonical t then .ok t
  else raise s .prot t

end Sys2Proof.Machine
end

