-- ==== Sys2Proof/Machine/Append.lean ====
section
/-! DEFINITION. Appending nodes and sinks: source registers (04_registers.md R61; 08_faults.md R122), the capacity
procedure (06_forme.md R99), the interlock table's room (R118), the length and overlap checks of a sink (R92, R123). -/

namespace Sys2Proof.Machine

/-- Replaces the vector state of the hart whose turn it is. -/
def State.setVec (s : State) (v : VecState) : State := { s with me := { s.me with vec := v } }

/-- The gate of a pass-queue instruction (20_reference_t_z.md R301). -/
def passGate (scalars : List SReg) (vregs : List VReg) : Gate :=
  { queue := .v, miller := false, mode := some false, passQueue := true, scalars := scalars,
    vregs := vregs.map BitVec.toNat }

/-- The unit goes on after the pass that it demanded once its own checks had been made (R92). -/
def Hart.passedChecks (h : Hart) : Bool := h.checked == some h.unitPc

/-- STALE at a register used as a source: FBLAME is its write PC and FELEM 0 (R122). -/
def raiseStale {α : Type} (s : State) (writePc : Word) (n : Nat) : Res α :=
  .error (.trap { s with me := { s.me with cr := { s.me.cr with fblame := keepBits writePc 55 2, felem := 0 } } }
    .stale (BitVec.ofNat 64 n))

/-- The node a register names as a source (R61, R122). -/
def State.sourceNode (s : State) (r : RegState) (n : Nat) : Res Nat :=
  match r with
  | .node i => .ok i
  | .stale i w => if s.me.passedChecks then .ok i else raiseStale s w n
  | _ => raise s .illegal 0

/-- A vector source. -/
def State.vsource (s : State) (r : VReg) : Res Nat := s.sourceNode (s.me.vec.v.get r.toFin).state r.toNat

/-- A mask source other than k0. -/
def State.ksource (s : State) (k : KReg) : Res Nat := s.sourceNode (s.me.vec.k.get k.toFin) (64 + k.toNat)

/-- A predicate: none for k0 (06_forme.md R88). -/
def State.psource (s : State) (p : PReg) : Res (Option Nat) :=
  if p = 0 then .ok none
  else
    match s.ksource (p.setWidth 4) with
    | .ok n => .ok (some n)
    | .error a => .error a

/-- The tag of a node's elements. -/
def State.nodeTag (s : State) (n : Nat) : Tag := indexTag s.me.vec.forme n

/-- The tag of a vector register (04_registers.md R62). -/
def State.regTag (s : State) (r : VReg) : Tag := (s.me.vec.v.get r.toFin).tag

/-- TAGERR under a condition. -/
def State.tagCheck (s : State) (bad : Bool) : Res Unit := if bad then raise s .tagerr 0 else .ok ()

/-! ### Room in the interlock table -/

/-- The entries in use: leaves, store sinks, and two ranges for each copy in flight (R116). -/
def Hart.entries (h : Hart) : Nat := tableEntries h.vec + 2 * h.copies.length

/-- The oldest live leaf that holds an entry. -/
def oldestLeaf (v : VecState) : Option Nat :=
  (v.forme.find? fun n => (leafRange v n).isSome && (liveNodes v).contains n.id).map (·.id)

/-- Releases the entry of a leaf; the registers that reach it become STALE (R118). -/
def releaseLeaf (v : VecState) (leaf : Nat) (pc : Word) : VecState :=
  let w := spoilRegs v [leaf] pc
  { w with forme := w.forme.map fun n => if n.id = leaf then { n with released := true } else n }

/-- The table has room for k new entries, or is bypassed (R116; R127). -/
def State.hasRoom (s : State) (k : Nat) : Bool := s.handlerBypass || decide (s.me.entries + k ≤ 64)

/-- Room for new entries: a pass, else a copy's end, else the oldest leaf's entry (R118). The instruction began in s0, to
which it goes back where it runs a pass or stalls. -/
def State.roomFor (s0 : State) (k : Nat) (pc : Word) : Nat → State → Res State
  | 0, s => .ok s
  | fuel + 1, s =>
    if s.hasRoom k then .ok s
    else if s.wouldRun then .error (.demandLate s0)
    else if !s.me.copies.isEmpty then .error (.stall s0)
    else
      match oldestLeaf s.me.vec with
      | none => .ok s
      | some l => roomFor s0 k pc fuel (s.setVec (releaseLeaf s.me.vec l pc))

/-- Room for k new entries of the instruction at the pc. -/
def State.room (s : State) (k : Nat) : Res State := State.roomFor s k s.me.pc 65 s

/-! ### Nodes -/

/-- The node that an instruction appends (06_forme.md R88). The word has no chain bit for the predicate's edge: that it counts
as chained is the model's choice (log 28). -/
def State.mkNode (s : State) (op : NodeOp) (tag : Option Tag) (srcs : List Edge) (pred : Option Nat)
    (scalar : Option Word) (pos : Nat) : Node where
  id := s.nextNode
  op := op
  tag := tag
  len := s.me.cr.vl
  srcs := srcs
  pred := pred.map fun n => { node := n, chain := true }
  frm := s.me.cr.frm
  scalar := scalar
  blame := s.me.pc
  pos := pos
  detached := false
  released := false
  seq := s.nextNode

/-- What names the new node. -/
inductive Dest where
  | v (r : VReg)
  | k (r : KReg)

/-- The vector state in which the destination names a node. -/
def VecState.name (v : VecState) (d : Dest) (n : Nat) : VecState :=
  match d with
  | .v r => { v with v := v.v.set r.toFin { (v.v.get r.toFin) with state := .node n } }
  | .k r => { v with k := v.k.set r.toFin (.node n) }

/-- A leaf over a pending store sink runs the pass first (R117). -/
def State.leafGate (s : State) (r : Option Range) : Res Unit :=
  match r with
  | none => .ok ()
  | some x => if meetsSink s.me.vec x then .error (.demandLate (s.heldBack x false)) else .ok ()

/-- The vector state with a node appended, which its destination names, and what nothing reaches any more collected. -/
def VecState.withNode (v : VecState) (d : Dest) (n : Node) : VecState :=
  collect (VecState.name { v with forme := v.forme ++ [n] } d n.id)

/-- The capacity procedure (R99): a full forme runs the pass first, or raises FORMEFULL. The instruction began in s0, to which it
goes back where it runs a pass. -/
def State.nodeRoom (s0 s : State) (d : Dest) (n : Node) : Res Unit :=
  if decide (s.me.cr.nv < (s.me.vec.withNode d n).forme.length) then
    (if s.wouldRun then .error (.demandLate s0) else raise s .formefull 0)
  else .ok ()

/-- Appends a node: a leaf over a pending store sink runs the pass first (R117); then the capacity procedure (R99), and for
a leaf the table's room, counted with the destination naming the new node (R118). -/
def State.appendNode (s : State) (d : Dest) (n : Node) : Res State := do
  let r := leafRange s.me.vec n
  s.leafGate r
  s.nodeRoom s d n
  let s1 : State := { s.setVec (s.me.vec.withNode d n) with nextNode := s.nextNode + 1 }
  if r.isSome then State.roomFor s 0 s.me.pc 65 s1 else pure s1

/-! ### Sinks -/

/-- Every node a sink reaches has the length of the sink's own node (R92). -/
def lengthsAgree (v : VecState) (g : Sink) : Bool :=
  let reach := reachFrom v.forme g.seeds
  v.forme.all fun n => !reach.contains n.id || n.len == sinkLen v g

/-- The leaves of the pass that a new store sink joins whose ranges its range meets (R123). -/
def overlapped (v : VecState) (g : Sink) : List Node :=
  match sinkRange v g with
  | none => []
  | some r =>
    let reach := reachFrom v.forme (g.seeds ++ v.galley.flatMap Sink.seeds)
    v.forme.filter fun n => n.isLeaf && reach.contains n.id && meetsEntry r (leafRange v n)

/-- The table of R123 permits the overlap of a sink with a leaf. -/
def overlapFine (v : VecState) (g : Sink) (n : Node) : Bool :=
  match g.op, n.op, n.srcs with
  | .store _ d _ none, .leaf _ l _ _, [] => overlapPermitted d l (dStart d) n.pos (sinkLen v g)
  | _, _, _ => false

/-- The lowest byte address that the sink shares with one of the leaves. -/
def overlapLow (v : VecState) (g : Sink) (ns : List Node) : Int :=
  let lows := ns.filterMap fun n =>
    match sinkRange v g, leafRange v n with
    | some a, some b => some (max a.lo b.lo)
    | _, _ => none
  match lows with
  | [] => 0
  | a :: r => r.foldl min a

/-- The checks of R123. -/
def State.overlapCheck (s : State) (g : Sink) : Res Unit :=
  let ns := overlapped s.me.vec g
  match ns with
  | [] => .ok ()
  | n :: _ =>
    if ns.all (overlapFine s.me.vec g) then .ok ()
    else
      .error (.trap { s with me := { s.me with
        cr := { s.me.cr with fblame := keepBits n.blame 55 2, felem := 0 } } } .srcovw
          (addrWord (overlapLow s.me.vec g ns)))

/-- The sink that an instruction appends (R91; 13_ordering.md R205). -/
def State.mkSink (s : State) (op : SinkOp) (node : Nat) (chain : Bool) (pred : Option Nat) (pos : Nat) : Sink where
  op := op
  node := node
  chain := chain
  pred := pred
  pc := s.me.pc
  sl := s.me.cr.sl
  frm := s.me.cr.frm
  pos := pos
  detached := false
  seq := s.nextNode
  signal := s.me.signal

/-- Appends a sink in the order of R92; a full table runs the pass before the overlap is checked against the pass that the
sink joins (R118). Its unit's token is given when its pass completes. -/
def State.appendSink (s : State) (g : Sink) : Res State := do
  if !lengthsAgree s.me.vec g then throw (.trap s .lenerr 0)
  let entry := (sinkRange s.me.vec g).isSome
  if decide (8 ≤ s.me.vec.galley.length) || (entry && !s.hasRoom 1 && s.wouldRun) then throw (.demandLate s)
  s.overlapCheck g
  let s1 ← if entry then s.room 1 else pure s
  let v := s1.me.vec
  throw (.held { s1.setVec { v with galley := v.galley ++ [g] } with nextNode := s1.nextNode + 1 })

/-- The destination of a reduction or count: s0 discards (R93). -/
def Hart.sinkDst (h : Hart) (r : SReg) : Option (Fin 136) := if r = 0 then none else some (h.phys r)

/-- Appends a sink whose result a scalar takes, which becomes pending (R93). -/
def State.appendScalarSink (s : State) (g : Sink) (r : SReg) : Res State :=
  match s.appendSink g with
  | .error (.held s1) =>
    .error (.held (match s1.me.sinkDst r with
      | none => s1
      | some p => { s1 with me := { s1.me with pend := s1.me.pend.set p true } }))
  | x => x

end Sys2Proof.Machine
end

