-- ==== Sys2Proof/Machine/Resources.lean ====
section
/-! DEFINITION. What the harts of a core share: the unit slot tables (12_launch.md R170), lane groups and SLMAX
(04_registers.md R65, R66), the tiles (10_matrix.md R145), and what a hart gives back when it leaves its core. -/

namespace Sys2Proof.Machine

/-- Changes the control registers of the hart whose turn it is. -/
def State.setCr (s : State) (f : CtrlRegs → CtrlRegs) : State := { s with me := { s.me with cr := f s.me.cr } }

/-! ### Lane groups -/

/-- The lanes of a group: floor of LMOD by the group count (R65). -/
def Core.lanes (c : Core) : Nat := c.lmod / c.partn

/-- The rule of R65 for a register count, with w lanes. -/
def slmaxOf (nv w : Nat) : Nat := if w = 0 then 0 else 8192 / nv / w * w

/-- The lane group of a slot (R66). -/
def Core.group (c : Core) (slot : Nat) : Nat := if c.partn = 0 then 0 else slot % c.partn

/-! ### Slot tables -/

/-- The four unit tables of a hart: its group's pass unit, the matrix array, the bond sequencer and the copy engine. -/
def unitsOf (c : Core) (slot : Nat) : List Nat := [c.group slot, 8, 9, 10]

/-- The positions a hart holds in a table, rising. -/
def Core.heldBy (c : Core) (unit hart : Nat) : List Nat :=
  (List.range 32).filter fun p => c.slots.any fun e => e.unit == unit && e.pos == p && e.hart == hart

/-- The free positions of a table, rising. -/
def Core.freePos (c : Core) (unit : Nat) : List Nat :=
  (List.range 32).filter fun p => !c.slots.any fun e => e.unit == unit && e.pos == p

/-- The fewest free positions among a hart's four tables. -/
def Core.fewestFree (c : Core) (slot : Nat) : Nat :=
  ((unitsOf c slot).map fun u => (c.freePos u).length).foldl min 32

/-- Takes n more positions in each of a hart's tables, the lowest free ones first. -/
def Core.takeSlots (c : Core) (slot hart n : Nat) : Core :=
  { c with slots := c.slots ++ (unitsOf c slot).flatMap fun u =>
      ((c.freePos u).take n).map fun p => { unit := u, pos := p, hart := hart } }

/-- Frees a hart's highest-numbered positions until it holds a weight. -/
def Core.dropSlots (c : Core) (hart w : Nat) : Core :=
  { c with slots := c.slots.filter fun e =>
      e.hart != hart || ((c.heldBy e.unit hart).take w).contains e.pos }

/-- Frees every position of a hart. -/
def Core.freeSlots (c : Core) (hart : Nat) : Core :=
  { c with slots := c.slots.filter fun e => e.hart != hart }

/-- CWR SLOTS (R170): the core and the weight then held. -/
def Core.weigh (c : Core) (slot hart cur v : Nat) : Core × Nat :=
  if v = 0 ∨ 32 < v then (c, cur)
  else if cur < v then
    let k := min (v - cur) (c.fewestFree slot)
    (c.takeSlots slot hart k, cur + k)
  else (c.dropSlots hart v, v)

/-! ### Turns of a unit -/

/-- The hart that a position of a table names. -/
def Core.slotAt (c : Core) (unit pos : Nat) : Option Nat :=
  (c.slots.find? fun e => e.unit == unit && e.pos == pos).map (·.hart)

/-- The next turn of a unit among the ready harts (R170): the position that the turn offers, or else the next position after the
rotating pointer that names one of them, to which the pointer moves. A hart that holds no position has the turn only where no
other is ready: the one that has come to the unit before any other. -/
def Core.offer (c : Core) (unit : Fin 11) (ready : List Nat) (me : Nat) : Nat × UnitTurn :=
  let t := c.turns.get unit
  let next := (t.turn + 1) % 32
  let at' (p : Nat) : Option Nat := (c.slotAt unit p).filter ready.contains
  match at' t.turn with
  | some h => (h, { t with turn := next })
  | none =>
    match ((List.range 32).map fun k => (t.pointer + 1 + k) % 32).find? fun p => (at' p).isSome with
    | some p => ((at' p).getD me, { turn := next, pointer := p })
    | none => (if ready.contains me then me else ready.headD me, { t with turn := next })

/-- A turn of a unit of the core whose hart has come to it: the hart to which the turn goes. -/
def State.turnOf (s : State) (unit : Fin 11) (ready : List Nat) : Nat := (s.myCore.offer unit ready s.me.num).1

/-- The turn of the unit is over. -/
def State.passTurnOf (s : State) (unit : Fin 11) (ready : List Nat) : State :=
  let c := s.myCore
  s.setCore { c with turns := c.turns.set unit (c.offer unit ready s.me.num).2 }

/-- The hart that the turn goes to becomes the one whose turn it is. -/
def State.grant (s : State) (unit : Fin 11) (ready : List Nat) : State :=
  (s.passTurnOf unit ready).select (s.turnOf unit ready)

/-! ### Tiles -/

/-- The tiles of a core that no hart holds: eight in all (10_matrix.md R145), less what waits granted. -/
def State.freeTiles (s : State) (core : Nat) : Nat :=
  8 - ((s.harts.filter fun h => h.core == core && h.resident).map fun h => h.vec.tileCount).sum
    - (((s.coreAt core).tileQueue.filter fun r => r.granted).map fun r => r.count).sum

/-! ### Packets -/

/-- The owning core of a packet: of the requester's cluster (07_streams.md R110; 01_device.md R11, R18). -/
def Packet.ownerCore (p : Packet) : Nat := p.requester / 8 / 16 * 16 + p.owner

/-- The locations of a packet's elements in the owner's scratchpad, or of a write that packets hold back. -/
def Packet.locs (p : Packet) : List Nat :=
  if p.kind = 4 then p.offsets else p.offsets.map fun o => spadLoc p.ownerCore + o

/-- The bytes of each element. -/
def Packet.width (p : Packet) : Nat := if p.kind = 4 then p.data.length else 2 ^ p.size

/-- A packet under way touches the allocation that a hart would have. -/
def State.packetsInto (s : State) (h : Hart) : Bool :=
  s.packets.any fun p => p.requester != h.num && p.locs.any fun loc => h.touches loc p.width

/-! ### Leaving a core -/

/-- Removes a hart's tile request and slot positions, its watchpoints' claim and its records (15_debug.md R229), and the
record of the core as active when nothing is resident any more (12_launch.md R169, R182); records on their way to it and its
packets under way, which only a squashed hart can have, are dropped (R178; 13_ordering.md R201). -/
def State.freeCore (s : State) : State :=
  let c := (s.myCore.freeSlots s.me.num)
  let others := s.others.any fun h => h.core == s.me.core && h.resident
  let s1 : State := { s with
    watchFlight := s.watchFlight.filter fun r => r.owner != s.me.num
    packets := s.packets.filter fun p => p.requester != s.me.num }
  s1.setCore { c with
    traceWait := c.traceWait.filter fun r => r.owner != s.me.num
    tileQueue := c.tileQueue.filter fun r => r.hart != s.me.num
    wowner := c.wowner.map fun o => if o == some s.me.num then none else o
    watchQueue := c.watchQueue.filter fun r => r.owner != s.me.num
    lost := c.lost.filter fun n => n != s.me.num
    active := others }

/-- The hart as it leaves its core: no tiles, no pending work, no claim on a unit (R182, R178; 14_traps.md R211). -/
def Hart.cleared (h : Hart) (st : Status) : Hart :=
  { h with
    status := st
    tok := none
    ext := none
    vec := { h.vec with forme := [], galley := [], pass := none, tileCount := 0, tiles := [], matrix := false }
    pend := Vector.replicate 136 false
    prov := []
    copies := []
    owed := []
    early := Vector.replicate 25 0
    fresh := false
    brun := none
    pause := false
    yieldTurns := 0
    tokens := Vector.replicate 25 0 }

/-- The hart of the turn leaves its core. -/
def State.leave (s : State) (st : Status) : State := { s with me := s.me.cleared st }

/-- A squashed hart whose allocation no copy of the package targets (R178). -/
def State.zeroDue (s : State) (h : Hart) : Bool :=
  h.status == .squashed && h.spad != 0 && !s.copiesInto h

/-- The bytes of a hart's allocation become 0, and the allocation is freed (R178). -/
def State.zeroAlloc (s : State) (h : Hart) : State :=
  (s.store h.allocBase (List.replicate h.spad 0)).updHart h.num fun x => { x with spad := 0 }

/-- The allocations of squashed harts are zeroed and freed once the copies that target them have completed (R178). -/
def State.zeroSquashed (s : State) : State := (s.harts.filter s.zeroDue).foldl State.zeroAlloc s

end Sys2Proof.Machine
end

