-- ==== Sys2Proof/Machine/Span.lean ====
section
/-! DEFINITION. Accesses of many bytes by one instruction: KLD, KST, ZLD, ZST, descriptors, engine transfers and images. They are
cut where a 4 KiB chunk ends, so that each piece has one frame (14_traps.md R218), and every byte is checked before any
is read or written (19_reference_j_s.md R274). -/

namespace Sys2Proof.Machine

/-- The pieces of n bytes at an address with their locations, as far as they can be reached; at a fault, the cause and
the first byte of its piece. An access that starts in a scratchpad window ends there (01_device.md R18). -/
def State.locatePart (first : Nat) (k : Kind) :
    Nat → Word → Nat → State → State × List Piece × Option (Cause × Word)
  | 0, _, _, s => (s, [], none)
  | fuel + 1, va, n, s =>
    if n = 0 then (s, [], none)
    else if pastWindow first va.toNat then (s, [], some (.prot, va))
    else
      match s.locate va k with
      | .error c => (s.missed va k, [], some (c, va))
      | .ok (s1, loc) =>
        let z := min n (4096 - va.toNat % 4096)
        let (s2, ps, f) := locatePart first k fuel (va + BitVec.ofNat 64 z) (n - z) s1
        (s2, (va.toNat, loc, z) :: ps, f)

/-- The same, all or nothing; a fault comes with the state that it leaves (14_traps.md R207). -/
def State.locatePieces (first : Nat) (k : Kind) (fuel : Nat) (va : Word) (n : Nat) (s : State) :
    Except (State × Cause × Word) (State × List Piece) :=
  match State.locatePart first k fuel va n s with
  | (s1, _, some e) => .error (s1, e)
  | (s1, ps, none) => .ok (s1, ps)

/-- The pieces of an access of the hart. -/
def State.pieces (s : State) (va : Word) (n : Nat) (k : Kind) : Except (State × Cause × Word) (State × List Piece) :=
  State.locatePieces va.toNat k (n / 4096 + 2) va n s

/-- The pieces, or the exception that their fault raises. -/
def piecesRes (r : Except (State × Cause × Word) (State × List Piece)) : Res (State × List Piece) :=
  match r with
  | .ok x => .ok x
  | .error (s, c, eva) => .error (.trap s c eva)

/-- The same, as part of a unit. -/
def State.piecesOr (s : State) (va : Word) (n : Nat) (k : Kind) : Res (State × List Piece) := piecesRes (s.pieces va n k)

/-- Pieces cut into aligned doublewords and the smaller parts at their ends, each a memory event of its own (13_ordering.md R189;
19_reference_j_s.md R274). -/
def dwordPieces (ps : List Piece) : List Piece :=
  ps.flatMap fun (va, loc, n) => (List.range ((va % 8 + n + 7) / 8)).map fun i =>
    let a := max va (va / 8 * 8 + 8 * i)
    (a, loc + (a - va), min (va + n) (va / 8 * 8 + 8 * i + 8) - a)

/-- Reads pieces in ascending order. -/
def State.readPieces : List Piece → State → State × List Byte
  | [], s => (s, [])
  | (_, loc, n) :: r, s =>
    let (s1, a) := s.readLoc loc n
    let (s2, b) := readPieces r s1
    (s2, a ++ b)

/-- Writes bytes to pieces in ascending order. -/
def State.writePieces : List Piece → List Byte → State → State
  | [], _, s => s
  | (_, loc, n) :: r, bs, s => writePieces r (bs.drop n) (s.writeLoc loc (bs.take n))

/-- Some piece lies in another provisional hart's allocation (12_launch.md R176). -/
def State.piecesHeld (s : State) (ps : List Piece) : Bool := ps.any fun (_, loc, n) => s.heldByOther loc n

/-- The further entries that a provisional hart needs for what of the pieces goes to its buffer; consecutive ones within one
doubleword share an entry (R177). -/
def State.piecesNeed (s : State) (ps : List Piece) : Nat :=
  if s.me.provisional then
    provEntries (s.me.prov ++ (s.buffered .write ps).map fun (_, loc, n) =>
      { loc := loc, bytes := List.replicate n 0, notes := [] }) - provEntries s.me.prov
  else 0

/-- The buffer has room for the pieces (R177). -/
def State.piecesFit (s : State) (ps : List Piece) : Bool :=
  let n := s.piecesNeed ps
  n == 0 || decide (s.provUsed + n ≤ 2048)

/-- The pieces of a read of n bytes by the hart that may perform, as one access under R117. -/
def State.readOpen (s : State) (va : Word) (n : Nat) : Res (State × List Piece) := do
  let (s1, ps) ← s.piecesOr va n .read
  s1.watchCheck va.toNat n .read s1.me.pc 0
  s1.readGate (rangeOf va n)
  if s1.piecesHeld ps then throw (.stall s)
  return (s1, ps)

/-- The read of such pieces; each aligned doubleword is an event of its own (R274). -/
def State.readNow (s : State) (ps : List Piece) : State × List Byte :=
  let (s1, bs) := State.readPieces (dwordPieces ps) s
  (s1.watchNote .hart .read ps, bs)

/-- A read of n bytes by the hart. -/
def State.readSpan (s : State) (va : Word) (n : Nat) : Res (State × List Byte) := do
  let (s1, ps) ← s.readOpen va n
  return s1.readNow ps

/-- An aligned read of a descriptor of n bytes, as one access under R117 made as doubleword events (R276, R293). -/
def State.readDwords (s : State) (va : Word) (n : Nat) : Res (State × Nat) := do
  if va.toNat % n ≠ 0 then throw (.trap s .misalign va)
  let (s1, bs) ← s.readSpan va n
  return (s1, leNat bs)

/-- A write of bytes by the hart, as one access under R117 and R121; each aligned doubleword is an event of its own (R274). -/
def State.writeSpan (s : State) (va : Word) (bs : List Byte) : Res State := do
  let (s1, ps) ← s.piecesOr va bs.length .write
  s1.watchCheck va.toNat bs.length .write s1.me.pc 0
  s1.writeGate (rangeOf va bs.length)
  if s1.piecesHeld ps || !s1.piecesFit ps then throw (.stall s)
  let s2 := (State.writePieces (dwordPieces ps) bs s1).spoil (rangeOf va bs.length) s1.me.pc
  return s2.watchNote .hart .write ps

/-! ### Engine transfers -/

/-- One record for each watchpoint, of the lowest matching byte (15_debug.md R229). Where the transfer both reads and writes that
byte, KIND tells of the read: the manual does not say, and this is the model's choice (log 23). -/
def lowestRecords : List WatchRecord → List WatchRecord
  | [] => []
  | r :: rs =>
    let qs := lowestRecords rs
    match qs.find? fun q => q.core == r.core && q.wp == r.wp with
    | none => r :: qs
    | some q => if r.eva.toNat ≤ q.eva.toNat then r :: qs.filter (fun x => x != q) else qs

/-- The records of an engine transfer that reads some pieces and writes others: at most one for each watchpoint (R229). That a
transfer which a hart in S-mode has started matches too is the model's choice (log 23). -/
def State.watchTransfer (s : State) (who : Agent) (rs ws : List Piece) : State :=
  { s with
    watchFlight := s.watchFlight
      ++ lowestRecords (s.watchRecords who .read rs ++ s.watchRecords who .write (s.direct .write ws))
    me := s.me.noteLater (who == .bond) (s.buffered .write ws) }

/-- The bytes of pieces, each at its own location. -/
def pieceLocs (ps : List Piece) : List Nat :=
  ps.flatMap fun (_, loc, n) => (List.range n).map fun i => loc + i

end Sys2Proof.Machine
end

