-- ==== Sys2Proof/Machine/CopyEngine.lean ====
section
/-! DEFINITION. CPY and its completion: major 28 (18_reference_a_f.md R256, R257; 07_streams.md R114, R115). -/

namespace Sys2Proof.Machine

/-- The ranges of a copy share a byte: the lowest one, as signed addresses, in which a range may run through 0 (R256; 08_faults.md
R116). -/
def copyOverlap (dst src : Word) (n : Nat) : Option Word :=
  let lo := max dst.toInt src.toInt
  if lo < min (dst.toInt + n) (src.toInt + n) then some (BitVec.ofInt 64 lo) else none

/-- The translation of an address that has just been located: a TLB's, or that of a walk where the TLB has let it go. -/
def State.translationAt (s : State) (va : Nat) : Option Translation :=
  match s.tlbHit s.me.cr.ptbase va with
  | some e => some e.tr
  | none => (s.walk s.me.cr.ptbase va).2.map fun (_, p, large) => ⟨pageOf large va, large, BitVec.ofNat 64 p⟩

/-- The translations that an accepted copy pins: one for each page of its pieces (R256, R114). -/
def State.pinsOf (s : State) (ps : List Piece) : List Translation :=
  (ps.filterMap fun (va, _, _) =>
    if (windowLoc s.me.core va).isSome then none else s.translationAt va).eraseDups

/-- A CPY of at least one byte (R256). -/
def copyAccept (dst src : Word) (n : Nat) (s : State) : Res State := do
  match copyOverlap dst src n with
  | some a =>
    throw (.trap { s with me := { s.me with
      cr := { s.me.cr with fblame := keepBits s.me.pc 55 2, felem := 0 } } } .srcovw a)
  | none => pure ()
  let (s1, rp) ← s.piecesOr src n .read
  let (s2, wp) ← s1.piecesOr dst n .write
  if s2.me.provisional && wp.any fun (_, loc, z) => !s2.me.owns loc z then throw (.stall s)
  s2.writeGate (rangeOf dst n)
  s2.readGate (rangeOf src n)
  let s3 ← s2.room 2
  let c : Copy := { dst := dst, src := src, count := n, pc := s3.me.pc, pins := s3.pinsOf (rp ++ wp),
                    signal := s3.me.signal }
  let s4 := s3.spoil (rangeOf dst n) s3.me.pc
  throw (.held { s4 with me := { s4.me with copies := s4.me.copies ++ [c] } })

/-- The acceptance of a CPY (R256). -/
def copyBody (dst src : Word) (n : Nat) (s : State) : Res State :=
  if 2 ^ 30 < n then raise s .illegal 0
  else if n = 0 then .ok s
  else copyAccept dst src n s

def execCpy (a b c : SReg) (s : State) : Host.Outcome State Fault Refusal :=
  unit { queue := .c, scalars := [a, b, c] } s
    (copyBody (s.me.reg a) (s.me.reg b) (s.me.reg c).toNat s)

/-! ### Completion -/

/-- The location of an address under a copy's pins; a page in migration is read from its record anew (R115), an error there
reported by MACHINE (14_traps.md R207). -/
def State.pinLoc (s : State) (pins : List Translation) (va : Nat) : State × Nat :=
  match windowLoc s.me.core va with
  | some loc => (s, loc)
  | none =>
    match pins.find? fun t => t.page == pageOf t.large va with
    | some t => s.frameOf t va
    | none => (s, 2 ^ 51)

/-- The pieces of a range under pins; a range may run through address 0 (08_faults.md R116). -/
def State.pinPieces (pins : List Translation) : Nat → Nat → Nat → State → State × List Piece
  | 0, _, _, s => (s, [])
  | fuel + 1, va, n, s =>
    if n = 0 then (s, [])
    else
      let z := min n (4096 - va % 4096)
      let (s1, loc) := s.pinLoc pins va
      let (s2, ps) := pinPieces pins fuel ((va + z) % 2 ^ 64) (n - z) s1
      (s2, (va, loc, z) :: ps)

/-- The bytes of an end piece or doubleword of the destination. -/
def dwordPart (va n : Nat) : Nat := min n (8 - va % 8)

/-- Locations as runs of neighbours: where each starts and its length. -/
def locRuns : List Nat → List (Nat × Nat)
  | [] => []
  | a :: r =>
    match locRuns r with
    | [] => [(a, 1)]
    | (b, n) :: rs => if b = a + 1 then (a, n + 1) :: rs else (a, 1) :: (b, n) :: rs

/-- Reads runs of locations in ascending order. -/
def State.readRuns (s : State) (rs : List (Nat × Nat)) : State × List Byte :=
  rs.foldl (fun (t, acc) r => let (t1, b) := t.readLoc r.1 r.2; (t1, acc ++ b)) (s, [])

/-- Copies the doublewords of a destination in ascending order, each one read, or two where the source crosses a page, and one
write; the locations of the bytes still to copy are given (R256, R257; 13_ordering.md R189; 16_system.md R239). -/
def State.copyDwords : Nat → Nat → List Nat → List Nat → State → State
  | 0, _, _, _, s => s
  | fuel + 1, va, rs, ws, s =>
    let z := dwordPart va ws.length
    let (s1, bs) := s.readRuns (locRuns (rs.take z))
    let s2 := s1.writeLoc (ws.headD 0) bs
    if ws.length ≤ z then s2 else copyDwords fuel (va + z) (rs.drop z) (ws.drop z) s2

/-- The copy stalls at another hart's closed allocation (12_launch.md R176), but a squashed hart's allocation takes in what is
copied into it before it is zeroed (R178). -/
def State.copyHeld (s : State) (c : Copy) (rp wp : List Piece) : Bool :=
  s.others.any fun h => h.closed
    && ((rp ++ wp).any fun p => h.touches p.2.1 p.2.2)
    && !(h.status == .squashed && c.targets s.me.core h)

/-- The oldest copy of the hart can complete now. -/
def State.copyReady (s : State) : Bool :=
  match s.me.copies with
  | [] => false
  | c :: _ =>
    let (s1, rp) := State.pinPieces c.pins (c.count / 4096 + 2) c.src.toNat c.count s
    !s.copyHeld c rp (State.pinPieces c.pins (c.count / 4096 + 2) c.dst.toNat c.count s1).2

/-- What the copy reads of a squashed hart's allocation is zeroed before it is read, so that the discarded bytes are seen by
nobody (13_ordering.md R201); the allocation itself waits for the copy (R178). -/
def State.zeroSources (s : State) (rp : List Piece) : State :=
  (s.others.filter fun h => h.status == .squashed && h.closed).foldl (fun t h =>
    (rp.filter fun p => h.touches p.2.1 p.2.2).foldl (fun u p =>
      let r := h.inside p.2.1 p.2.2
      u.store r.1 (List.replicate r.2 0)) t) s

/-- A copy that has completed leaves the hart, and its token is given, or owed where the FIFO is full (R171). -/
def Hart.copyDone (h : Hart) (c : Copy) (r : List Copy) : Hart :=
  ({ h with copies := r } : Hart).payOwed (h.owed ++ (c.signal.map fun y => (Queue.c, y, c.pc)).toList)

/-- CPY_COMPLETE: the hart's oldest accepted copy moves its bytes and retires (R256, R257). -/
def execCpyComplete (i : Nat) (s : State) : Host.Outcome State Fault Refusal :=
  match i, s.me.copies with
  | 0, c :: r =>
    let (s1, rp) := State.pinPieces c.pins (c.count / 4096 + 2) c.src.toNat c.count s
    let (s2, wp) := State.pinPieces c.pins (c.count / 4096 + 2) c.dst.toNat c.count s1
    if s.copyHeld c rp wp then .next s
    else
      let s3 := State.copyDwords (c.count / 8 + 2) c.dst.toNat (pieceLocs rp) (pieceLocs wp) (s2.zeroSources rp)
      let s4 := s3.watchTransfer .copy rp wp
      .next ({ s4 with me := s4.me.copyDone c r } : State).zeroSquashed
  | _, _ => .next s

end Sys2Proof.Machine
end

