-- ==== Sys2Proof/Machine/Element.lean ====
section
/-! DEFINITION. The element effects of node operations (20_reference_t_z.md R308 to R316, R324; 09_control.md R129;
04_registers.md R62 to R64; 05_numbers.md R74, R75, R80; 07_streams.md R105). -/

namespace Sys2Proof.Machine

/-- What one element of a node comes to before D8S blocks are encoded: a stored element, or for a D8S tag the exact
value and whether the saturating form encodes it (05_numbers.md R80). -/
inductive Raw where
  | stored (e : Elem)
  | exact (x : XVal) (sat : Bool)
  deriving DecidableEq, Repr

/-- An exact value rounded once into a tag; an integer tag saturates (R63, R308). -/
def finFloat (t : Tag) (mode : RMode) (uns : Bool) (x : XVal) : Raw × FlagSet :=
  if t = .d8s then (.exact x false, 0)
  else
    let (e, f) := roundToTag t mode uns 0 x
    (.stored e, f)

/-- An integer result wrapped to the promoted width and then taken into a tag (R63, R74, R308). -/
def finInt (t : Tag) (mode : RMode) (uns : Bool) (promoted : Nat) (x : Int) : Raw × FlagSet :=
  if t = .d8s then
    let y := intOf (wrapBits x promoted) promoted false
    (.exact (.ofInt y) false, flagIf (y != x) fIntOverflow)
  else
    let (e, f) := intToTag t mode uns 0 promoted x
    (.stored e, f)

/-- An exact integer taken into a tag: an integer tag wraps, a floating tag rounds once (R324). -/
def finExact (t : Tag) (mode : RMode) (x : Int) : Raw × FlagSet :=
  if tagIsInt t then
    let b := wrapBits x (tagWidth t)
    (.stored ⟨t, b, 0⟩, flagIf (intOf b (tagWidth t) false != x) fIntOverflow)
  else finFloat t mode false (.ofInt x)

/-- The mode of VCVT's rounding field (R314). -/
def roundOf (r : VRound) (frm : BitVec 2) : RMode :=
  match r with
  | .frm => rmodeOf frm
  | .rne | .satRne => .rne
  | .rtz => .rtz
  | .rup => .rup
  | .rdn => .rdn

/-- VCVT of an element (R314, R315). -/
def cvtElem (src : Elem) (t : Tag) (uns : Bool) (r : VRound) (frm : BitVec 2) : Raw × FlagSet :=
  let sat := r == .satRne
  let mode := roundOf r frm
  if tagIsInt src.tag && tagIsInt t then
    let v := src.int uns
    let w := tagWidth t
    let c := if sat then max (intMin w uns) (min (intMax w uns) v) else v
    let b := wrapBits c w
    (.stored ⟨t, b, 0⟩, flagIf (intOf b w uns != v) fIntOverflow)
  else if t = .d8s then (.exact (src.val uns) sat, 0)
  else
    let (e, f) := if sat then satToTag t uns 0 (src.val uns) else roundToTag t mode uns 0 (src.val uns)
    (.stored e, f)

/-- A leaf or a store sink converts as a VCVT with rounding FRM (04_registers.md R62; 07_streams.md R105). -/
def convElem (src : Elem) (t : Tag) (frm : BitVec 2) : Raw × FlagSet := cvtElem src t false .frm frm

/-- A result of its promoted type taken as it is into a tag (R308). -/
def moveElem (src : Elem) (promoted t : Tag) (frm : BitVec 2) : Raw × FlagSet :=
  if tagIsInt promoted then finInt t (rmodeOf frm) false (tagWidth promoted) (src.int false)
  else finFloat t (rmodeOf frm) false (src.val false)

/-- The integer result of VADD to VMAX and VDIV.U, and its flags of its own (R308, R74). -/
def arithInt (op : ArithOp) (uns : Bool) (w : Nat) (a b c : Int) : Int × FlagSet :=
  match op with
  | .add => (a + b, 0)
  | .sub => (a - b, 0)
  | .mul => (a * b, 0)
  | .fma => (a * b + c, 0)
  | .min => (min a b, 0)
  | .max => (max a b, 0)
  | .div =>
    if b = 0 then (-1, fDivZero)
    else if !uns && a == intMin w false && b == -1 then (a, fIntOverflow)
    else (a.tdiv b, 0)

/-- The exact floating result of VADD to VMAX (R308, R73). -/
def arithFloat (op : ArithOp) (mode : RMode) (a b c : XVal) : XVal × FlagSet :=
  match op with
  | .add => xAdd mode a b
  | .sub => xAdd mode a b.negate
  | .mul => xMul a b
  | .fma => xFma mode a b c
  | .min => xMinMax false a b
  | .max => xMinMax true a b
  | .div => xDiv a b

/-- An arithmetic element in a promoted type (R308). -/
def arithElem (op : ArithOp) (uns : Bool) (p t : Tag) (frm : BitVec 2) (a b c : Elem) : Raw × FlagSet :=
  let mode := rmodeOf frm
  if tagIsInt p then
    let (x, f) := arithInt op uns (tagWidth p) (a.int uns) (b.int uns) (c.int uns)
    let (r, g) := finInt t mode uns (tagWidth p) x
    if f = fDivZero then (r, f) else (r, f ||| g)
  else
    let (x, f) := arithFloat op mode (a.val uns) (b.val uns) (c.val uns)
    let (r, g) := finFloat t mode false x
    (r, f ||| g)

/-- P of R310 as a signed number, and whether VSHL has wrapped. -/
def logicInt (op : LogicOp) (n : Nat) (a b : Int) : Int × Bool :=
  let an := wrapBits a n
  let bn := wrapBits b n
  let k := bn % n
  match op with
  | .and => (sext (an &&& bn) n, false)
  | .or => (sext (an ||| bn) n, false)
  | .xor => (sext (an ^^^ bn) n, false)
  | .shl =>
    let x := a * 2 ^ k
    let p := sext (wrapBits x n) n
    (p, p != x)
  | .shrArith => (a / 2 ^ k, false)
  | .shrLogical => (sext (an / 2 ^ k) n, false)

/-- A logic or shift element (R310, R311): every tag is an integer tag; VSHR.U reads the value it shifts unsigned (R58,
R63). -/
def logicElem (op : LogicOp) (p t : Tag) (a b : Elem) : Raw × FlagSet :=
  let (v, wrapped) := logicInt op (tagWidth p) (a.int (op == .shrLogical)) (b.int false)
  let bits := wrapBits v (tagWidth t)
  (.stored ⟨t, bits, 0⟩, flagIf (wrapped || intOf bits (tagWidth t) false != v) fIntOverflow)

/-- The F32 value of an approximated function with its flags, into a tag (R313, R73). -/
def approxElem (t : Tag) (mode : RMode) (r : Nat × FlagSet) : Raw × FlagSet :=
  let (e, g) := finFloat t mode false (fmtF32.decode r.1)
  (e, r.2 ||| g)

/-- A unary element other than VCVT (R313). -/
def unaryElem (op : UnaryOp) (t : Tag) (frm : BitVec 2) (a : Elem) : Raw × FlagSet :=
  let mode := rmodeOf frm
  let x := a.val false
  match op with
  | .abs =>
    if tagIsInt a.tag then finInt t mode false (tagWidth a.tag) (a.int false).natAbs
    else finFloat t mode false (if x.signBit then x.negate else x)
  | .neg =>
    if tagIsInt a.tag then finInt t mode false (tagWidth a.tag) (-a.int false)
    else finFloat t mode false x.negate
  | .sqrt =>
    let (y, f) := xSqrt x
    let (e, g) := finFloat t mode false y
    (e, f ||| g)
  | .rsqrt => approxElem t mode (xRsqrt x)
  | .rcp => approxElem t mode (xRcp x)
  | .exp => approxElem t mode (xExp x)
  | .log => approxElem t mode (xLog x)
  | .tanh => approxElem t mode (xTanh x)

/-- The relation of VCMP on exact values, NaN unordered (R129, R73). -/
def relHolds (r : VRel) (a b : XVal) : Bool :=
  match r with
  | .eq => xEqual a b
  | .ne => !xEqual a b
  | .lt => xLess false a b
  | .le => xLess false a b || xEqual a b
  | .gt => xLess false b a
  | .ge => xLess false b a || xEqual a b

/-- A VCMP element and its flags (R129). -/
def cmpElem (r : VRel) (uns : Bool) (a b : Elem) : Bool × FlagSet :=
  let x := a.val uns
  let y := b.val uns
  (relHolds r x y, sigFlag [x, y])

/-- The elements of a D8S block encoded with the block's scale: the decade of its largest finite magnitude (R80).
Inactive positions stay so. -/
def encodeBlock (mode : RMode) (xs : List (Option (Raw × FlagSet))) : List (Option (Elem × FlagSet)) :=
  let vals := xs.filterMap fun x => match x with
    | some (.exact v _, _) => some v
    | _ => none
  let sc := blockScale vals
  xs.map fun x => match x with
    | some (.exact v sat, f) =>
      let (b, g) := if sat then d8EncodeSat (xScale10 (-sc) v) else d8Encode mode (xScale10 (-sc) v)
      some (⟨.d8s, b, sc⟩, f ||| g)
    | some (.stored e, f) => some (e, f)
    | none => none

end Sys2Proof.Machine
end

