-- ==== Sys2Proof/Machine/StreamMem.lean ====
section
/-! DEFINITION. Elements in memory: where an element of a stream lies and may be reached (07_streams.md R104, R109;
01_device.md R18; 03_formats.md R58), what it reads as, and packed registers (10_matrix.md R148; 05_numbers.md R79). -/

namespace Sys2Proof.Machine

/-- A translation covers an address. -/
def Translation.covers (t : Translation) (va : Nat) : Bool := t.page == pageOf t.large va

/-- The translation of an address for a pass: that of a page which its leaf or sink holds pinned, else a walk's; pins take
no TLB entry (07_streams.md R113). -/
def State.translatePinned (s : State) (pins : List Translation) (va : Nat) (k : Kind) :
    Except Cause (State × Translation) :=
  let user := s.me.level == .u
  match pins.find? fun t => t.covers va && (!k.dirties || pteD t.pte.toNat) with
  | some t => if pteAllows t.pte.toNat k user then .ok (s, t) else .error .prot
  | none => s.translateWalk s.me.cr.ptbase user va k

/-- The location of an address for a pass. -/
def State.locatePinned (s : State) (pins : List Translation) (va : Word) (k : Kind) : Except Cause (State × Nat) :=
  if !canonical va then .error .prot
  else
    match windowLoc s.me.core va.toNat with
    | some loc => if s.me.miller then .error .prot else .ok (s, loc)
    | none =>
      match s.translatePinned pins va.toNat k with
      | .error c => .error c
      | .ok (s1, t) => .ok (s1.frameOf t va.toNat)

/-- The pages that hold the pieces of an access which has been located, each once; a window has none. -/
def State.pagesOf (s : State) (pins : List Translation) (k : Kind) (ps : List Piece) : List Translation :=
  (ps.filterMap fun (va, _, _) =>
    if (windowLoc s.me.core va).isSome then none
    else
      match s.translatePinned pins va k with
      | .error _ => none
      | .ok (_, t) => some t).eraseDups

/-- The location of an address: through the pins of a pass, where they are given, else as any access of the hart. -/
def State.locateVia (s : State) (pins : Option (List Translation)) (va : Word) (k : Kind) : Except Cause (State × Nat) :=
  match pins with
  | none => s.locate va k
  | some ts => s.locatePinned ts va k

/-- What an access through the pins of a pass, or as any access of the hart, leaves where it fails (14_traps.md R207). -/
def State.missedVia (s : State) (pins : Option (List Translation)) (va : Word) (k : Kind) : State :=
  match pins with
  | none => s.missed va k
  | some ts => s.missedBy s.me.cr.ptbase (s.me.level == .u)
      (ts.find? fun t => t.covers va.toNat && (!k.dirties || pteD t.pte.toNat)) va k

/-- The location of an element of n bytes at an exact address, or a fault with the state that it leaves. first is the address at
which the access starts: an element beyond the end of the scratchpad window that holds it raises PROT (R18). -/
def State.elemLocate (s : State) (pins : Option (List Translation)) (first : Option Int) (a : Int) (n : Nat) (k : Kind) :
    Except (State × Cause × Word) (State × Nat) :=
  if !canonicalInt a then .error (s, .prot, addrWord a)
  else if a % n ≠ 0 then .error (s, .misalign, addrWord a)
  else if (match first with
      | none => false
      | some f => pastWindow (addrWord f).toNat (addrWord a).toNat) then .error (s, .prot, addrWord a)
  else
    match s.locateVia pins (addrWord a) k with
    | .error c => .error (s.missedVia pins (addrWord a) k, c, addrWord a)
    | .ok r => .ok r

/-- The pieces of items, each an address and a size, or the first fault with the state that it leaves. -/
def State.locateItems (pins : Option (List Translation)) (first : Option Int) (k : Kind) :
    List (Int × Nat) → State → Except (State × Cause × Word) (State × List Piece)
  | [], s => .ok (s, [])
  | (a, n) :: r, s =>
    match s.elemLocate pins first a n k with
    | .error e => .error e
    | .ok (s1, loc) =>
      match locateItems pins first k r s1 with
      | .error e => .error e
      | .ok (s2, ps) => .ok (s2, ((addrWord a).toNat, loc, n) :: ps)

/-- What a read of position i of a stream touches: the element, and for D8S its scale byte (R104). -/
def readItems (d : BitVec 256) (i : Nat) : List (Int × Nat) :=
  if dFmt d = .d8s then [(streamAddr d i, 1), (scaleAddr d i, 1)] else [(streamAddr d i, tagBytes (dFmt d))]

/-- The same for a position of a gather, which may be negative (R109). -/
def gatherItems (d : BitVec 256) (p : Int) : List (Int × Nat) :=
  if dFmt d = .d8s then [(gatherAddr d p, 1), (gatherScale d p, 1)] else [(gatherAddr d p, tagBytes (dFmt d))]

/-- The element that the stored bytes of a position hold, a D8S scale above its code (R79). -/
def cellElem (t : Tag) (cell : Nat) : Elem :=
  if t = .d8s then ⟨t, cell % 256, sext (cell / 256) 8⟩ else ⟨t, cell % 2 ^ tagWidth t, 0⟩

/-! ### Packed registers -/

/-- A list cut into pieces of n. -/
def chunks {α : Type} (n : Nat) : Nat → List α → List (List α)
  | 0, _ => []
  | _, [] => []
  | fuel + 1, x :: xs => (x :: xs).take n :: chunks n fuel ((x :: xs).drop n)

/-- A list of bytes at a length, zeros added. -/
def padTo (n : Nat) (bs : List Byte) : List Byte := bs.take n ++ List.replicate (n - bs.length) 0

/-- The 32 bytes of a D8S block: its scale, then its codes, inactive positions and the rest 0x00 (R80). In a register that a VLD
copies, a block none of whose positions is active has the scale 0: the manual states none (10_matrix.md R148), and this is the
model's choice (log 27). -/
def blockBytes (xs : List (Option Elem)) : List Byte :=
  let sc : Int := (xs.findSome? fun x => x.map (·.scale)).getD 0
  BitVec.ofInt 8 sc :: padTo 31 (xs.map fun x => BitVec.ofNat 8 ((x.map (·.bits)).getD 0))

/-- A run of positions of a stream that one D8S block of its memory holds: how many of the n positions from p on lie in
p's block, which ends with its dimension-0 run (R79), and with the last position, after which positions begin at 0 again
(R104). -/
def blockRun (d : BitVec 256) (p n : Nat) : Nat :=
  let c := colOf d p
  let left := min (31 - c % 31) (posMod - p)
  min n (if dDims d = 0 then left else min left (dN0 d - c))

/-- n positions from p on cut into the runs of their blocks: where each starts and its length. -/
def blockRuns (d : BitVec 256) : Nat → Nat → Nat → List (Nat × Nat)
  | 0, _, _ => []
  | fuel + 1, j, n =>
    if n = 0 then []
    else
      let z := max 1 (blockRun d ((dStart d + j) % posMod) n)
      (j, z) :: blockRuns d fuel (j + z) (n - z)

/-- The elements of a block in memory whose run starts at position p: the positions before the run are none of the
access's (R79, R80). -/
def blockLead {α : Type} (d : BitVec 256) (p : Nat) (xs : List (Option α)) : List (Option α) :=
  List.replicate (colOf d p % 31) none ++ xs

/-- The elements a register of a tag holds (R148). -/
def capacity (t : Tag) : Nat := if t = .d8s then 248 else 256 / tagBytes t

/-- A materialised register: elements packed from byte 0, absent ones zero (R148, R79). -/
def packReg (t : Tag) (xs : List (Option Elem)) : BitVec 2048 :=
  let bs := if t = .d8s then (chunks 31 8 xs).flatMap blockBytes
    else xs.flatMap fun x => leBytes (tagBytes t) ((x.map (·.bits)).getD 0)
  BitVec.ofNat 2048 (leNat bs)

/-- Byte i of a register. -/
def regByte (r : BitVec 2048) (i : Nat) : Nat := r.toNat / 2 ^ (8 * i) % 256

/-- Element j of a materialised register. -/
def packElem (t : Tag) (r : BitVec 2048) (j : Nat) : Elem :=
  if t = .d8s then ⟨t, regByte r (32 * (j / 31) + 1 + j % 31), sext (regByte r (32 * (j / 31))) 8⟩
  else ⟨t, r.toNat / 2 ^ (tagWidth t * j) % 2 ^ tagWidth t, 0⟩

/-- Elements before encoding taken into a tag, D8S by blocks of 31 (R80): stored elements and flags. -/
def encodeAll (t : Tag) (mode : RMode) (xs : List (Option (Raw × FlagSet))) : List (Option (Elem × FlagSet)) :=
  if t = .d8s then (chunks 31 (xs.length + 1) xs).flatMap (encodeBlock mode) else encodeBlock mode xs

/-- The flags of a list of elements. -/
def allFlags (xs : List (Option (Elem × FlagSet))) : FlagSet :=
  xs.foldl (fun f x => f ||| ((x.map (·.2)).getD 0)) 0

end Sys2Proof.Machine
end

