-- ==== Sys2Proof/Machine/Bond.lean ====
section
/-! DEFINITION. The bond engine: major 27 and its steps (11_bond.md R155 to R164; 18_reference_a_f.md R250, R251). -/

namespace Sys2Proof.Machine

/-- The gate of a bond instruction (R157). -/
def bondGate (scalars : List SReg) : Gate :=
  { queue := .b, miller := false, mode := some false, scalars := scalars }

/-! ### BDIM -/

/-- A register and a value in BDIM's limits (R158). -/
def bdimFits (r : BitVec 6) (v : Nat) : Bool := decide (1 ≤ v) && decide (v ≤ (if r.toNat < 16 then 255 else 4095))

/-- The vector state with a bond or mode register set. -/
def VecState.setDim (w : VecState) (r : BitVec 6) (v : Nat) : VecState :=
  let i : Fin 16 := ⟨r.toNat % 16, by omega⟩
  if r.toNat < 16 then { w with bd := w.bd.set i (BitVec.ofNat 8 v) }
  else if r.toNat < 32 then { w with mm := w.mm.set i (BitVec.ofNat 12 v) }
  else { w with mn := w.mn.set i (BitVec.ofNat 12 v) }

def execBdim (a : SReg) (r : BitVec 6) (s : State) : Host.Outcome State Fault Refusal :=
  let v := (s.me.reg a).toNat
  unit (bondGate [a]) s
    (if bdimFits r v then .ok (s.setVec (s.me.vec.setDim r v)) else raise s .illegal 0)

/-! ### A step -/

/-- The dimensions of a step (R155, R159). -/
structure StepDims where
  b : Nat
  p : Nat
  m : Nat
  n : Nat
  q : Nat
  ri : Nat
  ro : Nat
  deriving DecidableEq, Repr

/-- The product of a register file's entries lo to hi. -/
def prodRange (f : Nat → Nat) (lo hi : Nat) : Nat :=
  ((List.range (hi + 1 - lo)).map fun i => f (lo + i)).foldl (· * ·) 1

/-- An entry of a file of sixteen registers, as a number. -/
def dimAt {w : Nat} (v : Vector (BitVec w) 16) (i : Nat) : Nat := (v.toList.getD i 1).toNat

/-- The dimensions of step k in a direction (R159). -/
def stepDims (w : VecState) (k : Nat) (rev : Bool) : StepDims :=
  let d := dimAt w.mn 0
  let mm := dimAt w.mm
  let mn := dimAt w.mn
  if rev then
    { b := mm 0, p := prodRange mn 1 (k - 1), m := mm k, n := mn k, q := prodRange mm (k + 1) d,
      ri := dimAt w.bd k, ro := dimAt w.bd (k - 1) }
  else
    { b := mm 0, p := prodRange mm 1 (k - 1), m := mm k, n := mn k, q := prodRange mn (k + 1) d,
      ri := dimAt w.bd (k - 1), ro := dimAt w.bd k }

/-- The elements of the boundary that a step reads and writes. -/
def StepDims.inSize (x : StepDims) : Nat := x.b * x.p * x.n * x.q * x.ri
def StepDims.outSize (x : StepDims) : Nat := x.b * x.p * x.m * x.q * x.ro

/-- The exact value of element i of a core image (R155). -/
def coreElem (t : Tag) (bs : List Byte) (i : Nat) : XVal :=
  let byte (j : Nat) : Nat := (bs.getD j 0).toNat
  match t with
  | .bf16 => fmtBf16.decode (byte (2 * i) + 256 * byte (2 * i + 1))
  | .d8s => (⟨.d8s, byte (32 * (i / 31) + 1 + i % 31), sext (byte (32 * (i / 31))) 8⟩ : Elem).val false
  | _ => d8Decode (byte i)

/-- The bytes of a core image's elements, through the last element's (R155, R164). -/
def coreBytes (t : Tag) (n : Nat) : Nat :=
  match t with
  | .bf16 => 2 * n
  | .d8s => 32 * ((n - 1) / 31) + (n - 1) % 31 + 2
  | _ => n

/-- The F32 at element i of boundary bytes. -/
def boundaryElem (bs : List Byte) (i : Nat) : XVal := fmtF32.decode (leNat ((bs.drop (4 * i)).take 4))

/-- s + a × g rounded to F32 (R159). -/
def macF32 (mode : RMode) (s a g : XVal) : XVal × FlagSet :=
  let (x, f1) := xMul a g
  let (y, f2) := xAdd mode s x
  let (b, f3) := fmtF32.round mode y
  (fmtF32.decode b, f1 ||| f2 ||| f3)

/-- One element of the new boundary (R159). -/
def stepElem (mode : RMode) (x : StepDims) (rev bf : Bool) (start : XVal) (inp : Nat → XVal)
    (g : Nat → Nat → Nat → Nat → XVal) (b p m c o : Nat) : Nat × FlagSet :=
  let (s, f) := ((List.range x.n).flatMap fun v => (List.range x.ri).map fun t => (v, t)).foldl
    (fun (acc, f) (v, t) =>
      let gv := if rev then g o m v t else g t m v o
      let (y, h) := macF32 mode acc (inp ((((b * x.p + p) * x.n + v) * x.q + c) * x.ri + t)) gv
      (y, f ||| h)) (start, (0 : FlagSet))
  if bf then
    let (r, h) := fmtBf16.round mode s
    (r * 65536, f ||| h)
  else ((fmtF32.round mode s).1, f)

/-- The new boundary's bytes and flags (R159). -/
def stepCompute (mode : RMode) (x : StepDims) (rev bf : Bool) (old : Option (List Byte)) (inp : List Byte)
    (g : Nat → Nat → Nat → Nat → XVal) : List Byte × FlagSet :=
  ((List.range x.outSize).map fun i =>
    let o := i % x.ro
    let c := i / x.ro % x.q
    let m := i / (x.ro * x.q) % x.m
    let p := i / (x.ro * x.q * x.m) % x.p
    let b := i / (x.ro * x.q * x.m * x.p)
    let start : XVal := match old with
      | some bs => boundaryElem bs i
      | none => .num false 0 1
    stepElem mode x rev bf start (boundaryElem inp) g b p m c o).foldl
      (fun (bs, f) (r, h) => (bs ++ leBytes 4 r, f ||| h)) ([], (0 : FlagSet))

/-- The boundary buffer lies inside the local window (R159). -/
def State.bufferCheck (s : State) : Res Unit :=
  let buf := s.me.cr.bndbuf
  if buf.toNat < 0x0070000000000000 ∨ 0x0070000000080000 < buf.toNat + s.me.cr.bndsize.toNat then raise s .prot buf
  else .ok ()

/-- The header of a core: tag, RL, RR, M and N (R155). -/
def headerTag (h : List Byte) : Option Tag :=
  match (h.getD 0 0).toNat with
  | 4 => some .d8
  | 5 => some .d8s
  | 6 => some .bf16
  | _ => none

/-- The header's dimensions are those of the registers (R159). -/
def headerFits (w : VecState) (k : Nat) (h : List Byte) : Bool :=
  (h.getD 1 0).toNat == dimAt w.bd (k - 1) && (h.getD 2 0).toNat == dimAt w.bd k
    && leNat ((h.drop 4).take 2) == dimAt w.mm k && leNat ((h.drop 6).take 2) == dimAt w.mn k

/-- The state with the order program of a BRUN stopped where a step stalls (R162): a hart that stalls so changes from
provisional at once (12_launch.md R178), and goes on by issuing its BRUN again. -/
def State.stalled (s : State) : State := { s with me := { s.me with brun := none } }

/-- One contraction of the boundary with the core at an address (R159); recs are the pieces of its order record. What is read
is read by aligned doublewords (13_ordering.md R189), region O too, as it is copied into region I. Where the size that BNDOVF
reports needs more than 64 bits, EVA holds its low 64: the model's choice (log 29). -/
def State.bondStep (s : State) (hdr : Word) (k : Nat) (rev acc bf : Bool) (recs : List Piece) : Res State := do
  let w := s.me.vec
  let d := dimAt w.mn 0
  if 15 < d ∨ k < 1 ∨ d < k then throw (.trap s .illegal 0)
  s.bufferCheck
  if hdr.toNat % 32 ≠ 0 then throw (.trap s .misalign hdr)
  let (s1, hp) ← s.piecesOr hdr 32 .read
  s1.readGate (rangeOf hdr 32)
  if s1.piecesHeld hp then throw (.stall s.stalled)
  let (s2, h) := State.readPieces (dwordPieces hp) s1
  let t ← (match headerTag h with
    | some t => .ok t
    | none => raise s2 .tagerr 0 : Res Tag)
  if !headerFits w k h then throw (.trap s2 .lenerr 0)
  let x := stepDims w k rev
  let half := s.me.cr.bndsize.toNat / 2
  let size := 4 * max x.inSize x.outSize
  if half < size then throw (.trap s2 .bndovf (BitVec.ofNat 64 size))
  let count := dimAt w.bd (k - 1) * x.m * x.n * dimAt w.bd k
  let bytes := coreBytes t count
  let buf := s.me.cr.bndbuf
  s2.readGate (rangeOf hdr (32 + bytes))
  s2.writeGate (rangeOf buf s.me.cr.bndsize.toNat)
  let s3 ← s2.room (if recs.isEmpty then 2 else 3)
  let (s4, cp) ← piecesRes (State.locatePieces hdr.toNat .read (bytes / 4096 + 2) (hdr + 32) bytes s3)
  let (s5, ip) ← s4.piecesOr buf (4 * x.inSize) .read
  let (s6, op) ← s5.piecesOr (buf + BitVec.ofNat 64 half) (4 * x.outSize) .write
  let (s7, jp) ← s6.piecesOr buf (4 * x.outSize) .write
  if s7.piecesHeld (cp ++ ip ++ op ++ jp) || !s7.piecesFit (op ++ jp) then throw (.stall s.stalled)
  let (s8, cb) := State.readPieces (dwordPieces cp) s7
  let (s9, inp) := State.readPieces (dwordPieces ip) s8
  let (s10, old) := if acc then (let (y, o) := State.readPieces (dwordPieces op) s9; (y, some o)) else (s9, none)
  let g (a m v r : Nat) : XVal := coreElem t cb (((a * x.m + m) * x.n + v) * dimAt w.bd k + r)
  let (out, f) := stepCompute (rmodeOf s.me.cr.frm) x rev bf old inp g
  let s11 := State.writePieces jp out (State.writePieces op out s10)
  let s12 := s11.spoil (rangeOf buf s.me.cr.bndsize.toNat) s.me.pc
  return (s12.watchTransfer .bond (recs ++ ip ++ op) (op ++ jp)).orFlags f

def execBcon (a : SReg) (k : BitVec 6) (s : State) : Host.Outcome State Fault Refusal :=
  unit (bondGate [a]) s (s.bondStep (s.me.reg a) k.toNat false false false [])

/-! ### BRUN -/

/-- BSTAT in progress at a step (R162). -/
def bstatAt (i : Nat) : Word := BitVec.ofNat 64 (65536 + i % 65536)

/-- The step at which BRUN starts (R162). -/
def bstatStep (b : Word) : Nat := if b.getLsbD 16 then b.toNat % 65536 else 0

/-- BRUN begins: its steps run until the last one retires it (R162). -/
def execBrun (a : SReg) (s : State) : Host.Outcome State Fault Refusal :=
  unit (bondGate [a]) s (do
    let p := s.me.reg a
    if p.toNat % 16 ≠ 0 then throw (.trap s .misalign p)
    throw (.stay { s with me := { s.me with
      brun := some p
      cr := { s.me.cr with bstat := bstatAt (bstatStep s.me.cr.bstat) } } }))

/-- A step that ends in an exception has read its order record, which watchpoints see (15_debug.md R226; 18_reference_a_f.md
R251). -/
def Act.notesRecord (a : Act) (rp : List Piece) : Act :=
  match a with
  | .trap s c eva => .trap (s.watchTransfer .bond rp []) c eva
  | a => a

/-- A step of an order program by the two doublewords of its record, which has been read (R161, R162). -/
def State.recordStep (s : State) (a : Word) (i w0 w1 : Nat) (rp : List Piece) : Res State :=
  if w0 / 2 ^ 56 ≠ 0 ∨ w1 / 2 ^ 12 ≠ 0 ∨ w1 / 16 % 16 ≠ 0 ∨ w1 % 16 = 0 then raise s .illegal a
  else if w1 / 2048 % 2 = 0 ∧ i = 65535 then raise s .illegal a
  else s.bondStep (addrWord (sext w0 56)) (w1 % 16) (w1 / 256 % 2 == 1) (w1 / 512 % 2 == 1) (w1 / 1024 % 2 == 1) rp

/-- The step of the order program at an address that BSTAT names (R161, R162). -/
def State.orderStep (s : State) (p : Word) : Res State := do
  let i := bstatStep s.me.cr.bstat
  let a := p + BitVec.ofNat 64 (16 * i)
  let (s1, rp) ← s.piecesOr a 16 .read
  s1.readGate (rangeOf a 16)
  if s1.piecesHeld rp then throw (.stall s.stalled)
  let (s2, bs) := State.readPieces (dwordPieces rp) s1
  let w0 := leNat (bs.take 8)
  let w1 := leNat (bs.drop 8)
  let s3 ← (match s2.recordStep a i w0 w1 rp with
    | .ok s3 => .ok s3
    | .error e => .error (e.notesRecord rp) : Res State)
  if w1 / 2048 % 2 = 1 then
    return { s3 with me := { s3.me with cr := { s3.me.cr with bstat := 0 } } }
  else
    throw (.stay { s3 with me := { s3.me with
      checked := none
      met := []
      cr := { s3.me.cr with bstat := bstatAt (i + 1) } } })

/-- BOND_STEP: the next step of the hart's order program (R159, R162). -/
def execBondStep (s : State) : Host.Outcome State Fault Refusal :=
  match s.me.brun with
  | none => .next s
  | some p =>
    .next (settle .b s (match s.orderStep p with
      | .ok s1 => .done s1
      | .error a => a))

/-! ### BLD and BST -/

/-- The pieces that hold the first n bytes. -/
def takePieces : Nat → List Piece → List Piece
  | _, [] => []
  | n, (va, loc, z) :: r => if n = 0 then [] else (va, loc, min n z) :: takePieces (n - min n z) r

/-- The bytes of pieces. -/
def pieceBytes (ps : List Piece) : Nat := (ps.map fun x => x.2.2).sum

/-- The leaves that the first n bytes from an address on overlap. -/
def State.overlapped (s : State) (dst : Word) (n : Nat) : List Nat :=
  if n = 0 then [] else leavesMet s.me.vec (rangeOf dst n)

/-- The STALE marks of a transfer that has written its first n bytes (08_faults.md R121; R163). -/
def State.spoilPart (s : State) (dst : Word) (n : Nat) : State :=
  if n = 0 then s else s.spoil (rangeOf dst n) s.me.pc

/-- A copy of n bytes between memory at an address and region I; load copies into the region (R163). Aligned doublewords of the
destination are copied whole, in ascending order (13_ordering.md R190). A fault leaves the bytes below it written, and only they
make leaves STALE: the manual states no other marks (log 29). -/
def bondCopy (load : Bool) (a : Word) (n : Nat) (s : State) : Res State := do
  if a.toNat % 4 ≠ 0 ∨ n % 4 ≠ 0 then throw (.trap s .misalign a)
  s.bufferCheck
  if s.me.cr.bndsize.toNat / 2 < n then throw (.trap s .bndovf (BitVec.ofNat 64 n))
  if n = 0 then return s
  let buf := s.me.cr.bndbuf
  let (src, dst) := if load then (a, buf) else (buf, a)
  let part (t : State) := State.locatePart a.toNat (if load then .read else .write) (n / 4096 + 2) a n t
  s.writeGateOf (rangeOf dst n) (s.overlapped dst (pieceBytes (part s).2.1))
  s.readGate (rangeOf src n)
  let s0 ← s.room 2
  let (s1, mp, fault) := part s0
  let (s2, bp) ← s1.piecesOr buf n (if load then .write else .read)
  let bp1 := takePieces (pieceBytes mp) bp
  let (rp, wp) := if load then (mp, bp1) else (bp1, mp)
  if s2.piecesHeld (rp ++ wp) || !s2.piecesFit wp then throw (.stall s)
  let s3 := (State.copyDwords (n / 8 + 2) dst.toNat (pieceLocs rp) (pieceLocs wp) s2).spoilPart dst (pieceBytes mp)
  let s4 := s3.watchTransfer .bond rp wp
  match fault with
  | some (c, eva) => throw (.trap s4 c eva)
  | none => return s4

def execBld (a b : SReg) (s : State) : Host.Outcome State Fault Refusal :=
  unit (bondGate [a, b]) s (bondCopy true (s.me.reg a) (s.me.reg b).toNat s)

def execBst (a b : SReg) (s : State) : Host.Outcome State Fault Refusal :=
  unit (bondGate [a, b]) s (bondCopy false (s.me.reg a) (s.me.reg b).toNat s)

end Sys2Proof.Machine
end

