-- ==== Sys2Proof/Machine/CtrlRegs.lean ====
section
/-! DEFINITION. The control registers: CRD, and CWR in its rows other than CTXBASE (04_registers.md R68 to R70;
18_reference_a_f.md R258, R259; 15_debug.md R221, R225, R227; 10_matrix.md R147). -/

namespace Sys2Proof.Machine

/-- The registers that U-mode may not name (R70). -/
def crHidden (n : Nat) : Bool :=
  (0x300 ≤ n && n ≤ 0x309) || (0x401 ≤ n && n ≤ 0x404) || (0x410 ≤ n && n ≤ 0x41B)

/-- A Boolean as a bit of a register. -/
def bitWord (b : Bool) (i : Nat) : Word := BitVec.ofNat 64 (b.toNat * 2 ^ i)

/-- The lanes marked in bits 0 to n − 1 of the lane table. -/
def lanesBelow (a : BitVec 136) (n : Nat) : Nat := ((List.range n).filter fun i => a.getLsbD i).length

/-- LREMAPj: the prefix count and the assigned lanes 16j to 16j + 15 (R68). -/
def Core.lremap (c : Core) (j : Nat) : Word :=
  BitVec.ofNat 64 (lanesBelow c.assigned (16 * j) * 2 ^ 16 + c.assigned.toNat / 2 ^ (16 * j) % 2 ^ 16)

/-- The bits of a pair-table word (R225). -/
def pairMask (i : Nat) (w : Word) : Word :=
  match i % 4 with
  | 0 => keepBits w 55 2 ||| keepBits w 0 0
  | 1 => keepBits w 55 2
  | _ => w

/-- The element completion mask word j. -/
def ecmWord (m : BitVec 1024) (j : Nat) : Word := BitVec.ofNat 64 (m.toNat / 2 ^ (64 * j))

/-- The value of a control register (R70; 15_debug.md R224, R225: what the counters have counted, log 9). -/
def State.crValue (s : State) (n : Nat) : Word :=
  let h := s.me
  let c := s.myCore
  let r := h.cr
  if n = 0x000 then BitVec.ofNat 64 r.vl
  else if n = 0x001 then BitVec.ofNat 64 r.sl
  else if n = 0x002 then BitVec.ofNat 64 r.slmax
  else if n = 0x003 then BitVec.ofNat 64 r.nv
  else if n = 0x004 then BitVec.ofNat 64 c.lmod
  else if n = 0x005 then BitVec.ofNat 64 c.partn
  else if n = 0x006 then r.frm.setWidth 64
  else if n = 0x007 then bitWord r.lam 0
  else if n = 0x008 then r.vflags.setWidth 64
  else if n = 0x009 then r.lc
  else if n = 0x00A then r.lstart
  else if n = 0x00B then r.lend
  else if 0x010 ≤ n ∧ n ≤ 0x018 then c.lremap (n - 0x010)
  else if n = 0x100 then r.passp
  else if n = 0x101 then r.fblame
  else if n = 0x102 then r.felem
  else if n = 0x103 then r.fdemand
  else if 0x110 ≤ n ∧ n ≤ 0x11F then ecmWord r.ecmw (n - 0x110)
  else if n = 0x200 then BitVec.ofNat 64 r.hx
  else if n = 0x201 then BitVec.ofNat 64 r.gn
  else if n = 0x202 then BitVec.ofNat 64 h.core
  else if n = 0x203 then BitVec.ofNat 64 r.slots
  else if n = 0x204 then bitWord r.confirmed 0
  else if n = 0x205 then r.complp
  else if n = 0x300 then r.epc
  else if n = 0x301 then r.ecause
  else if n = 0x302 then r.eva
  else if n = 0x303 then r.estatus
  else if n = 0x304 then r.tvec
  else if n = 0x305 then r.spillp
  else if n = 0x306 then r.ptbase
  else if n = 0x307 then r.tlbinva
  else if n = 0x308 then r.timecmp
  else if n = 0x309 then r.ctxbase
  else if n = 0x400 then s.time
  else if n = 0x401 then c.trbase
  else if n = 0x402 then c.trsize
  else if n = 0x403 then c.trhead
  else if n = 0x404 then c.trdrops
  else if 0x410 ≤ n ∧ n ≤ 0x413 then c.wpad.toList.getD (n - 0x410) 0
  else if 0x414 ≤ n ∧ n ≤ 0x417 then c.wpmask.toList.getD (n - 0x414) 0
  else if 0x418 ≤ n ∧ n ≤ 0x41B then c.wpctl.toList.getD (n - 0x418) 0
  else if 0x420 ≤ n ∧ n ≤ 0x43F then c.stall.toList.getD (n - 0x420) 0
  else if 0x440 ≤ n ∧ n ≤ 0x47F then r.pairw.toList.getD (n - 0x440) 0
  else if n = 0x500 then r.mshape
  else if n = 0x501 then r.bndbuf
  else if n = 0x502 then r.bndsize
  else if n = 0x503 then r.bstat
  else if n = 0xF00 then s.capBase.setWidth 64 &&& ~~~(0xF : Word)
  else if n = 0xF01 then BitVec.ofNat 64 Config.partId
  else 0

def execCrd (sc : SReg) (n : BitVec 16) (s : State) : Host.Outcome State Fault Refusal :=
  unit { supervisor := crHidden n.toNat, scalars := [sc] } s (.ok (s.setReg sc (s.crValue n.toNat)))

/-! ### Writes -/

/-- A mask with its word j replaced. -/
def setEcmWord (m : BitVec 1024) (j : Nat) (v : Word) : BitVec 1024 :=
  BitVec.ofNat 1024 (m.toNat - m.toNat / 2 ^ (64 * j) % 2 ^ 64 * 2 ^ (64 * j) + v.toNat * 2 ^ (64 * j))

/-- CWR to a register without further effects (R70, R6, R259): only the register's fields are written, and a register
read-only at the hart's level is left alone. -/
def State.crWrite (s : State) (n : Nat) (v : Word) : State :=
  let sup := s.me.level == .s
  if n = 0x006 then s.setCr fun r => { r with frm := v.setWidth 2 }
  else if n = 0x007 then s.setCr fun r => { r with lam := v.getLsbD 0 }
  else if n = 0x009 then s.setCr fun r => { r with lc := v }
  else if n = 0x00A then s.setCr fun r => { r with lstart := keepBits v 55 2 }
  else if n = 0x501 then s.setCr fun r => { r with bndbuf := keepBits v 55 6 }
  else if !sup then s
  else if n = 0x101 then s.setCr fun r => { r with fblame := keepBits v 55 2 }
  else if n = 0x102 then s.setCr fun r => { r with felem := keepBits v 39 0 }
  else if n = 0x103 then s.setCr fun r => { r with fdemand := keepBits v 55 2 ||| keepBits r.fdemand 0 0 }
  else if 0x110 ≤ n ∧ n ≤ 0x11F then s.setCr fun r => { r with ecmw := setEcmWord r.ecmw (n - 0x110) v }
  else if n = 0x300 then s.setCr fun r => { r with epc := keepBits v 55 2 }
  else if n = 0x301 then s.setCr fun r => { r with ecause := keepBits v 4 0 }
  else if n = 0x302 then s.setCr fun r => { r with eva := v }
  else if n = 0x303 then s.setCr fun r => { r with estatus := keepBits v 3 0 }
  else if n = 0x304 then s.setCr fun r => { r with tvec := keepBits v 55 2 }
  else if n = 0x307 then s.setCr fun r => { r with tlbinva := keepBits v 55 18 ||| keepBits v 1 0 }
  else if n = 0x404 then s.setCore { s.myCore with trdrops := keepBits v 31 0 }
  else if 0x420 ≤ n ∧ n ≤ 0x43F then
    s.setCore { s.myCore with stall := s.myCore.stall.setIfInBounds (n - 0x420) v }
  else if 0x440 ≤ n ∧ n ≤ 0x47F then
    s.setCr fun r => { r with pairw := r.pairw.setIfInBounds (n - 0x440) (pairMask (n - 0x440) v) }
  else s

/-- The registers of the hardware loop, of which the unit's own test at LEND sees the old values (R69; 19_reference_j_s.md
R282). -/
def crLoop (n : Nat) : Bool := n == 0x009 || n == 0x00A

def execCwr (sc : SReg) (n : BitVec 16) (s : State) : Host.Outcome State Fault Refusal :=
  let v := s.me.reg sc
  unit { supervisor := crHidden n.toNat, scalars := [sc] } s
    (if crLoop n.toNat then .error (.after s fun t => t.crWrite n.toNat v) else .ok (s.crWrite n.toNat v))

def execCwrTimecmp (sc : SReg) (s : State) : Host.Outcome State Fault Refusal :=
  unit { supervisor := true, scalars := [sc] } s (.ok (s.setCr fun r => { r with timecmp := s.me.reg sc }))

def execCwrPtbase (sc : SReg) (s : State) : Host.Outcome State Fault Refusal :=
  unit { supervisor := true, scalars := [sc] } s
    (.ok (s.setCr fun r => { r with ptbase := keepBits (s.me.reg sc) 51 12 }))

/-- No window register and no return entry is in the spill area (R259; 09_control.md R136). -/
def Hart.nothingSpilled (h : Hart) : Bool := h.wsp == sx56 h.cr.spillp && h.rsp == sx56 h.cr.spillp - 8

def execCwrSpillp (sc : SReg) (s : State) : Host.Outcome State Fault Refusal :=
  let v := keepBits (s.me.reg sc) 55 6
  unit { supervisor := true, scalars := [sc] } s
    (if s.me.nothingSpilled then
      .ok { s with me := { s.me with
        wsp := sx56 v
        rsp := sx56 v - 8
        cr := { s.me.cr with spillp := v } } }
    else raise s .illegal 0)

/-- SLOTS is read-only at U (R70), where the write is ignored; its field is bits 5:0. -/
def execCwrSlots (sc : SReg) (s : State) : Host.Outcome State Fault Refusal :=
  let (c, w) := s.myCore.weigh s.me.slot s.me.num s.me.cr.slots (fld (s.me.reg sc).toNat 0 6)
  unit { scalars := [sc] } s
    (.ok (if s.me.level == .s then (s.setCore c).setCr fun r => { r with slots := w } else s))

/-- LEND, in force from the next unit (R69). -/
def execCwrLend (sc : SReg) (s : State) : Host.Outcome State Fault Refusal :=
  let v := s.me.reg sc
  unit { scalars := [sc] } s
    (.error (.after s fun t => t.setCr fun r => { r with lend := keepBits v 55 2 ||| keepBits v 0 0 }))

def execCwrVflags (sc : SReg) (s : State) : Host.Outcome State Fault Refusal :=
  unit { scalars := [sc] } s
    (.ok (s.setCr fun r => { r with vflags := r.vflags &&& ~~~((s.me.reg sc).setWidth 7) }))

/-- The shape M by N, checked by R147; in matrix mode VL is N. -/
def State.setShape (s : State) (m n : Nat) : Res State :=
  if m < 1 ∨ 16 < m ∨ n < 1 ∨ 256 < n then raise s .illegal 0
  else .ok (s.setCr fun r => { r with
    mshape := BitVec.ofNat 64 (256 * n + m)
    vl := if s.me.vec.matrix then n else r.vl })

def execCwrMshape (sc : SReg) (s : State) : Host.Outcome State Fault Refusal :=
  let v := (s.me.reg sc).toNat
  unit { scalars := [sc] } s (s.setShape (fld v 0 5) (fld v 8 10))

/-- BNDSIZE, whose field is bits 18:0 (R70, 00_scope.md R5). -/
def execCwrBndsize (sc : SReg) (s : State) : Host.Outcome State Fault Refusal :=
  let v := keepBits (s.me.reg sc) 18 0
  unit { scalars := [sc] } s
    (if v.toNat % 64 ≠ 0 ∨ 262144 < v.toNat then raise s .illegal 0
    else .ok (s.setCr fun r => { r with bndsize := v }))

def execCwrBstat (sc : SReg) (s : State) : Host.Outcome State Fault Refusal :=
  unit { scalars := [sc] } s (.ok (s.setCr fun r => { r with bstat := keepBits (s.me.reg sc) 16 0 }))

/-- A power of two of at least 262,144 in TRSIZE's field, or 0 (R221). -/
def traceSize (v : Nat) : Word :=
  if (List.range 23).any fun i => v == 2 ^ (18 + i) then BitVec.ofNat 64 v else 0

/-- The trace registers as CWR leaves them; TIME ignores a write (R221). -/
def Core.traceWrite (c : Core) (ptbase : Word) (n : Nat) (v : Word) : Core :=
  match n with
  | 1 => { c with trbase := keepBits v 55 18, trptbase := some ptbase }
  | 2 => { c with trsize := traceSize (keepBits v 40 0).toNat }
  | 3 => { c with trhead := keepBits v 40 0 }
  | _ => c

def execCwrTraceRegs (sc : SReg) (n : BitVec 2) (s : State) : Host.Outcome State Fault Refusal :=
  unit { supervisor := n != 0, scalars := [sc] } s
    (if n != 0 && !(s.myCore.traceFifo.isEmpty && s.myCore.traceWait.isEmpty) then .error (.wait s)
    else .ok (s.setCore (s.myCore.traceWrite s.me.cr.ptbase n.toNat (s.me.reg sc))))

/-- The watchpoint registers as CWR leaves them; the hart that writes WPCTLn owns watchpoint n (R226). -/
def Core.watchWrite (c : Core) (owner n : Nat) (v : Word) : Core :=
  if n < 4 then { c with wpad := c.wpad.setIfInBounds n (keepBits v 55 4) }
  else if n < 8 then { c with wpmask := c.wpmask.setIfInBounds (n - 4) (keepBits v 15 0) }
  else { c with
    wpctl := c.wpctl.setIfInBounds (n - 8) (keepBits v 7 0)
    wowner := c.wowner.setIfInBounds (n - 8) (some owner) }

/-- The locations of an address in the frames of a page in migration, or none for any other address (R227). -/
def State.bothFrames (s : State) (va : Word) : List Nat :=
  match windowLoc s.me.core va.toNat, s.translateAs s.me.cr.ptbase (s.me.level == .u) va.toNat .read with
  | none, .ok (_, t) =>
    let p := t.pte.toNat
    if t.large || !pteM p then []
    else [0, 8].map fun i => frameField (s.recordDword (pteAddr p + i)) + va.toNat % 2 ^ 18
  | _, _ => []

/-- A watchpoint that watches agents outside the core holds the physical address of its granule, in both frames of a page in
migration (R227). The manual does not say for which kind of access the address is translated: that it is a read's is the model's
choice (log 23). -/
def State.watchArm (s : State) (c : Core) (w : Nat) : Res State :=
  let ctl := c.wpctl.toList.getD w 0
  if ctl.getLsbD 3 && ctl.getLsbD 7 then
    let a := c.wpad.toList.getD w 0
    match s.locate (sx56 a) .read with
    | .error e => .error (.trap (s.missed (sx56 a) .read) e a)
    | .ok (s1, loc) =>
      let frames := s.bothFrames (sx56 a)
      .ok (s1.setCore { c with wloc := c.wloc.setIfInBounds w (if frames.isEmpty then [loc] else frames) })
  else .ok (s.setCore c)

def execCwrWatchpoint (sc : SReg) (n : BitVec 4) (s : State) : Host.Outcome State Fault Refusal :=
  unit { supervisor := true, scalars := [sc] } s
    (s.watchArm (s.myCore.watchWrite s.me.num n.toNat (s.me.reg sc)) (n.toNat % 4))

end Sys2Proof.Machine
end

