-- ==== Sys2Proof/Machine/Launch.lean ====
section
/-! DEFINITION. Gangs and harts: launch, placement, early start, predicted shapes, the barrier and completion: major 29
(12_launch.md R165 to R182, R334; 17_layer_program.md R243; 18_reference_a_f.md R249, R261; 19_reference_j_s.md R275 to R277,
R295, R296; 20_reference_t_z.md R306, R328). -/

namespace Sys2Proof.Machine

/-! ### The descriptor -/

/-- Doubleword i of a descriptor. -/
def ldw (d i : Nat) : Nat := d / 2 ^ (64 * i) % 2 ^ 64

/-- The fields of a launch descriptor (R165). -/
def lEntry (d : Nat) : Nat := ldw d 0 % 2 ^ 56
def lSlots (d : Nat) : Nat := fld (ldw d 1) 36 6
def lPartn (d : Nat) : Nat := fld (ldw d 1) 32 4
def lNv (d : Nat) : Nat := fld (ldw d 1) 24 7
def lHarts (d : Nat) : Nat := fld (ldw d 1) 20 4
def lClast (d : Nat) : Nat := fld (ldw d 1) 10 10
def lCfirst (d : Nat) : Nat := fld (ldw d 1) 0 10
def lArgs (d : Nat) : Nat := ldw d 2 % 2 ^ 56
def lDone (d : Nat) : Nat := ldw d 3 % 2 ^ 56
def lPred (d : Nat) : Nat := ldw d 4 % 2 ^ 56
def lCell (d : Nat) : Nat := ldw d 5 % 2 ^ 56
def lSpad (d : Nat) : Nat := fld (ldw d 6) 32 20
def lShape (d : Nat) : Nat := fld (ldw d 6) 0 32
def lFirst (d : Nat) : Nat := fld (ldw d 7) 0 3

/-- A 56-bit field as an address. -/
def addr56 (n : Nat) : Word := addrWord (sext n 56)

/-- The reserved fields are zero (R165). -/
def lReserved (d : Nat) : Bool :=
  [0, 2, 3, 4, 5].all (fun i => ldw d i / 2 ^ 56 == 0)
    && fld (ldw d 1) 42 22 == 0 && fld (ldw d 1) 31 1 == 0 && ldw d 6 / 2 ^ 52 == 0 && ldw d 7 / 8 == 0

/-- Every field lies within its range (R165, R276). -/
def lRanges (d : Nat) : Bool :=
  lEntry d % 4 == 0 && (decide (1 ≤ lSlots d) && decide (lSlots d ≤ 32))
    && [1, 2, 4, 8].contains (lPartn d) && [8, 16, 32, 64].contains (lNv d)
    && (decide (1 ≤ lHarts d) && decide (lHarts d ≤ 8)) && decide (lFirst d + lHarts d ≤ 8)
    && (decide (lCfirst d ≤ lClast d) && decide (lClast d ≤ 767))
    && lDone d != 0 && lDone d % 8 == 0 && lPred d % 8 == 0 && lPred d != lDone d && lCell d % 16 == 0
    && lSpad d % 64 == 0 && decide (lSpad d ≤ 65536)

/-- valid(d), but for the live gangs' completion words (R166, R233). -/
def State.lValid (s : State) (d : Nat) : Bool :=
  lReserved d && lRanges d
    && (List.range 4).all fun die =>
      s.diePresent die || !(decide (lCfirst d / 192 ≤ die) && decide (die ≤ lClast d / 192))

/-- The capacity C (R165). -/
def lCap (d : Nat) : Nat := lHarts d * (lClast d + 1 - lCfirst d)

/-! ### The predictor -/

/-- The index of an entry PC (R179). -/
def predIndex (entry : Nat) : Nat := (entry / 4 % 64) ^^^ (entry / 256 % 64)

/-- The predictor entry of an entry PC on a die. -/
def State.predEntry (s : State) (die : Nat) (entry : Word) : Option PredEntry :=
  s.predictor.find? fun e => e.die == die && e.index == predIndex entry.toNat && e.entry == entry

/-- The predicted count: the larger of the stored counts, C on a miss, at least 1 (R179). -/
def State.predict (s : State) (die : Nat) (entry : Word) (cap : Nat) : Nat :=
  match s.predEntry die entry with
  | none => max 1 cap
  | some e => max 1 (max e.last (e.previous.getD 0))

/-- Records a confirmed count (R179). -/
def State.recordCount (s : State) (die : Nat) (entry : Word) (t : Nat) : State :=
  let i := predIndex entry.toNat
  let e : PredEntry :=
    { die := die, index := i, entry := entry, last := t, previous := (s.predEntry die entry).map (·.last) }
  { s with predictor := e :: s.predictor.filter fun x => !(x.die == die && x.index == i) }

/-! ### Registration -/

/-- The live gangs. -/
def State.liveGangs (s : State) : List Gang := s.gangs.filter (·.live)

/-- Some hart's closed allocation holds bytes, so that an access of the device stalls (R176; 13_ordering.md R201). -/
def State.heldByAny (s : State) (loc n : Nat) : Bool := s.harts.any fun h => h.closed && h.touches loc n

/-- The completion word of a gang with no hart: done, count 0, flags 0 (R178, R276). One in a closed allocation stalls, and the
gang stays live until it is written (R176). -/
def State.finishEmpty (s : State) (g : Gang) : State :=
  if s.heldByAny g.doneLoc 8 then s
  else (s.performWrite g.doneLoc (leBytes 8 (2 ^ 63))).updGang g.id fun x => { x with live := false }

/-- A gang with no hart whose completion word has waited and can be written now. -/
def State.emptyDue (s : State) : Option Gang :=
  s.gangs.find? fun g => g.live && g.confirmed && g.count == 0 && !s.heldByAny g.doneLoc 8

/-- The gang that a descriptor describes, with n harts (R165, R168). -/
def State.mkGang (s : State) (d n : Nat) (doneLoc : Nat) (predLoc cellLoc : Option Nat) (predicted confirmed : Bool) :
    Gang where
  id := s.nextGang
  entry := addr56 (lEntry d)
  args := addr56 (lArgs d)
  slots := lSlots d
  partn := lPartn d
  nv := lNv d
  harts := lHarts d
  cfirst := lCfirst d
  clast := lClast d
  firstSlot := lFirst d
  spad := lSpad d
  done := addr56 (lDone d)
  doneLoc := doneLoc
  pred := addr56 (lPred d)
  predLoc := predLoc
  cellLoc := cellLoc
  tvec := s.me.cr.tvec
  ptbase := s.me.cr.ptbase
  die := dieOf s.me.core
  predicted := predicted
  confirmed := confirmed
  count := n
  initial := n
  started := []
  ended := []
  squashed := []
  triggered := []
  arrivals := []
  ends := 0
  live := true

/-- Enters a gang into the table; one confirmed by a published cell is recorded, and one with no hart is done (R179,
R276). -/
def State.register (s : State) (g : Gang) : State :=
  let s1 : State := { s with gangs := s.gangs ++ [g], nextGang := s.nextGang + 1 }
  let s2 := if g.predicted && g.confirmed then s1.recordCount g.die g.entry g.count else s1
  if g.count = 0 then s2.finishEmpty g else s2

/-- The location of a field of the descriptor; a fault has EVA at the field's value (R334). -/
def State.fieldLoc (s : State) (a : Nat) (k : Kind) : Res (State × Nat) := s.locateOr (addr56 a) k (addr56 a)

/-- The predecessor's location, where the descriptor names one (R334). -/
def State.predField (s : State) (d : Nat) : Res (State × Option Nat) :=
  if lPred d = 0 then .ok (s, none)
  else
    match s.fieldLoc (lPred d) .read with
    | .ok (s1, l) => .ok (s1, some l)
    | .error a => .error a

/-- The descriptor's read and checks, with the locations of DONE and PRED (R166, R276, R334). -/
def State.readLaunch (s : State) (a : Word) : Res (State × Nat × Nat × Option Nat) := do
  if s.me.provisional then throw (.stall s)
  let (s1, d) ← s.readDwords a 64
  if !s1.lValid d then throw (.trap s1 .illegal a)
  let (s2, dl) ← s1.fieldLoc (lDone d) .write
  let (s3, pl) ← s2.predField d
  if s3.liveGangs.any fun g => g.doneLoc == dl then throw (.trap s3 .illegal a)
  return (s3, d, dl, pl)

/-- The effect of LAUNCH (R166). -/
def launchBody (a : Word) (s : State) : Res State := do
  let (s1, d, dl, pl) ← s.readLaunch a
  if lCap d < lShape d then throw (.trap s1 .illegal a)
  if 1024 ≤ s1.liveGangs.length then throw (.stall s)
  return s1.register (s1.mkGang d (if lShape d = 0 then lCap d else lShape d) dl pl none false true)

def execLaunch (a : SReg) (s : State) : Host.Outcome State Fault Refusal :=
  unit { scalars := [a] } s (launchBody (s.me.reg a) s)

/-- LAUNCH.P's count from an unpublished cell (R166, R276). -/
def State.predicted (s : State) (d : Nat) : Nat :=
  min (lCap d) (if lShape d = 0 then s.predict (dieOf s.me.core) (addr56 (lEntry d)) (lCap d) else lShape d)

/-- The effect of LAUNCH.P (R166). -/
def launchPBody (a : Word) (s : State) : Res State := do
  let (s1, d, dl, pl) ← s.readLaunch a
  if lCell d = 0 then throw (.trap s1 .illegal a)
  let (s2, c) ← s1.readMem (addr56 (lCell d)) 8
  let (s3, cl) ← s2.fieldLoc (lCell d) .read
  if 1024 ≤ s3.liveGangs.length then throw (.stall s)
  return (if c / 2 ^ 63 = 1 then s3.register (s3.mkGang d (min (c % 2 ^ 32) (lCap d)) dl pl none true true)
    else s3.register (s3.mkGang d (s3.predicted d) dl pl (some cl) true false))

def execLaunchP (a : SReg) (s : State) : Host.Outcome State Fault Refusal :=
  unit { scalars := [a] } s (launchPBody (s.me.reg a) s)

/-! ### Placement -/

/-- The core and core-local slot of hart j (R167). -/
def Gang.coreOf (g : Gang) (j : Nat) : Nat := g.cfirst + j / g.harts
def Gang.slotOf (g : Gang) (j : Nat) : Nat := g.firstSlot + j % g.harts

/-- A hart counts as triggered: TRIG, END or squash (R172). -/
def Gang.released (g : Gang) (i : Nat) : Bool :=
  g.triggered.contains i || g.ended.contains i || g.squashed.contains i

/-- The early-start condition (R172). -/
def State.predReady (s : State) (g : Gang) : Bool :=
  match g.predLoc with
  | none => true
  | some l =>
    match s.liveGangs.find? fun x => x.doneLoc == l && x.id != g.id with
    | none => true
    | some x => x.confirmed && (List.range x.count).all x.released

/-- Some hart of the core is resident. -/
def State.coreBusy (s : State) (core : Nat) : Bool := s.harts.any fun h => h.core == core && h.resident

/-- A slot is free: no resident hart, and no squashed one with copies in flight or an allocation not yet freed (R167,
R178). -/
def State.slotFree (s : State) (core slot : Nat) : Bool :=
  !s.harts.any fun h => h.core == core && h.slot == slot
    && (h.resident || (h.status == .squashed && (!h.copies.isEmpty || h.spad != 0)))

/-- The core as a gang's hart finds it: with the gang's group count where nothing is resident (R167). -/
def State.coreFor (s : State) (g : Gang) (core : Nat) : Core :=
  let c := s.coreAt core
  if s.coreBusy core then c else { c with partn := g.partn }

/-- The allocation of a hart that would start provisional is free of packets: one on its way would have to wait there for the
hart's confirmation, and a pass that waits for it could not stop for an interrupt (R176; 14_traps.md R209; log 22). -/
def State.quietFor (s : State) (g : Gang) (j : Nat) : Bool :=
  g.confirmed || !s.packetsInto { Hart.reset (8 * g.coreOf j + g.slotOf j) (g.coreOf j) (g.slotOf j) false with spad := g.spad }

/-- Every condition of R167 holds for hart j, but for the order among waiting harts and the activation limit. -/
def State.canStart (s : State) (g : Gang) (j : Nat) : Bool :=
  let c := s.coreFor g (g.coreOf j)
  g.live && decide (j < g.count) && !g.started.contains j && !g.squashed.contains j
    && s.slotFree c.num (g.slotOf j) && c.partn == g.partn
    && decide (g.slots ≤ c.fewestFree (g.slotOf j)) && s.predReady g && s.quietFor g j

/-- The harts that wait only for their turn: core, slot, gang and index, gangs in the order of registration. -/
def State.waiting (s : State) : List (Nat × Nat × Nat × Nat) :=
  s.gangs.flatMap fun g => ((List.range g.count).filter fun j => s.canStart g j).map fun j =>
    (g.coreOf j, g.slotOf j, g.id, j)

/-- The activation limit: at most 16 cores in any 200 ticks of TIME (R169; 01_device.md R21). -/
def State.activationOk (s : State) : Bool :=
  decide ((s.activations.filter fun t => decide (s.time.toNat < t.toNat + 200)).length < 16)

/-- The waiting hart is the one whose turn it is: the earliest gang at its slot (R167), and, where it activates its core,
the lowest such core, within the limit (R169). -/
def State.mayStart (s : State) (g : Gang) (j : Nat) : Bool :=
  let ws := s.waiting
  s.canStart g j
    && ((ws.find? fun w => w.1 == g.coreOf j && w.2.1 == g.slotOf j).map fun w => w.2.2) == some (g.id, j)
    && (s.coreBusy (g.coreOf j)
      || (s.activationOk && ws.all fun w => s.coreBusy w.1 || decide (g.coreOf j ≤ w.1)))

/-- The hart that a gang starts (R168; 04_registers.md R60). -/
def Gang.hart (g : Gang) (j : Nat) (c : Core) : Hart :=
  let slot := g.slotOf j
  let h := Hart.reset (8 * c.num + slot) c.num slot false
  let sp : Word := 0x0070000000000000 + BitVec.ofNat 64 (65536 * slot + 512)
  let m := slmaxOf g.nv c.lanes
  { h with
    status := .running
    pc := g.entry
    regs := h.regs.set 1 g.args
    wsp := sp
    rsp := sp - 8
    gang := some g.id
    spad := g.spad
    cr := { h.cr with
      sl := m
      slmax := m
      nv := g.nv
      hx := j
      gn := g.count
      slots := g.slots
      confirmed := g.confirmed
      complp := keepBits g.done 55 0
      estatus := esMake false false true false
      tvec := g.tvec
      spillp := sp
      ptbase := g.ptbase } }

/-- Hart j becomes resident (R167 to R170). -/
def State.startHart (s : State) (g : Gang) (j : Nat) : State :=
  let core := g.coreOf j
  let c := s.coreFor g core
  let s1 := s.putHart (g.hart j c)
  let s2 := s1.setCore { (c.takeSlots (g.slotOf j) (8 * core + g.slotOf j) g.slots) with active := true }
  let s3 := s2.updGang g.id fun x => { x with started := j :: x.started }
  if s.coreBusy core then s3
  else { s3 with activations := s.time :: s3.activations.filter fun t => decide (s.time.toNat < t.toNat + 200) }

/-- HART_START (R167, R169). -/
def execHartStart (gang j : Nat) (s : State) : Host.Outcome State Fault Refusal :=
  match s.gang? gang with
  | none => .next s
  | some g => if s.mayStart g j then .next (s.startHart g j) else .next s

/-! ### TRIG, WPRED and BAR -/

/-- The gang of the hart whose turn it is; none on a miller core. -/
def State.myGang (s : State) : Option Gang := if s.me.miller then none else s.me.gang.bind s.gang?

/-- Notes a confirmed hart's TRIG at its gang (R172). -/
def State.noteTrig (s : State) : State :=
  match s.me.gang with
  | none => s
  | some g =>
    if s.me.triggered && s.me.cr.confirmed then
      s.updGang g fun x =>
        if x.triggered.contains s.me.cr.hx then x else { x with triggered := s.me.cr.hx :: x.triggered }
    else s

def execTrig (s : State) : Host.Outcome State Fault Refusal :=
  unit {} s (.ok (if s.me.miller then s
    else ({ s with me := { s.me with triggered := true } } : State).noteTrig))

/-- The wait of WPRED (R174, R328). -/
def wpredBody (s : State) : Res State :=
  match s.myGang with
  | none => .ok s
  | some g =>
    match g.predLoc with
    | none => .ok s
    | some l => do
      s.watchCheck g.pred.toNat 8 .read s.me.pc 0
      if s.heldByOther l 8 then throw (.stall s)
      let (s1, bs) := s.readLoc l 8
      if leNat bs / 2 ^ 63 % 2 = 0 then throw (.wait s1)
      return s1.watchNote .hart .read [(g.pred.toNat, l, 8)]

def execWpred (s : State) : Host.Outcome State Fault Refusal := unit {} s (wpredBody s)

/-- The barriers that hart i has arrived at. -/
def Gang.arrivedAt (g : Gang) (i : Nat) : Nat := ((g.arrivals.find? fun a => a.1 == i).map (·.2)).getD 0

/-- Barrier k is complete (R181). -/
def Gang.barrierDone (g : Gang) (k : Nat) : Bool :=
  (List.range g.count).all fun i => decide (k ≤ g.arrivedAt i) || g.ended.contains i || g.squashed.contains i

/-- The hart arrives at its next barrier, once (R181, R249). -/
def State.arrive (s : State) (g : Gang) : State :=
  if s.me.arrived then s
  else
    let k := s.me.barriers + 1
    ({ s with me := { s.me with barriers := k, arrived := true } } : State).updGang g.id fun x =>
      { x with arrivals := (s.me.cr.hx, k) :: x.arrivals.filter fun a => a.1 != s.me.cr.hx }

/-- The effect of BAR (R181): it stalls while the hart is provisional (R176), and is a demand point (06_forme.md R94); a miller
core ignores it. The arrival counts before the BAR retires, also where its signal's FIFO is full (R171). -/
def barBody (s : State) : Res State := do
  if s.me.miller then return s
  if s.me.provisional then throw (.stall s)
  s.demandPoint
  match s.myGang with
  | none => return s
  | some g =>
    let s1 := s.arrive g
    if ((s1.gang? g.id).map fun x => x.barrierDone s1.me.barriers) == some false || s.me.signalBlocked .s then
      throw (.wait s1)
    return { s1 with me := { s1.me with arrived := false } }

def execBar (s : State) : Host.Outcome State Fault Refusal := unit {} s (barBody s)

/-! ### Completion -/

/-- The completion word after an END (R182). -/
def doneWord (w : Nat) (flags : BitVec 7) (last : Bool) : Nat :=
  let old : Word := BitVec.ofNat 64 w
  let cnt : Word := (old.setWidth 32 + 1).setWidth 64
  ((old &&& 0xFFFFFFFF00000000 ||| cnt) ||| (flags.setWidth 64 <<< 32 ||| if last then 0x8000000000000000 else 0)).toNat

/-- The hart of the turn is counted as having executed END: the gang's count, and the completion word at its registered
location (R182, R334). -/
def State.countEnd (s : State) (g : Gang) : State :=
  let last := g.ends + 1 == g.count
  let s1 := s.updGang g.id fun x =>
    { x with ends := x.ends + 1, ended := s.me.cr.hx :: x.ended, live := x.live && !last }
  let (s2, bs) := s1.readLoc g.doneLoc 8
  (s2.performWrite g.doneLoc (leBytes 8 (doneWord (leNat bs) s.me.cr.vflags last))).watchNote .hart .write
    [((sx56 s.me.cr.complp).toNat, g.doneLoc, 8)]

/-- The effect of END (R182, R261): it waits for the copies, those too whose token waits for room (R171); a miller core ignores
it, its signal included (20_reference_t_z.md R303). For a watchpoint the update of the completion word is a write (log 21). -/
def endBody (s : State) : Res State :=
  if s.me.miller then .error (.held s)
  else do
    if s.me.provisional then throw (.stall s)
    s.demandPoint
    if !s.me.copies.isEmpty || s.me.owes .c then throw (.wait s)
    match s.myGang with
    | none => throw (.stay (s.freeCore.leave .ended))
    | some g =>
      if s.heldByOther g.doneLoc 8 then throw (.stall s)
      s.watchCheck (sx56 s.me.cr.complp).toNat 8 .write s.me.pc 0
      throw (.stay ((s.countEnd g).freeCore.leave .ended))

def execEndI (s : State) : Host.Outcome State Fault Refusal := unit {} s (endBody s)

/-! ### Publication, confirmation and squash -/

/-- The condition on a gang that a publication concerns (R178). -/
def Gang.watches (g : Gang) (loc : Nat) : Bool := g.live && !g.confirmed && g.cellLoc == some loc

/-- A gang takes T' (R178, R179); its harts read it as GN. -/
def State.confirmGang (s : State) (g : Gang) (t : Nat) : State :=
  let n := min t (g.harts * (g.clast + 1 - g.cfirst))
  let s1 := s.updGang g.id fun x =>
    { x with
      confirmed := true
      count := n
      squashed := x.squashed ++ ((List.range x.count).filter fun j => decide (n ≤ j) && !x.started.contains j) }
  let gn (h : Hart) : Hart := if h.gang = some g.id then { h with cr := { h.cr with gn := n } } else h
  let s2 : State := { s1 with me := gn s1.me, others := s1.others.map gn }
  let s3 := s2.recordCount g.die g.entry n
  if n = 0 then s3.finishEmpty g else s3

/-- SHAPE_PUBLICATION: the oldest publication becomes visible to every gang whose watch of the cell it follows (R178,
R277); with none, the completion word that a gang of no hart has waited to write is written (R176). -/
def execShapePublication (s : State) : Host.Outcome State Fault Refusal :=
  match s.pubs with
  | [] => .next ((s.emptyDue.map s.finishEmpty).getD s)
  | p :: r =>
    let s1 : State := { s with pubs := r }
    .next ((s1.gangs.filter fun g => g.watches p.loc && p.gangs.contains g.id).foldl (fun t g => t.confirmGang g p.count) s1)

/-- A provisional hart's change of state is due: its gang is confirmed, and it is at a unit or strip boundary (R178). -/
def State.changeOf (s : State) (h : Hart) : Option Gang :=
  if h.miller then none
  else
    match h.gang.bind s.gang? with
    | none => none
    | some g => if g.confirmed && h.provisional && h.resident && h.brun.isNone then some g else none

/-- The change of state of the hart whose turn it is. -/
def State.changeDue (s : State) : Option Gang := s.changeOf s.me

/-- The events that come before every other turn: a publication that is visible is recognised, and each provisional hart of a
confirmed gang changes state at its next boundary (R178, R243, R244). -/
def State.urgent (s : State) : Option Turn :=
  if !s.pubs.isEmpty || s.emptyDue.isSome then some (.event s.me.num .shapePublication)
  else s.harts.findSome? fun h => (s.changeOf h).map fun g =>
    .event h.num (if h.cr.hx < g.count then .hartConfirm else .hartSquash)

/-- The buffered stores perform in program order, each with its watch records (R178, R201); one into another hart's closed
allocation stalls with those after it (R176). -/
def State.drain : List ProvStore → State → State
  | [], s => { s with me := { s.me with prov := [] } }
  | p :: r, s =>
    if s.heldByOther p.loc p.bytes.length then { s with me := { s.me with prov := p :: r } }
    else
      let s1 := s.performWrite p.loc p.bytes
      drain r { s1 with watchFlight := s1.watchFlight
        ++ p.notes.flatMap fun (bond, ps) =>
          if bond then s1.watchRecords .bond .write ps else s1.watchRecords .hart .write ps }

/-- HART_CONFIRM: the hart is confirmed and its buffered stores drain; those that stalled drain later, before the hart goes
on (R178). -/
def execHartConfirm (s : State) : Host.Outcome State Fault Refusal :=
  match s.changeDue with
  | none => if s.me.draining then .next (State.drain s.me.prov s) else .next s
  | some g =>
    if g.count ≤ s.me.cr.hx then .next s
    else .next (State.drain s.me.prov (s.setCr fun r => { r with confirmed := true })).noteTrig

/-- HART_SQUASH: a copy that targets the allocation completes before the allocation is zeroed and freed (R178). -/
def execHartSquash (s : State) : Host.Outcome State Fault Refusal :=
  match s.changeDue with
  | none => .next s
  | some g =>
    if s.me.cr.hx < g.count then .next s
    else
      let cs := s.me.copies
      let s1 := (s.freeCore.updGang g.id fun x => { x with squashed := s.me.cr.hx :: x.squashed }).leave .squashed
      .next ({ s1 with me := { s1.me with copies := cs } } : State).zeroSquashed

/-! ### SHAPE -/

/-- The effect of SHAPE (R178, R296). -/
def shapeBody (a t : Word) (s : State) : Res State := do
  if s.me.provisional then throw (.stall s)
  if a.toNat % 16 ≠ 0 then throw (.trap s .misalign a)
  if 2 ^ 32 ≤ t.toNat then throw (.trap s .illegal 0)
  s.demandPoint
  s.writeMem a 8 (2 ^ 63 + t.toNat)

def execShape (a b : SReg) (s : State) : Host.Outcome State Fault Refusal :=
  unit { scalars := [a, b] } s (shapeBody (s.me.reg a) (s.me.reg b) s)

end Sys2Proof.Machine
end

