-- ==== Sys2Proof/Machine/Context.lean ====
section
/-! DEFINITION. Saving, loading and vacating a context by CWR CTXBASE (14_traps.md R211 to R214). -/

namespace Sys2Proof.Machine

/-! ### The image of a context -/

/-- Bytes of an image that the manual gives no format: those of a handle, from an offset on (R212; log 12). -/
def opaqueBytes (handle off n : Nat) : List Byte := (List.range n).map fun i => Config.imageByte handle (off + i)

/-- The doubleword that the device writes as the gang binding of an image: a free value that tells the images apart (R212;
log 12). -/
def handleBytes (handle : Nat) : List Byte := leBytes 8 (BitVec.ofNat 64 handle ^^^ Config.imageMask).toNat

/-- Doublewords as bytes. -/
def dwords (ws : List Nat) : List Byte := ws.flatMap (leBytes 8)

/-- A suspended pass is held (R213). -/
def Hart.suspendedPass (h : Hart) : Bool := h.vec.pass.isSome

/-- Doubleword 0 of the header of a saved image (R213). -/
def headerWord (h : Hart) (c : Core) : Nat :=
  2 ^ 63 + h.suspendedPass.toNat * 2 ^ 62 + h.vec.matrix.toNat * 2 ^ 61 + h.vec.tileCount % 16 * 2 ^ 56
    + c.lmod % 256 * 2 ^ 48 + c.partn % 16 * 2 ^ 44 + h.cr.nv % 128 * 2 ^ 37 + Config.partId % 2 ^ 20 * 2 ^ 12

/-- The index of a token FIFO in doublewords 34 and 35: X filled, Y drained (R212). -/
def fifoIndex (x y : Nat) : Nat := if y < x then 4 * x + y else 4 * x + y - 1

/-- The ordered pairs of distinct queues. -/
def queuePairs : List (Nat × Nat) :=
  (List.range 5).flatMap fun x => ((List.range 5).filter fun y => y != x).map fun y => (x, y)

/-- Doublewords 34 and 35: the token counts (R212). The rule gives a FIFO of index i the bits 5i + 4 : 5i, which doubleword 35 does not
have for an i of 12 or more: that they are 5(i - 12) + 4 : 5(i - 12) there is the model's reading (log 12). -/
def Hart.tokenWord (h : Hart) (j : Nat) : Nat :=
  (queuePairs.map fun (x, y) =>
    let i := fifoIndex x y
    if i / 12 = j then h.tokens.get (fifo x y) % 32 * 2 ^ (5 * (i - 12 * j)) else 0).sum

/-- Fields of a width packed from bit 0. -/
def packFields (w : Nat) : List Nat → Nat
  | [] => 0
  | x :: r => x % 2 ^ w + 2 ^ w * packFields w r

/-- The n-th doubleword of a packed value. -/
def dwordOf (v n : Nat) : Nat := v / 2 ^ (64 * n) % 2 ^ 64

/-- Doubleword 37 (R212). -/
def Hart.barrierWord (h : Hart) : Nat :=
  h.vec.savedVl % 2 ^ 40 + h.arrived.toNat * 2 ^ 40 + h.barriers % 2 ^ 23 * 2 ^ 41

/-- Doublewords 0 to 35 of the control block (R212). -/
def controlLow (h : Hart) (c : Core) : List Nat :=
  let r := h.cr
  [r.epc.toNat, r.ecause.toNat, r.eva.toNat, r.estatus.toNat, r.tvec.toNat, r.spillp.toNat, r.ptbase.toNat,
    r.timecmp.toNat, r.vl, r.sl, r.nv, c.partn, r.frm.toNat, r.lam.toNat, r.vflags.toNat, r.lc.toNat, r.lstart.toNat,
    r.lend.toNat, r.passp.toNat, r.fblame.toNat, r.felem.toNat, r.fdemand.toNat, r.hx, r.gn, r.complp.toNat,
    r.mshape.toNat, r.bndbuf.toNat, r.bndsize.toNat, r.bstat.toNat, h.wbase, h.wlo, h.wsp.toNat, h.rsp.toNat,
    h.rets.length, h.tokenWord 0, h.tokenWord 1]

/-- Doublewords 37 to 63 (R212). -/
def controlHigh (h : Hart) : List Nat :=
  let bd := packFields 8 (h.vec.bd.toList.map BitVec.toNat)
  let mm := packFields 16 (h.vec.mm.toList.map BitVec.toNat)
  let mn := packFields 16 (h.vec.mn.toList.map BitVec.toNat)
  [h.barrierWord] ++ (List.range 2).map (dwordOf bd) ++ (List.range 4).map (dwordOf mm)
    ++ (List.range 4).map (dwordOf mn) ++ (List.range 16).map (dwordOf h.cr.ecmw.toNat)

/-- A return entry in the spilled format (09_control.md R137). -/
def retWord (e : Word × Frame) : Nat := (keepBits e.1 55 2).toNat + e.2.code

/-- The index of a node in the node table; 0xFF for none. -/
def nodeIndex (ns : List Node) (n : Nat) : Nat := (ns.findIdx? fun x => x.id == n).getD 0xFF

/-- An entry of the register map (R212). -/
def mapEntry (ns : List Node) (tag : Nat) (r : RegState) : Nat :=
  match r with
  | .empty => 0xFF + tag * 2 ^ 8
  | .node n => nodeIndex ns n + tag * 2 ^ 8 + 2 ^ 11
  | .stale n _ => nodeIndex ns n + tag * 2 ^ 8 + 2 * 2 ^ 11
  | .material _ => 0xFF + tag * 2 ^ 8 + 3 * 2 ^ 11

/-- The states of v0 to v63, then k0 to k15, with their tags' codes. -/
def VecState.regStates (v : VecState) : List (Nat × RegState) :=
  (v.v.toList.map fun r => (r.tag.code, r.state)) ++ v.k.toList.map fun r => (0, r)

/-- The bytes of a MATERIAL register, or opaque ones. -/
def materialBytes (handle off : Nat) (r : RegState) : List Byte :=
  match r with
  | .material d => leBytes 256 d.toNat
  | _ => opaqueBytes handle off 256

/-- The write PC of a STALE register, or opaque bytes. -/
def writePcBytes (handle off : Nat) (r : RegState) : List Byte :=
  match r with
  | .stale _ w => leBytes 8 w.toNat
  | _ => opaqueBytes handle off 8

/-- Joins the pieces that an index gives. -/
def indexed {α : Type} (f : Nat → α → List Byte) (xs : List α) : List Byte := (xs.mapIdx f).flatten

/-- The sections of an image with their offsets, as far as the header marks them present (R212). -/
def imageSections (h : Hart) (c : Core) (handle : Nat) : List (Nat × List Byte) :=
  let v := h.vec
  let regs := v.regStates
  [(0, dwords [headerWord h c, 0, 0, 0, 0, 0, 0, 0]),
    (0x40, dwords (controlLow h c) ++ handleBytes handle ++ dwords (controlHigh h)),
    (0x240, leBytes 8 0 ++ dwords (((h.regs.toList.drop 1).take 7).map BitVec.toNat)),
    (0x280, dwords ((h.regs.toList.drop 8).map BitVec.toNat)),
    (0x680, dwords (h.rets.reverse.map retWord) ++ opaqueBytes handle (0x680 + 8 * h.rets.length) (256 - 8 * h.rets.length)),
    (0x780, v.q.toList.flatMap fun d => leBytes 32 d.toNat),
    (0x980, opaqueBytes handle 0x980 4096),
    (0x1980, opaqueBytes handle 0x1980 512),
    (0x1B80, (regs.flatMap fun x => leBytes 2 (mapEntry v.forme x.1 x.2)) ++ opaqueBytes handle 0x1C20 96),
    (0x1C80, indexed (fun i x => writePcBytes handle (0x1C80 + 8 * i) x.2) regs)]
    ++ (if v.matrix then [(0x1F00, indexed (fun i r => materialBytes handle (0x1F00 + 256 * i) r) v.k.toList)] else [])
    ++ (if h.suspendedPass then [(0x2F00, opaqueBytes handle 0x2F00 32768)] else [])
    ++ (if v.matrix then
        [(0xAF00, indexed (fun i r => materialBytes handle (0xAF00 + 256 * i) r.state) v.v.toList)] else [])
    ++ (if v.tileCount = 0 then []
      else [(0xEF00, (List.range 32768).flatMap fun i =>
        if i < 4096 * v.tileCount then leBytes 4 (((v.tiles.find? fun (t : Nat × BitVec 32) => t.1 == i).map fun (t : Nat × BitVec 32) => t.2).getD 0).toNat
        else opaqueBytes handle (0xEF00 + 4 * i) 4)])

/-- What the opaque sections stand for. -/
def Hart.sections (h : Hart) (handle : Nat) : SavedSections where
  handle := handle
  gang := h.gang
  forme := h.vec.forme
  galley := h.vec.galley
  pass := h.vec.pass
  pend := h.pend
  owed := h.owed

/-! ### Saving -/

/-- An access of the CWR: where it does not complete, nothing has changed (R211), but for the MACHINE records of errors that it
has met (R207). -/
def undone {α : Type} (s0 : State) (r : Res α) : Res α :=
  match r with
  | .error (.trap s c eva) => .error (.trap { s0 with me := s0.me.told s.me } c eva)
  | .error (.wait s) => .error (.wait { s0 with me := s0.me.kept s.me })
  | .error (.stall s) => .error (.stall { s0 with me := s0.me.kept s.me })
  | .error (.demand s) => .error (.demand { s0 with me := s0.me.kept s.me })
  | .error (.demandLate s) => .error (.demandLate { s0 with me := s0.me.kept s.me })
  | r => r

/-- Writes the sections of an image at an address. -/
def writeSections (s0 : State) (va : Word) : List (Nat × List Byte) → State → Res State
  | [], s => .ok s
  | (off, bs) :: r, s =>
    match undone s0 (s.writeSpan (va + BitVec.ofNat 64 off) bs) with
    | .error a => .error a
    | .ok s1 => writeSections s0 va r s1

/-- The hart as an image holds it: the token of the unit itself is taken (12_launch.md R171). -/
def Hart.asSaved (h : Hart) : Hart := (h.takeToken .s).returnEarly

/-- Writes the image of the current context at an address and keeps what its opaque sections stand for (R211, R212). -/
def State.saveContext (s : State) (base : Word) : Res State :=
  let h := s.nextImage
  let s1 : State := { s with nextImage := h + 1, saved := s.me.sections h :: s.saved }
  writeSections s (sx56 base) (imageSections s.me.asSaved s.myCore h) s1

/-! ### Loading -/

/-- An image as read: a section's bytes from its offset. -/
structure Image where
  header : List Byte
  low : List Byte
  masks : List Byte
  materials : List Byte
  tiles : List Byte

/-- The n bytes at an offset of the part from the header's end to offset 0x1F00. -/
def Image.at (m : Image) (off n : Nat) : Nat := leNat ((m.low.drop (off - 0x40)).take n)

/-- A doubleword of the control block. -/
def Image.dw (m : Image) (i : Nat) : Nat := m.at (0x40 + 8 * i) 8

/-- The window base or the lowest resident base: where one of them is below 0, both count from 2^64 lower (09_control.md R136,
R138). -/
def Image.signedDw (m : Image) (i : Nat) : Nat :=
  if m.dw 29 < 2 ^ 63 ∧ m.dw 30 < 2 ^ 63 then m.dw i
  else if m.dw i < 2 ^ 63 then m.dw i + 2 ^ 64 else m.dw i

/-- A control-block doubleword as a register. -/
def Image.word (m : Image) (i : Nat) : Word := BitVec.ofNat 64 (m.dw i)

/-- The header's fields (R213). -/
def Image.h0 (m : Image) : Nat := leNat (m.header.take 8)
def imgValid (h : Nat) : Bool := h / 2 ^ 63 % 2 == 1
def imgPsusp (h : Nat) : Bool := h / 2 ^ 62 % 2 == 1
def imgMatrix (h : Nat) : Bool := h / 2 ^ 61 % 2 == 1
def imgTiles (h : Nat) : Nat := fld h 56 4

/-- A reserved header field is nonzero, or TILES > 8 (R214). -/
def headerBad (bs : List Byte) : Bool :=
  let h := leNat (bs.take 8)
  fld h 60 1 != 0 || fld h 32 5 != 0 || fld h 0 12 != 0 || decide (8 < imgTiles h)
    || leNat ((bs.drop 8).take 8) / 2 ^ 16 != 0 || (bs.drop 16).any fun b => b != 0

/-- The STATUS of a refused load (R214); none where the load proceeds. Where several of its cases hold, that 2 goes before 1 and 1
before 3 is the model's choice (log 12). -/
def refusal (c : Core) (bs : List Byte) : Option Nat :=
  let h := leNat (bs.take 8)
  if fld h 12 20 ≠ Config.partId % 2 ^ 20 then some 2
  else if imgPsusp h && (fld h 48 8 != c.lmod || fld h 44 4 != c.partn) then some 1
  else if headerBad bs then some 3
  else none

/-- The saved sections whose opaque bytes an image holds; an image that holds none is malformed (log 12). -/
def State.findSections (s : State) (low : List Byte) : Option SavedSections :=
  s.saved.find? fun x =>
    (low.drop (0x160 - 0x40)).take 8 == handleBytes x.handle
      && (low.drop (0x980 - 0x40)).take 4608 == opaqueBytes x.handle 0x980 4608

/-- A register's state from its map entry, with its write PC and its MATERIAL contents (R212). -/
def loadReg (ns : List Node) (e : Nat) (pc : Word) (data : Nat) : RegState :=
  let n := (ns[fld e 0 8]?.map (·.id)).getD 0
  match fld e 11 2 with
  | 0 => .empty
  | 1 => .node n
  | 2 => .stale n pc
  | _ => .material (BitVec.ofNat 2048 data)

/-- The map entry and the write PC of register i. -/
def Image.entry (m : Image) (i : Nat) : Nat := m.at (0x1B80 + 2 * i) 2
def Image.writePc (m : Image) (i : Nat) : Word := BitVec.ofNat 64 (m.at (0x1C80 + 8 * i) 8)

/-- The return-address store, newest first. -/
def Image.rets (m : Image) : List (Word × Frame) :=
  ((List.range (min 32 (m.dw 33))).map fun i =>
    let w := m.at (0x680 + 8 * i) 8
    (sx56 (keepBits (BitVec.ofNat 64 w) 55 2), (Frame.ofCode (w % 4)).getD .regs8)).reverse

/-- The count of a token FIFO. A count above 16, which R171 does not know and R214 does not refuse, is loaded as it stands: the
model's choice (log 12). -/
def Image.tokens (m : Image) (x y : Nat) : Nat :=
  let i := fifoIndex x y
  if i < 12 then fld (m.dw 34) (5 * i) 5 else fld (m.dw 35) (5 * (i - 12)) 5

/-- The same by the FIFO's place; a queue has none to itself. -/
def Image.fifoCount (m : Image) (i : Fin 25) : Nat := if i.val / 5 = i.val % 5 then 0 else m.tokens (i.val / 5) (i.val % 5)

/-- The F32s of the tiles held, as nonzero positions. -/
def Image.tileList (m : Image) (n : Nat) : List (Nat × BitVec 32) :=
  (List.range (4096 * n)).filterMap fun i =>
    let x := BitVec.ofNat 32 (leNat ((m.tiles.drop (4 * i)).take 4))
    if x = 0 then none else some (i, x)

/-- The vector state of an image. -/
def Image.vec (m : Image) (x : SavedSections) (n : Nat) : VecState where
  v := Vector.ofFn fun i : Fin 64 =>
    { tag := (Tag.ofCode (fld (m.entry i.val) 8 3)).getD .f32
      state := loadReg x.forme (m.entry i.val) (m.writePc i.val) (leNat ((m.materials.drop (256 * i.val)).take 256)) }
  k := Vector.ofFn fun i : Fin 16 =>
    loadReg x.forme (m.entry (64 + i.val)) (m.writePc (64 + i.val)) (leNat ((m.masks.drop (256 * i.val)).take 256))
  q := Vector.ofFn fun i : Fin 16 => BitVec.ofNat 256 (m.at (0x780 + 32 * i.val) 32)
  forme := x.forme
  galley := x.galley
  pass := x.pass
  matrix := imgMatrix m.h0
  savedVl := m.dw 37 % 2 ^ 40
  tileCount := n
  tiles := m.tileList n
  bd := Vector.ofFn fun i : Fin 16 => BitVec.ofNat 8 (m.at (0x40 + 8 * 38 + i.val) 1)
  mm := Vector.ofFn fun i : Fin 16 => BitVec.ofNat 12 (m.at (0x40 + 8 * 40 + 2 * i.val) 2)
  mn := Vector.ofFn fun i : Fin 16 => BitVec.ofNat 12 (m.at (0x40 + 8 * 44 + 2 * i.val) 2)

/-- SL after a load: as saved, or adjusted under another LMOD or PARTN (R214). -/
def loadSl (sl slmax w : Nat) (same : Bool) : Nat :=
  if same then sl else if w = 0 then 0 else if min sl slmax / w = 0 then w else w * (min sl slmax / w)

/-- The control registers of an image; TLBINVA, CTXBASE, SLOTS and the pair table are the hart's (R211, R212, R214). -/
def Image.cr (m : Image) (h : Hart) (c : Core) : CtrlRegs :=
  let nv := m.dw 10 % 128
  let slmax := slmaxOf nv c.lanes
  let same := fld m.h0 48 8 == c.lmod && fld m.h0 44 4 == c.partn
  { h.cr with
    epc := keepBits (m.word 0) 55 2
    ecause := keepBits (m.word 1) 4 0
    eva := m.word 2
    estatus := keepBits (m.word 3) 3 0
    tvec := keepBits (m.word 4) 55 2
    spillp := keepBits (m.word 5) 55 6
    ptbase := keepBits (m.word 6) 51 12
    timecmp := m.word 7
    vl := m.dw 8 % 2 ^ 40
    sl := loadSl (m.dw 9 % 2 ^ 11) slmax c.lanes same
    slmax := slmax
    nv := nv
    frm := BitVec.ofNat 2 (m.dw 12)
    lam := m.dw 13 % 2 == 1
    vflags := BitVec.ofNat 7 (m.dw 14)
    lc := m.word 15
    lstart := keepBits (m.word 16) 55 2
    lend := keepBits (m.word 17) 55 2 ||| keepBits (m.word 17) 0 0
    passp := keepBits (m.word 18) 40 0
    fblame := keepBits (m.word 19) 55 2
    felem := keepBits (m.word 20) 39 0
    fdemand := keepBits (m.word 21) 55 2 ||| keepBits (m.word 21) 0 0
    hx := m.dw 22 % 2 ^ 32
    gn := m.dw 23 % 2 ^ 32
    complp := keepBits (m.word 24) 55 0
    mshape := keepBits (m.word 25) 17 8 ||| keepBits (m.word 25) 4 0
    bndbuf := keepBits (m.word 26) 55 6
    bndsize := keepBits (m.word 27) 18 0
    bstat := keepBits (m.word 28) 16 0
    confirmed := true
    ecmw := BitVec.ofNat 1024 (m.at (0x40 + 8 * 48) 128) }

/-- The barriers of a loaded context: the gang's own count where it agrees with the image (R212). -/
def State.loadBarriers (s : State) (g : Option Nat) (hx f : Nat) : Nat :=
  match g.bind s.gang? with
  | none => f
  | some x => if x.arrivedAt hx % 2 ^ 23 = f then x.arrivedAt hx else f

/-- The hart with the context of an image (R211, R212). The unit goes on by the loop registers that it replaces (R69), and its
token came from the FIFOs that it replaces. -/
def State.loaded (s : State) (m : Image) (x : SavedSections) (v : Word) : Hart :=
  let h := s.me
  { h with
    pc := (({ h with pc := h.pc + 4 } : Hart).loopTest h.unitWords).pc
    tok := h.tok.map fun w => w &&& ~~~(0x2000000 : BitVec 32)
    early := Vector.replicate 25 0
    givers := Vector.ofFn fun i : Fin 25 => List.replicate (m.fifoCount i) none
    writers := Vector.replicate 136 none
    matWriters := Vector.replicate 88 none
    holders := []
    regs := Vector.ofFn fun i : Fin 136 => BitVec.ofNat 64 (m.at (0x240 + 8 * i.val) 8)
    pend := x.pend
    owed := x.owed
    wbase := m.signedDw 29
    wlo := m.signedDw 30
    wsp := m.word 31
    rsp := m.word 32
    rets := m.rets
    tokens := Vector.ofFn m.fifoCount
    cr := { m.cr h s.myCore with ctxbase := v }
    vec := m.vec x (imgTiles m.h0)
    gang := x.gang
    arrived := m.dw 37 / 2 ^ 40 % 2 == 1
    barriers := s.loadBarriers x.gang (m.dw 22 % 2 ^ 32) (m.dw 37 / 2 ^ 41)
    triggered := false }

/-- Reads the sections of an image that its header marks present (R212). -/
def State.readImage (s0 s : State) (v : Word) (header : List Byte) : Res (State × Image) := do
  let at' (off : Nat) : Word := sx56 v + BitVec.ofNat 64 off
  let h := leNat (header.take 8)
  let part (present : Bool) (off n : Nat) (s : State) : Res (State × List Byte) :=
    if present then undone s0 (s.readSpan (at' off) n) else .ok (s, [])
  let (s1, low) ← part true 0x40 (0x1F00 - 0x40) s
  let (s2, masks) ← part (imgMatrix h) 0x1F00 4096 s1
  let (s3, _) ← part (imgPsusp h) 0x2F00 32768 s2
  let (s4, mats) ← part (imgMatrix h) 0xAF00 16384 s3
  let (s5, tiles) ← part (decide (0 < imgTiles h)) 0xEF00 131072 s4
  return (s5, { header := header, low := low, masks := masks, materials := mats, tiles := tiles })

/-- Waits for the tiles that a load needs beyond those that the hart holds (R214). -/
def State.loadTiles (s : State) (n : Nat) : Res State :=
  let need := n - s.me.vec.tileCount
  if need = 0 then .ok s
  else
    match s.myCore.tileQueue.find? fun r => r.hart == s.me.num with
    | none => .error (.wait (s.setCore { s.myCore with
        tileQueue := s.myCore.tileQueue ++ [{ hart := s.me.num, count := need, granted := false }] }))
    | some r =>
      if r.granted && r.count == need then
        .ok (s.setCore { s.myCore with tileQueue := s.myCore.tileQueue.erase r })
      else if r.count = need then .error (.wait s)
      else .error (.wait (s.setCore { s.myCore with tileQueue := s.myCore.tileQueue.erase r }))

/-- A refused load: STATUS at the image, and the current context stays (R211, R214). -/
def State.refuseLoad (s0 s : State) (v : Word) (status : Nat) (old : Word) : Res State :=
  match undone s0 (s.writeSpan (sx56 v + 8) (leBytes 2 status)) with
  | .error a => .error a
  | .ok s1 => .ok (s1.setCr fun r => { r with ctxbase := old })

/-- The gang of the current context counts it as having executed END (R211). -/
def State.countReplaced (s : State) : State :=
  match s.myGang with
  | none => s
  | some g => s.countEnd g

/-- The completion word of the hart's gang lies in a closed allocation (12_launch.md R176). -/
def State.doneHeld (s : State) : Bool := (s.myGang.map fun g => s.heldByOther g.doneLoc 8) == some true

/-- The load of a valid image (R211). -/
def State.loadContext (s0 s : State) (v old : Word) (header : List Byte) : Res State := do
  let (s1, m) ← s.readImage s0 v header
  match s1.findSections m.low with
  | none => s.refuseLoad s0 v 3 old
  | some x =>
    if old = 0 && (s0.me.provisional || s0.doneHeld) then throw (.stall s0)
    let s2 ← s1.loadTiles (imgTiles m.h0)
    let s3 ← undone s0 (s2.writeSpan (sx56 v + 7) (leBytes 1 (m.h0 / 2 ^ 56 % 128)))
    let s4 := if old = 0 then s3.countReplaced else s3
    let h := s4.loaded m x v
    if h.signalBlocked .s then throw (.wait s0)
    throw (.goto { s4 with me := h })

/-- Vacates: the hart leaves its core, its gang stays live (R211). -/
def State.vacate (s : State) : State :=
  let s1 := s.setCr fun r => { r with ctxbase := 0 }
  s1.freeCore.leave .vacated

/-- What follows the save: set, vacate or load (R211). -/
def State.switchContext (s0 s : State) (v old : Word) : Res State := do
  if v = 0 then throw (.stay s.vacate)
  let (s1, header) ← undone s0 (s.readSpan (sx56 v) 64)
  if !imgValid (leNat (header.take 8)) then return s1.setCr fun r => { r with ctxbase := v }
  match refusal s1.myCore header with
  | some st => s1.refuseLoad s0 v st old
  | none => s1.loadContext s0 v old header

/-- The effect of CWR CTXBASE (R211): it waits for the copies of the hart and those into its allocation (12_launch.md
R186). -/
def ctxBody (v : Word) (s : State) : Res State := do
  let old := s.me.cr.ctxbase
  if v = old then return s
  else
    if !s.me.copies.isEmpty || s.copiesInto s.me then throw (.wait s)
    if old = 0 then s.switchContext s v old
    else
      if s.me.provisional then throw (.stall s)
      let s1 ← s.saveContext old
      s1.switchContext s v old

def execCwrCtxbase (sc : SReg) (s : State) : Host.Outcome State Fault Refusal :=
  unit { supervisor := true, scalars := [sc] } s (ctxBody (keepBits (s.me.reg sc) 55 8) s)

end Sys2Proof.Machine
end

