-- ==== Sys2Proof/Machine/Control.lean ====
section
/-! DEFINITION. Branches, jumps, calls, the register window and the hardware loop: majors 10 to 14 (09_control.md R134
to R141; 18_reference_a_f.md R253, R255; 19_reference_j_s.md R268, R269, R281, R282, R294). -/

namespace Sys2Proof.Machine

/-- The condition of BR (R253). -/
def brHolds (c : BrCond) (x y : Word) : Bool :=
  match c with
  | .eq => x == y
  | .ne => x != y
  | .lt => decide (x.toInt < y.toInt)
  | .ge => decide (y.toInt ≤ x.toInt)
  | .ltu => decide (x.toNat < y.toNat)
  | .geu => decide (y.toNat ≤ x.toNat)
  | .always => true

/-- A transfer to a target, checked by R32. -/
def State.transfer (s : State) (t : Int) : Res State := do
  let w ← s.checkTarget t
  throw (.jump s w)

/-- A transfer to a register's value (R32). -/
def State.transferReg (s : State) (t : Word) : Res State := do
  let w ← s.checkReg t
  throw (.jump s w)

def execBr (c : BrCond) (a b : SReg) (o : BitVec 13) (s : State) : Host.Outcome State Fault Refusal :=
  unit { ext := true, scalars := [a, b] } s
    (if brHolds c (s.me.reg a) (s.me.reg b) then s.transfer (s.me.target o) else .ok s)

def execJmp (o : BitVec 26) (s : State) : Host.Outcome State Fault Refusal :=
  unit { ext := true } s (s.transfer (s.me.target o))

def execJmpr (t : SReg) (s : State) : Host.Outcome State Fault Refusal :=
  unit { scalars := [t] } s (s.transferReg (s.me.reg t))

/-! ### The window -/

/-- The physical scalar of a logical window register (R136). -/
def windowReg (l : Nat) : Fin 136 := ⟨8 + l % 128, by omega⟩

/-- The n bytes at an address lie in the hart's scratchpad allocation (12_launch.md R167). -/
def Hart.inAllocation (h : Hart) (va : Word) (n : Nat) : Bool :=
  let base := 0x0070000000000000 + 65536 * h.slot
  decide (base ≤ va.toNat) && decide (va.toNat + n ≤ base + h.spad)

/-- The state with the unit's own changes of its hart undone, but for what a watchpoint has recorded (R139; 15_debug.md
R228). -/
def State.undone (s0 s : State) : State :=
  { s with me := { s0.me.told s.me with cr := { s0.me.cr with fblame := s.me.cr.fblame, felem := s.me.cr.felem } } }

/-- A fault of a spill or fill access is SPILLFAULT at the address, with no register changed; a watched access raises WATCH,
which is no fault of the access (R139; log 33). A pass that it demands keeps the leaves that the write meets (08_faults.md
R121). -/
def spillAct (s0 : State) (a : Act) : Act :=
  match a with
  | .trap s c eva => if c = .watch then .trap (s0.undone s) .watch eva else .trap { s with me := s0.me.told s.me } .spillfault eva
  | .demand s => .demand { s with me := s0.me.kept s.me }
  | .wait s => .wait { s with me := s0.me.kept s.me }
  | .stall s => .stall { s with me := s0.me.kept s.me }
  | a => a

/-- A spill write of the hart (R139). -/
def State.spillWrite (s0 s : State) (va : Word) (n v : Nat) : Res State :=
  if !s.me.inAllocation va n then .error (.trap { s with me := s0.me.told s.me } .spillfault va)
  else
    match s.writeMem va n v with
    | .ok s' => .ok s'
    | .error a => .error (spillAct s0 a)

/-- A fill read of the hart (R139). -/
def State.fillRead (s0 s : State) (va : Word) (n : Nat) : Res (State × Nat) :=
  if !s.me.inAllocation va n then .error (.trap { s with me := s0.me.told s.me } .spillfault va)
  else
    match s.readMem va n with
    | .ok r => .ok r
    | .error a => .error (spillAct s0 a)

/-- The 64 bytes of eight logical registers. -/
def Hart.windowBytes (h : Hart) (l : Nat) : Nat :=
  (List.range 8).foldl (fun acc i => acc + (h.regs.get (windowReg (l + i))).toNat * 2 ^ (64 * i)) 0

/-- Eight logical registers from 64 bytes. -/
def Hart.setWindow (h : Hart) (l v : Nat) : Hart :=
  (List.range 8).foldl
    (fun h i => { h with regs := h.regs.set (windowReg (l + i)) (BitVec.ofNat 64 (v / 2 ^ (64 * i))) }) h

/-- One of eight logical registers is pending. -/
def Hart.windowPending (h : Hart) (l : Nat) : Bool :=
  (List.range 8).any fun i => h.pend.get (windowReg (l + i))

/-- The window's overflow spills of a call that leaves base and frame at top (R137, R139; 08_faults.md R128). -/
def State.spillWindow (s0 : State) (top : Nat) : Nat → State → Res State
  | 0, s => .ok s
  | n + 1, s =>
    if top ≤ s.me.wlo + 128 then .ok s
    else if s.me.windowPending s.me.wlo then
      (if s.handlerBypass then .error (.trap s0 .mode 0) else .error (.demand s0))
    else
      match s.spillWrite s0 s.me.wsp 64 (s.me.windowBytes s.me.wlo) with
      | .error a => .error a
      | .ok s' => spillWindow s0 top n
          { s' with me := { s'.me with wsp := s'.me.wsp + 64, wlo := s'.me.wlo + 8 } }

/-- The spill of the oldest return entry when the store is full (R137). -/
def State.spillReturn (s : State) : Res State :=
  if s.me.rets.length < 32 then .ok s
  else
    match s.me.rets.getLast? with
    | none => .ok s
    | some (a, f) =>
      match s.spillWrite s s.me.rsp 8 ((keepBits a 55 2).toNat + f.code) with
      | .error e => .error e
      | .ok s' => .ok { s' with me := { s'.me with rsp := s'.me.rsp - 8, rets := s'.me.rets.dropLast } }

/-- The effect of a call on the window and the store (R137). -/
def State.enterCall (s : State) (f : Frame) (t : Word) : Res State := do
  let s1 ← s.spillReturn
  let top := s1.me.wbase + frameRegs f + 24
  let s2 ← State.spillWindow s top (top / 8 + 1) s1
  throw (.jump { s2 with me := { s2.me with
    rets := (s.me.pc + 4, f) :: s2.me.rets
    wbase := s2.me.wbase + frameRegs f } } t)

def execCall (f : Frame) (o : BitVec 24) (s : State) : Host.Outcome State Fault Refusal :=
  unit { ext := true } s (do
    let t ← s.checkTarget (s.me.target o)
    s.enterCall f t)

def execCallr (t : SReg) (f : Frame) (s : State) : Host.Outcome State Fault Refusal :=
  unit { scalars := [t] } s (do
    let w ← s.checkReg (s.me.reg t)
    s.enterCall f w)

/-- The window's fills of a return (R138). A register that is filled while still pending runs its pass first (log 16). -/
def State.fillWindow (s0 : State) : Nat → State → Res State
  | 0, s => .ok s
  | n + 1, s =>
    if s.me.wlo ≤ s.me.wbase then .ok s
    else if s.me.windowPending (s.me.wlo - 8) && !s.handlerBypass then .error (.demand s0)
    else
      match s.fillRead s0 (s.me.wsp - 64) 64 with
      | .error a => .error a
      | .ok (s', v) => fillWindow s0 n
          { s' with me := { (s'.me.setWindow (s'.me.wlo - 8) v) with
              wsp := s'.me.wsp - 64, wlo := s'.me.wlo - 8 } }

/-- The newest return entry: from the store, or read back from the spill area (R138, R294). -/
def State.popReturn (s : State) : Res (State × Word × Frame) :=
  match s.me.rets with
  | (a, f) :: r => .ok ({ s with me := { s.me with rets := r } }, a, f)
  | [] =>
    if s.me.rsp = sx56 s.me.cr.spillp - 8 then .error (.trap s .retempty 0)
    else
      match s.fillRead s (s.me.rsp + 8) 8 with
      | .error e => .error e
      | .ok (s', v) =>
        match Frame.ofCode (v % 4) with
        | none => .error (.trap { s' with me := s.me.told s'.me } .spillfault (s.me.rsp + 8))
        | some f => .ok ({ s' with me := { s'.me with rsp := s'.me.rsp + 8 } },
            sx56 (keepBits (BitVec.ofNat 64 v) 55 2), f)

/-- The window base moves down by a frame. Base and lowest resident base count without limit, below 0 too: where the base would
fall below 0, both count from 2^64 lower, which changes neither their difference nor a register that they map (R136, R138). -/
def Hart.slideDown (h : Hart) (f : Frame) : Hart :=
  let k := if h.wbase < frameRegs f then 2 ^ 64 else 0
  { h with wbase := h.wbase + k - frameRegs f, wlo := h.wlo + k }

/-- The effect of RET (R138). -/
def retBody (s : State) : Res State := do
  let (s1, t, f) ← s.popReturn
  let s2 : State := { s1 with me := s1.me.slideDown f }
  let s3 ← State.fillWindow s ((s2.me.wlo - s2.me.wbase) / 8 + 1) s2
  throw (.jump s3 t)

def execRet (s : State) : Host.Outcome State Fault Refusal := unit {} s (retBody s)

/-! ### The hardware loop -/

/-- LOOP's composed offset is at least 1 (R38, R281). -/
def execLoop (c : SReg) (o : BitVec 21) (s : State) : Host.Outcome State Fault Refusal :=
  let off := s.me.immZ o.toNat 21
  let n := s.me.reg c
  let start := keepBits (s.me.pc + 4) 55 2
  let tail := keepBits (s.me.pc + BitVec.ofNat 64 (4 * off)) 55 2
  unit { ext := true, sound := decide (1 ≤ off), scalars := [c] } s
    (.error (.goto
      (if n = 0 then
        { s with me := { s.me with
            pc := sx56 tail + 4
            cr := { s.me.cr with lstart := start, lend := tail } } }
      else
        { s with me := { s.me with
            pc := s.me.pc + 4
            cr := { s.me.cr with lc := n, lstart := start, lend := tail ||| 1 } } })))

end Sys2Proof.Machine
end

