-- ==== Sys2Proof/Machine/MemAccess.lean ====
section
/-! DEFINITION. The scalar memory accesses and fences: majors 0B to 0E (19_reference_j_s.md R278, R279, R299, R300;
13_ordering.md R196, R197; 18_reference_a_f.md R248, R265). -/

namespace Sys2Proof.Machine

/-- The value a load writes (R278). -/
def loadValue (v : Nat) (n : Nat) (sx : Bool) : Word :=
  if sx then BitVec.ofInt 64 (sext v (8 * n)) else BitVec.ofNat 64 v

/-- The effect of LD. -/
def loadBody (d b : SReg) (z : MemSize) (sx : Bool) (o : BitVec 13) (s : State) : Res State := do
  let (s1, v) ← s.readMem (s.me.memAddr b o) (sizeBytes z)
  return s1.setReg d (loadValue v (sizeBytes z) sx)

def execLd (d b : SReg) (z : MemSize) (x : Bool) (o : BitVec 13) (s : State) : Host.Outcome State Fault Refusal :=
  unit { ext := true, scalars := [d, b] } s (loadBody d b z x o s)

/-- The effect of ST: the low bytes of the data register (R299). -/
def storeBody (d b : SReg) (z : MemSize) (o : BitVec 13) (s : State) : Res State :=
  s.writeMem (s.me.memAddr b o) (sizeBytes z) ((s.me.reg d).toNat % 2 ^ (8 * sizeBytes z))

def execSt (d b : SReg) (z : MemSize) (o : BitVec 13) (s : State) : Host.Outcome State Fault Refusal :=
  unit { ext := true, scalars := [d, b] } s (storeBody d b z o s)

/-! ### Atomic memory operations -/

/-- The new value of an AMO at n bytes, or none where a CAS does not match (R197). -/
def amoNew (op : AmoOp) (n old b expect : Nat) : Option Nat :=
  let w := 8 * n
  match op with
  | .add => some ((old + b) % 2 ^ w)
  | .and => some (old &&& b)
  | .or => some (old ||| b)
  | .xor => some (old ^^^ b)
  | .min => some (if sext b w < sext old w then b else old)
  | .max => some (if sext old w < sext b w then b else old)
  | .minu => some (min old b)
  | .maxu => some (max old b)
  | .swap => some b
  | .cas => if old = expect then some b else none

/-- The remote window answers only ADD.D and CAS.D (16_system.md R239). -/
def amoRemote (op : AmoOp) (n : Nat) : Bool :=
  n == 8 && (op == .add || op == .cas)

/-- The new value is stored, and the registers that the write spoils become STALE; a CAS that does not match writes nothing
(R197; 08_faults.md R121). -/
def State.amoStore (s : State) (op : AmoOp) (va : Word) (loc n old b expect : Nat) : State :=
  match amoNew op n old b expect with
  | none => s
  | some v => (s.performWrite loc (leBytes n v)).spoil (rangeOf va n) s.me.pc

/-- A remote AMO is sent as a fetch-and-add or a compare-and-swap; one that fails reads all ones and writes nothing
(R239). -/
def State.amoSend (s : State) (op : AmoOp) (va : Word) (loc n b expect : Nat) : State × Nat :=
  if s.me.remoteFail then (s.remoteFailed loc, leNat (onesBytes n))
  else
    let old := leNat (remoteBytes s.free n)
    let s1 := { s.send loc (if op = .add then .fetchAdd b else .compareSwap expect b) with free := s.free + n }
    (if (amoNew op n old b expect).isNone then s1 else s1.spoil (rangeOf va n) s.me.pc, old)

/-- The one read and one write event of an AMO at a location: the state and the old value (R197); no memory answers an absent
location (R233). -/
def State.amoAt (s : State) (op : AmoOp) (va : Word) (loc n b expect : Nat) : State × Nat :=
  match s.place loc with
  | .remote => s.amoSend op va loc n b expect
  | .absent =>
    let (s1, bs) := s.readLoc loc n
    (s1, leNat bs)
  | .ram =>
    let (s1, bs) := s.readLoc loc n
    (s1.amoStore op va loc n (leNat bs) b expect, leNat bs)

/-- The effect of an AMO (R197, R248); it stalls while the hart is provisional (12_launch.md R176). -/
def amoBody (op : AmoOp) (d a b : SReg) (wide : Bool) (s : State) : Res State := do
  let n := if wide then 8 else 4
  let va := s.me.reg a
  if s.me.provisional then throw (.stall s)
  if va.toNat % n ≠ 0 then throw (.trap s .misalign va)
  s.demandPoint
  let (s1, loc) ← s.locateOr va .amo va
  if s1.place loc == .remote && !amoRemote op n then throw (.trap s1 .prot va)
  s1.watchCheck va.toNat n .amo s1.me.pc 0
  s1.writeGate (rangeOf va n)
  if s1.heldByOther loc n then throw (.stall s)
  let (s2, old) := s1.amoAt op va loc n ((s1.me.reg b).toNat % 2 ^ (8 * n)) ((s1.me.reg d).toNat % 2 ^ (8 * n))
  return (s2.watchNote .hart .amo [(va.toNat, loc, n)]).setReg d (BitVec.ofInt 64 (sext old (8 * n)))

/-- A unit of the A format; its order and scope bound what other agents may observe (log 7). -/
def amoUnit (op : AmoOp) (d a b : SReg) (wide : Bool) (s : State) : Host.Outcome State Fault Refusal :=
  unit { scalars := [d, a, b] } s (amoBody op d a b wide s)

def execAmoAdd (d a b : SReg) (z : Bool) (_r : AmoOrder) (_sc : Scope) (s : State) :
    Host.Outcome State Fault Refusal := amoUnit .add d a b z s

def execAmoAnd (d a b : SReg) (z : Bool) (_r : AmoOrder) (_sc : Scope) (s : State) :
    Host.Outcome State Fault Refusal := amoUnit .and d a b z s

def execAmoOr (d a b : SReg) (z : Bool) (_r : AmoOrder) (_sc : Scope) (s : State) :
    Host.Outcome State Fault Refusal := amoUnit .or d a b z s

def execAmoXor (d a b : SReg) (z : Bool) (_r : AmoOrder) (_sc : Scope) (s : State) :
    Host.Outcome State Fault Refusal := amoUnit .xor d a b z s

def execAmoMin (d a b : SReg) (z : Bool) (_r : AmoOrder) (_sc : Scope) (s : State) :
    Host.Outcome State Fault Refusal := amoUnit .min d a b z s

def execAmoMax (d a b : SReg) (z : Bool) (_r : AmoOrder) (_sc : Scope) (s : State) :
    Host.Outcome State Fault Refusal := amoUnit .max d a b z s

def execAmoMinu (d a b : SReg) (z : Bool) (_r : AmoOrder) (_sc : Scope) (s : State) :
    Host.Outcome State Fault Refusal := amoUnit .minu d a b z s

def execAmoMaxu (d a b : SReg) (z : Bool) (_r : AmoOrder) (_sc : Scope) (s : State) :
    Host.Outcome State Fault Refusal := amoUnit .maxu d a b z s

def execAmoSwap (d a b : SReg) (z : Bool) (_r : AmoOrder) (_sc : Scope) (s : State) :
    Host.Outcome State Fault Refusal := amoUnit .swap d a b z s

def execAmoCas (d a b : SReg) (z : Bool) (_r : AmoOrder) (_sc : Scope) (s : State) :
    Host.Outcome State Fault Refusal := amoUnit .cas d a b z s

/-! ### Fences -/

/-- A fence that orders the hart's own accesses, which the model performs at once in program order (R196; log 7). -/
def fenceUnit (s : State) : Host.Outcome State Fault Refusal :=
  unit {} s (do s.demandPoint; return s)

def execFenceFull (_sc : Scope) (s : State) : Host.Outcome State Fault Refusal := fenceUnit s
def execFenceRel (_sc : Scope) (s : State) : Host.Outcome State Fault Refusal := fenceUnit s
def execFenceAcq (_sc : Scope) (s : State) : Host.Outcome State Fault Refusal := fenceUnit s
def execFenceInst (_sc : Scope) (s : State) : Host.Outcome State Fault Refusal := fenceUnit s

/-- Engine transfers of the hart have not completed: copies in flight, and its trace records (R196, R265). -/
def State.enginesBusy (s : State) : Bool :=
  !s.me.copies.isEmpty || s.myCore.traceFifo.any fun r => r.owner == s.me.num

def execFenceEng (_sc : Scope) (s : State) : Host.Outcome State Fault Refusal :=
  unit {} s (do
    s.demandPoint
    if s.enginesBusy then throw (.wait s)
    return s)

/-- TLBINVA names a translation's page (14_traps.md R217). -/
def tlbNamed (inva : Word) (t : Translation) : Bool :=
  inva.getLsbD 0
    || (inva.getLsbD 1
        && (if t.large then t.page % 2 ^ 25 == inva.toNat / 2 ^ 31 % 2 ^ 25
            else t.page % 2 ^ 38 == inva.toNat / 2 ^ 18 % 2 ^ 38))

/-- A pass, with its writes that packets hold back, or an accepted copy of some hart of the package holds a pin on a named
page (07_streams.md R114). -/
def State.pinNamed (s : State) (inva : Word) : Bool :=
  (s.harts.any fun h => (h.copies.any fun c => c.pins.any (tlbNamed inva))
    || (h.vec.pass.map fun p => p.pins.any fun x => tlbNamed inva x.2) == some true)
  || s.packets.any fun q => q.pins.any (tlbNamed inva)

/-- Removes the named TLB entries of the package (R217). -/
def State.tlbRemove (s : State) (inva : Word) : State :=
  { s with tlb := s.tlb.filter fun e => !tlbNamed inva e.tr }

def execFenceXlat (_sc : Scope) (s : State) : Host.Outcome State Fault Refusal :=
  unit { supervisor := true } s (do
    s.demandPoint
    if s.pinNamed s.me.cr.tlbinva then throw (.wait s)
    let s1 := s.tlbRemove s.me.cr.tlbinva
    return { s1 with me := { s1.me with cr := { s1.me.cr with tlbinva := 0 } } })

end Sys2Proof.Machine
end

