-- ==== Sys2Proof/Machine/Tasks.lean ====
section
/-! DEFINITION. Tasks, futures and yielding: majors 2A and 2B (12_launch.md R183 to R186; 18_reference_a_f.md R260, R266,
R267; 19_reference_j_s.md R297, R298; 20_reference_t_z.md R330). -/

namespace Sys2Proof.Machine

/-! ### Home cores -/

/-- The die that a physical address belongs to (16_system.md R333). -/
def dieOfPa (pa : Nat) : Option Nat :=
  if pa < 4 * 2 ^ 36 then some (pa / 2 ^ 36)
  else if 2 ^ 45 ≤ pa ∧ pa < 2 ^ 45 + 4 * 2 ^ 43 then some ((pa - 2 ^ 45) / 2 ^ 43)
  else none

/-- The home core of a physical address (R183); none for the remote window, an address of no die, or an absent die. -/
def State.homePa (s : State) (pa : Nat) : Option Nat :=
  match dieOfPa pa with
  | none => none
  | some d => if s.diePresent d then some (192 * d + pa / 2 ^ 18 % 2 ^ 10 % 192) else none

/-- The physical address that a translation gives for a home: a page in migration is homed at its old frame (R183). -/
def State.homeAddr (s : State) (t : Translation) (va : Nat) : Nat :=
  if !t.large && pteM t.pte.toNat then
    frameField (s.recordDword (pteAddr t.pte.toNat)) + va % 2 ^ 18
  else s.frameLoc t.pte.toNat t.large va

/-- The home core of an address, translated as for a one-byte read (R297), or PROT where it has none. The walk's own effects stand
then too, and the MACHINE records of what it has read (14_traps.md R216, R207): the manual does not say so for SPAWN, and this is the
model's choice (log 30). -/
def State.home (s : State) (a : Word) : Except (State × Cause) (State × Nat) :=
  if !canonical a then .error (s, .prot)
  else if a = 0x0070000000080000 ∨ a = 0x0071000000800000 then .error (s, .prot)
  else
    match windowLoc s.me.core a.toNat with
    | some loc => if s.me.miller then .error (s, .prot) else .ok (s, (loc - 2 ^ 52) / 2 ^ 19)
    | none =>
      match s.translateAs s.me.cr.ptbase (s.me.level == .u) a.toNat .read with
      | .error c => .error (s.missed a .read, c)
      | .ok (s1, t) =>
        let s2 := (s1.frameOf t a.toNat).1
        match s1.homePa (s1.homeAddr t a.toNat) with
        | none => .error (s2, .prot)
        | some h => .ok (s2, h)

/-! ### Deques -/

/-- The location of an entry of a core's deque area (R236, R298). -/
def dequeLoc (base core slot : Nat) : Nat := base + 65536 * core + 16 * slot

/-- The hart reads a spilled entry from the deque area (R298; 14_traps.md R207). -/
def State.spilledTask (s : State) (base core slot : Nat) : State × (Word × Word) :=
  let (s1, bs) := s.readLoc (dequeLoc base core slot) 16
  (s1, BitVec.ofNat 64 (leNat (bs.take 8)), BitVec.ofNat 64 (leNat (bs.drop 8)))

/-- A free place of the area for the next spilled entry; the manual does not say which (log 13). -/
def State.spillPlace (s : State) (c : Core) : Nat :=
  let free := (List.range 4096).filter fun i => !c.spilled.contains i
  free.getD ((Config.freeWord s.free).toNat % free.length) 0

/-- A push at the bottom of a core's deque; none where it must wait for room (R183, R298). -/
def State.pushTask (s : State) (core : Nat) (t : Word × Word) : Option State :=
  let c := s.coreAt core
  match c.deque with
  | [] => some (s.setCore { c with deque := [t] })
  | oldest :: r =>
    if c.deque.length < 64 then some (s.setCore { c with deque := c.deque ++ [t] })
    else
      match s.capData 1 with
      | none => none
      | some base =>
        if 4096 ≤ c.spilled.length then none
        else
          let i := s.spillPlace c
          let s1 := s.store (dequeLoc base core i) (leBytes 8 oldest.1.toNat ++ leBytes 8 oldest.2.toNat)
          some (({ s1 with free := s1.free + 1 } : State).setCore
            { c with deque := r ++ [t], spilled := c.spilled ++ [i] })

/-- A pop at the bottom; a spilled entry returns to the hardware (R183). -/
def State.popTask (s : State) (core : Nat) : State × Option (Word × Word) :=
  let c := s.coreAt core
  match c.deque.getLast? with
  | none => (s, none)
  | some t =>
    match c.spilled.getLast?, s.capData 1 with
    | some i, some base =>
      let (s1, x) := s.spilledTask base core i
      (s1.setCore { c with deque := x :: c.deque.dropLast, spilled := c.spilled.dropLast }, some t)
    | _, _ => (s.setCore { c with deque := c.deque.dropLast }, some t)

/-- A steal at the top (R183). -/
def State.stealTask (s : State) (core : Nat) : State × Option (Word × Word) :=
  let c := s.coreAt core
  match c.spilled, s.capData 1 with
  | i :: r, some base =>
    let (s1, x) := s.spilledTask base core i
    (s1.setCore { c with spilled := r }, some x)
  | _, _ =>
    match c.deque with
    | [] => (s, none)
    | t :: r => (s.setCore { c with deque := r }, some t)

/-- A push by an instruction: it waits while the deque is full (R298). -/
def State.pushOr (s0 s : State) (core : Nat) (t : Word × Word) : Res State :=
  match s.pushTask core t with
  | none => .error (.wait s0)
  | some s1 => .ok s1

/-- The task in two registers, zeros for none; where both are one register it holds the argument (R260). -/
def State.giveTask (s : State) (a b : SReg) (t : Option (Word × Word)) : State :=
  (s.setReg a ((t.map (·.1)).getD 0)).setReg b ((t.map (·.2)).getD 0)

/-- The effect of SPAWN (R297); a provisional hart stalls before it issues (R176). -/
def spawnBody (a e x : Word) (s : State) : Res State :=
  if s.me.provisional then .error (.stall s)
  else if e = 0 then raise s .illegal 0
  else
    match s.home a with
    | .error (s1, c) => raise s1 c a
    | .ok (s1, h) => s.pushOr s1 h (e, x)

def execSpawn (a b c : SReg) (s : State) : Host.Outcome State Fault Refusal :=
  unit { scalars := [a, b, c] } s (spawnBody (s.me.reg a) (s.me.reg b) (s.me.reg c) s)

/-- The effect of DQPUSH (R298; R176). -/
def dqpushBody (e x : Word) (s : State) : Res State :=
  if s.me.provisional then .error (.stall s)
  else if e = 0 then raise s .illegal 0
  else s.pushOr s s.me.core (e, x)

def execDqpush (a b : SReg) (s : State) : Host.Outcome State Fault Refusal :=
  unit { miller := false, scalars := [a, b] } s (dqpushBody (s.me.reg a) (s.me.reg b) s)

/-- The effect of DQPOP (R184). -/
def dqpopBody (a b : SReg) (s : State) : Res State :=
  if s.me.miller then .ok (s.giveTask a b none)
  else if s.me.provisional then .error (.stall s)
  else
    let (s1, t) := s.popTask s.me.core
    .ok (s1.giveTask a b t)

def execDqpop (a b : SReg) (s : State) : Host.Outcome State Fault Refusal :=
  unit { scalars := [a, b] } s (dqpopBody a b s)

/-- The effect of DQSTEAL (R184). -/
def dqstealBody (a b : SReg) (v : Nat) (s : State) : Res State :=
  if s.me.provisional then .error (.stall s)
  else if 767 < v ∨ !s.diePresent (v / 192) then raise s .illegal 0
  else
    let (s1, t) := s.stealTask v
    .ok (s1.giveTask a b t)

def execDqsteal (a b c : SReg) (s : State) : Host.Outcome State Fault Refusal :=
  unit { scalars := [a, b, c] } s (dqstealBody a b (s.me.reg c).toNat s)

/-! ### Futures -/

/-- The bytes of a cell that matter: the value and the state (R185). -/
def cellBytes : Nat := 9

/-- The effect of FWAIT: the value of a full cell, else the hart parks; one that an FPUT has woken while its signal's FIFO was
full has its value (R185, R171). -/
def fwaitBody (d : SReg) (c : Word) (s : State) : Res State := do
  if let some v := s.me.woke then return s.setReg d v
  if c.toNat % 16 ≠ 0 then throw (.trap s .misalign c)
  let (s1, loc) ← s.locateOr c .read c
  s1.watchCheck c.toNat cellBytes .read s1.me.pc 0
  s1.readGate (rangeOf c cellBytes)
  if s1.heldByOther loc cellBytes then throw (.stall s)
  let (s2, bs) := s1.readLoc loc cellBytes
  let s3 := s2.watchNote .hart .read [(c.toNat, loc, cellBytes)]
  if bs.getD 8 0 = 0 then throw (.wait { s3 with me := { s3.me with status := .parked loc d } })
  return s3.setReg d (BitVec.ofNat 64 (leNat (bs.take 8)))

def execFwait (a b : SReg) (s : State) : Host.Outcome State Fault Refusal :=
  unit { scalars := [a, b] } s (fwaitBody a (s.me.reg b) s)

/-- Wakes a parked hart, which retires its FWAIT with the value (R185); where the signal finds no room the FWAIT waits with it
(R171). -/
def Hart.wake (h : Hart) (loc : Nat) (v : Word) : Hart :=
  match h.status with
  | .parked l d =>
    if l != loc then h
    else if h.signalBlocked .s then { h with status := .running, woke := some v }
    else
      let h1 : Hart := { h with status := .running, pc := h.pc + 4 }
      let h2 : Hart := if d = 0 then h1 else h1.writeScalar (h1.phys d) v h.unitPc
      (h2.loopTest h.unitWords).retireTokens .s true h.unitPc
  | _ => h

/-- The effect of FPUT (R185). -/
def fputBody (c v : Word) (s : State) : Res State := do
  if s.me.provisional then throw (.stall s)
  if c.toNat % 16 ≠ 0 then throw (.trap s .misalign c)
  let (s1, loc) ← s.locateOr c .write c
  s1.watchCheck c.toNat cellBytes .write s1.me.pc 0
  s1.writeGate (rangeOf c cellBytes)
  if s1.heldByOther loc cellBytes then throw (.stall s)
  let (s2, bs) := s1.readLoc loc cellBytes
  if bs.getD 8 0 ≠ 0 then throw (.trap s2 .futfull c)
  let s3 := (s2.performWrite loc (leBytes 8 v.toNat ++ [1])).spoil (rangeOf c cellBytes) s2.me.pc
  return { s3.watchNote .hart .write [(c.toNat, loc, cellBytes)] with
    others := s3.others.map fun h => h.wake loc v }

def execFput (a b : SReg) (s : State) : Host.Outcome State Fault Refusal :=
  unit { scalars := [a, b] } s (fputBody (s.me.reg a) (s.me.reg b) s)

/-! ### Yielding -/

/-- YIELD: the front end pauses, and the pass unit passes the hart by for 32 strip turns of its group (R186, R330). -/
def execYield (s : State) : Host.Outcome State Fault Refusal :=
  unit {} s (.ok (if s.me.miller then s
    else { s with me := { s.me with pause := true, yieldTurns := 32 } }))

/-- YIELD_PAUSE_END (R186). -/
def execYieldPauseEnd (s : State) : Host.Outcome State Fault Refusal :=
  .next { s with me := { s.me with pause := false } }

end Sys2Proof.Machine
end

