-- ==== Sys2Proof/Machine/Management.lean ====
section
/-! DEFINITION. The management controller: boot and firmware, the mailbox's requests but the core dump, page migration,
links, power, lanes, and the requests of remote devices (16_system.md R232 to R241, R333; 14_traps.md R218; 07_streams.md
R115; 13_ordering.md R202, R203; 04_registers.md R68). -/

namespace Sys2Proof.Machine

/-- The controller notes an event in its log. -/
def State.logEvent (s : State) (e : MgmtEvent) : State := { s with log := s.log ++ [e] }

/-- The watch records of an access of an agent outside the cores, a remote device or the controller (15_debug.md R226, R229;
log 24). -/
def State.remoteNote (s : State) (k : Kind) (pa n : Nat) : State :=
  { s with watchFlight := s.watchFlight ++ s.watchRecords .remote k [(pa, pa, n)] }

/-! ### Firmware -/

/-- An image verifies: its signature, and a version that the rollback counter allows (R234). -/
def Firmware.verifies (f : Firmware) (i : FwImage) : Bool := i.signed && decide (f.rollback ≤ i.version)

/-- The image of a slot that is accepted (R234). -/
def Firmware.accepted (f : Firmware) (x : FwSlot) : Option FwImage :=
  match x.image with
  | none => none
  | some i => if x.valid && f.verifies i then some i else none

/-- The slot that boots, true for B: the accepted image with the higher version (R234). That slot A boots where both have the same
version is the model's choice (log 24). -/
def Firmware.choose (f : Firmware) : Option Bool :=
  match f.accepted f.slotA, f.accepted f.slotB with
  | none, none => none
  | some _, none => some false
  | none, some _ => some true
  | some a, some b => some (decide (a.version < b.version))

/-- The firmware booted afresh. -/
def Firmware.boot (f : Firmware) : Firmware := { f with running := f.choose, healthy := false }

/-- The running image. -/
def Firmware.image (f : Firmware) : Option FwImage :=
  match f.running with
  | none => none
  | some b => if b then f.slotB.image else f.slotA.image

/-- A newly booted image has not yet reported healthy. -/
def Firmware.unhealthy (f : Firmware) : Bool := f.running.isSome && !f.healthy

/-- The running image has reported healthy: the rollback counter advances to its version (R234). -/
def Firmware.report (f : Firmware) : Firmware :=
  { f with healthy := true, rollback := max f.rollback ((f.image.map (·.version)).getD 0) }

/-- The running image is marked invalid (R234). -/
def Firmware.condemn (f : Firmware) : Firmware :=
  match f.running with
  | none => f
  | some b => if b then { f with slotB := { f.slotB with valid := false } }
    else { f with slotA := { f.slotA with valid := false } }

/-- An update in the slot not in use, valid once it verifies (R234). -/
def Firmware.update (f : Firmware) (i : FwImage) : Firmware :=
  let x : FwSlot := { image := some i, valid := f.verifies i }
  if f.running = some false then { f with slotB := x } else { f with slotA := x }

/-! ### Boot -/

/-- The hart of a miller core as its firmware starts: it runs at S (R232; 01_device.md R12; log 4). The manual numbers the
hart and not the core: that CX reads 768 + 2d + m there is the model's choice (log 4). -/
def millerHart (d m : Nat) (b : BootInputs) : Hart :=
  let h := Hart.reset (6144 + 2 * d + m) (768 + 2 * d + m) 0 true
  { h with
    status := .running
    level := .s
    pc := sx56 (keepBits b.entry 55 2)
    cr := { h.cr with tvec := keepBits b.tvec 55 2, ptbase := keepBits b.ptbase 51 12 } }

/-- The dies that a boot leaves out, logged (R232). -/
def absentDies (up : BitVec 4) : List MgmtEvent :=
  ((List.range 4).filter fun d => !up.getLsbD d).map .dieAbsent

/-- The die links: bit i joins the i-th pair of dies. -/
def dieLinks : List (Nat × Nat) := [(0, 1), (0, 2), (0, 3), (1, 2), (1, 3), (2, 3)]

/-- The links that a boot leaves at half width, between present dies (R232, R233). -/
def halfLinks (b : BootInputs) : List (Nat × Nat) :=
  (dieLinks.zipIdx.filter fun (l, i) => b.linkHalf.getLsbD i && b.dieUp.getLsbD l.1 && b.dieUp.getLsbD l.2).map (·.1)

/-- The lowest LMOD of any present core (R235). -/
def State.lowestLmod (s : State) : Nat :=
  ((s.cores.filter fun c => decide (c.num < 768) && s.diePresent (c.num / 192)).map (·.lmod)).foldl min Config.lmodAtShipment

/-- What a package reset keeps: memory, the lane tables, the firmware store and the log; TIME is 0 (R232; log 4). -/
def State.cleared (s : State) : State :=
  { State.reset with
    mem := s.mem
    cores := s.cores.map fun c => { Core.reset c.num with lmod := c.lmod, assigned := c.assigned }
    mgmt := s.mgmt
    millerFw := s.millerFw
    log := s.log
    stepNo := s.stepNo
    free := s.free
    softErrors := s.softErrors
    resets := s.resets + 1
    booted := true
    nextNode := s.nextNode
    nextGang := s.nextGang
    nextImage := s.nextImage
    saved := s.saved }

/-- Memory with cells of the boot image written. -/
def putCells (m : List Host.Cell) (cs : List Host.Cell) : List Host.Cell := cs.foldl (fun m c => memSet m c.1 c.2) m

/-- The sizes of the memory behind the CXL links of the present dies, 8 TiB in all at most (01_device.md R17; R233). -/
def cxlSizes (b : BootInputs) : List Nat :=
  (List.range 4).foldl (fun acc d =>
    acc ++ [if b.dieUp.getLsbD d then min (b.cxlSize.getD d 0) (2 ^ 43 - acc.sum) else 0]) []

/-- The n bytes at a physical address lie in the bonded DRAM of present dies (R333). -/
def State.inDram (s : State) (a n : Nat) : Bool :=
  decide (a + n ≤ 4 * 2 ^ 36)
    && (List.range 4).all fun d => s.diePresent d || decide (a + n ≤ d * 2 ^ 36) || decide ((d + 1) * 2 ^ 36 ≤ a)

/-- The bytes of a capability's data (R236). -/
def capSize (id : Nat) : Nat :=
  match id with
  | 1 => 65536 * 768
  | 2 => 4096
  | 3 => 8192
  | 4 => 32
  | 5 => 8
  | _ => 0

/-- The capability records from an address on, each with its ID and the address of its data; none where a record or its data
does not lie as R236 and R333 say. -/
def State.capChain (s : State) : Nat → Nat → Option (List (Nat × Nat × Nat))
  | 0, _ => none
  | fuel + 1, p =>
    if p = 0 then some []
    else if p % 16 ≠ 0 || !s.inDram p 16 then none
    else
      let d := leNat (memBytes s.mem p 8)
      let data := leNat (memBytes s.mem (p + 8) 8) % 2 ^ 56
      if !s.inDram data (capSize (d / 2 ^ 56)) then none
      else (State.capChain s fuel (d % 2 ^ 56)).map fun r => (p, d / 2 ^ 56, data) :: r

/-- The version of a capability record, and the data of capabilities 4 and 5, as the boot fixes them (R236). -/
def State.capFix (s : State) (c : Nat × Nat × Nat) : State :=
  let m := memPut s.mem (c.1 + 15) [1]
  { s with mem :=
      if c.2.1 = 4 then memPut m c.2.2 (s.cxlSize.flatMap (leBytes 8))
      else if c.2.1 = 5 then memPut m c.2.2 (leBytes 8 (256 * s.lowestLmod + s.diesPresent.toNat))
      else m }

/-- The capability list that the boot image holds, with what the boot fixes; an image with no such list gives none (R236,
R333; log 4). That a chain of 256 records or more counts as none is the model's choice (log 4). -/
def State.capabilities (s : State) (base : Nat) : State :=
  match s.capChain 256 base with
  | none => { s with capBase := 0 }
  | some cs =>
    let t := cs.foldl State.capFix s
    if t.capChain 256 base == some cs then { t with capBase := BitVec.ofNat 56 base } else { s with capBase := 0 }

/-- The controller goes into recovery, where it accepts only an update: no miller firmware runs (R233, R234). -/
def State.recover (s : State) : State :=
  ({ s with recovery := true, millerFw := { s.millerFw with running := none, healthy := false } } : State).logEvent .recovery

/-- Steps 2 to 4 of the boot, once the controller's own image runs (R232, R233). -/
def State.bootDies (s : State) (b : BootInputs) : State :=
  let s1 : State := { s with
    diesPresent := b.dieUp
    linkHalf := BitVec.ofNat 6 ((dieLinks.zipIdx.filter fun (l, _) => (halfLinks b).contains l).map fun (_, i) => 2 ^ i).sum
    cxlSize := cxlSizes b
    log := s.log ++ absentDies b.dieUp ++ (halfLinks b).map fun l => .linkHalf l.1 l.2 }
  let fw := s1.millerFw.boot
  if b.dieUp = 0 ∨ fw.running = none then s1.recover
  else
    let hs := ((List.range 4).filter fun d => b.dieUp.getLsbD d).flatMap fun d => [millerHart d 0 b, millerHart d 1 b]
    ({ s1 with millerFw := fw, mem := putCells s1.mem b.image, others := hs } : State).capabilities
      (b.capBase.toNat / 16 * 16)

/-- The boot sequence after a package reset (R232). -/
def State.bootFrom (s : State) (b : BootInputs) : State :=
  let s1 := s.cleared
  let fw := s1.mgmt.boot
  let s2 : State := { s1 with mgmt := fw }
  if fw.running = none then s2.recover else s2.bootDies b

def execPackageReset (b : BootInputs) (s : State) : Host.Outcome State Fault Refusal := .next (s.bootFrom b)

/-- HEALTH_REPORT within 60 s of the reset: the management image's, then the miller image's (R234). -/
def execHealthReport (s : State) : Host.Outcome State Fault Refusal :=
  if s.recovery || decide (60000000000 ≤ s.time.toNat) then .next s
  else if s.mgmt.unhealthy then .next { s with mgmt := s.mgmt.report }
  else if s.millerFw.unhealthy then .next { s with millerFw := s.millerFw.report }
  else .next s

/-- HEALTH_TIMEOUT: 60 s after the reset, an image that has not reported is marked invalid and the package reset (R234). That only
the management image is marked where neither has reported is the model's choice (log 24). -/
def execHealthTimeout (b : BootInputs) (s : State) : Host.Outcome State Fault Refusal :=
  if s.recovery || decide (s.time.toNat < 60000000000) then .next s
  else if s.mgmt.unhealthy then .next (({ s with mgmt := s.mgmt.condemn } : State).logEvent .imageInvalid |>.bootFrom b)
  else if s.millerFw.unhealthy then
    .next (({ s with millerFw := s.millerFw.condemn } : State).logEvent .imageInvalid |>.bootFrom b)
  else .next s

/-- FIRMWARE_UPDATE (R234). -/
def execFirmwareUpdate (u : FirmwareUpload) (s : State) : Host.Outcome State Fault Refusal :=
  let note (ok : Bool) (t : State) : State := if ok then t else t.logEvent .firmwareRefused
  match u.kind with
  | .management => .next (note (s.mgmt.verifies u.image) { s with mgmt := s.mgmt.update u.image })
  | .miller => .next (note (s.millerFw.verifies u.image) { s with millerFw := s.millerFw.update u.image })

/-! ### The mailbox -/

/-- The controller reads bytes at a physical address; what no memory backs reads as ones. -/
def State.mgmtRead (s : State) (pa n : Nat) : List Byte :=
  (List.range n).map fun i =>
    if s.place (pa + i) == .ram && decide (pa + i < 2 ^ 52) && !s.hasError (pa + i) 1 then memGet s.mem (pa + i) else 0xFF

/-- How many of n bytes at a physical address the controller can write, from the first on. -/
def State.mgmtSpan (s : State) (pa n : Nat) : Nat :=
  ((List.range n).takeWhile fun i => decide (pa + i < 2 ^ 52) && s.place (pa + i) == .ram).length

/-- Bytes written at a physical address as far as memory backs them. -/
def State.mgmtPut (s : State) (pa : Nat) (bs : List Byte) : State := s.store pa (bs.take (s.mgmtSpan pa bs.length))

/-- The controller's write, which watchpoints see (15_debug.md R226; 13_ordering.md R189). -/
def State.mgmtWrite (s : State) (pa : Nat) (bs : List Byte) : State :=
  (s.mgmtPut pa bs).remoteNote .write pa (s.mgmtSpan pa bs.length)

/-- Every byte of a write is backed. -/
def State.mgmtFits (s : State) (pa : Nat) (bs : List Byte) : Bool := s.mgmtSpan pa bs.length == bs.length

/-- A doubleword at a physical address. -/
def State.mgmtDword (s : State) (pa : Nat) : Nat := leNat (s.mgmtRead pa 8)

/-- The STATUS of a record is 1: its request is posted (R237). -/
def State.isPosted (s : State) (record : Nat) : Bool := s.mgmtDword record / 256 % 256 == 1

/-- The first posted record of the mailbox, by its address, that no migration under way serves already (R237). That others are served
meanwhile, and can finish before it, is the model's choice (log 25). -/
def State.posted (s : State) : Option Nat :=
  match s.capData 2 with
  | none => none
  | some base => ((List.range 64).map fun i => base + 64 * i).find? fun r =>
      s.isPosted r && !s.migrations.any fun m => m.mailbox == r

/-- Writes the STATUS of a record (R237). -/
def State.answer (s : State) (record status : Nat) : State := s.mgmtWrite (record + 1) [BitVec.ofNat 8 status]

/-- Argument i of a record. -/
def State.argument (s : State) (record i : Nat) : Nat := s.mgmtDword (record + 8 * i)

/-- Serves the first posted record, which it reads, if it carries a code; a code of no request is refused (R237). -/
def State.serve (s : State) (code : Nat) (f : State → Nat → State) : State :=
  match s.posted with
  | none => s
  | some r =>
    let c := s.mgmtDword r % 256
    if c = code then f (s.remoteNote .read r 64) r
    else if c = 0 ∨ 5 < c then (s.remoteNote .read r 64).answer r 3
    else s

/-- Writes a result, then STATUS done, or failed where memory does not back it (R237). That the bytes which memory backs are written
then too is the model's choice (log 24). -/
def State.deliver (s : State) (r pa : Nat) (bs : List Byte) : State :=
  (s.mgmtWrite pa bs).answer r (if s.mgmtFits pa bs then 2 else 4)

/-! ### Migration -/

/-- A location moved with a chunk of n bytes. -/
def moveLoc (old new n l : Nat) : Nat := if old ≤ l ∧ l < old + n then new + (l - old) else l

/-- What a hart holds by location moves: the cell it is parked on, and its buffered stores. -/
def Hart.moved (h : Hart) (f : Nat → Nat) : Hart :=
  { h with
    status := match h.status with
      | .parked l d => .parked (f l) d
      | st => st
    prov := h.prov.map fun p =>
      { p with
        loc := f p.loc
        notes := p.notes.map fun n => (n.1, n.2.map fun q => (q.1, f q.2.1, q.2.2)) } }

/-- A write that packets hold back follows the page (07_streams.md R115). -/
def Packet.moved (p : Packet) (f : Nat → Nat) : Packet := if p.kind = 4 then { p with offsets := p.offsets.map f } else p

/-- Everything that the device fixed by physical location follows the page (12_launch.md R334). -/
def State.relocate (s : State) (f : Nat → Nat) : State :=
  { s with
    me := s.me.moved f
    others := s.others.map fun h => h.moved f
    gangs := s.gangs.map fun g =>
      { g with doneLoc := f g.doneLoc, predLoc := g.predLoc.map f, cellLoc := g.cellLoc.map f }
    pubs := s.pubs.map fun p => { p with loc := f p.loc }
    packets := s.packets.map fun p => p.moved f
    softErrors := s.softErrors.map f }

/-- A translation is by a 256 KiB PTE with an address field. -/
def Translation.through (t : Translation) (addr : Nat) : Bool := !t.large && pteAddr t.pte.toNat == addr

/-- A page table maps a page, or a 256 KiB page within a 2 GiB one, by the level-3 PTE at a location (14_traps.md R215). -/
def State.mapsBy (s : State) (loc : Nat) (ptbase : Word) (page : Nat) (large : Bool) : Bool :=
  let dword (a : Nat) : Nat := leNat (memBytes s.mem a 8)
  let l2 := if large then page else page / 2 ^ 13
  let p1 := dword (ptbase.toNat / 2 ^ 15 % 2 ^ 37 * 2 ^ 15 + 8 * (l2 / 2 ^ 13 % 2 ^ 12))
  let p2 := dword (pteAddr p1 + 8 * (l2 % 2 ^ 13))
  pteSound p1 1 && pteSound p2 2 && !pteL p2
    && (if large then decide (pteAddr p2 ≤ loc) && decide (loc < pteAddr p2 + 2 ^ 16)
      else loc == pteAddr p2 + 8 * (page % 2 ^ 13))

/-- The PTBASEs in use in the package. -/
def State.ptbases (s : State) : List Word := (s.harts.map (·.cr.ptbase) ++ s.tlb.map (·.ptbase)).eraseDups

/-- A PTE with another ADDR and M (14_traps.md R216). -/
def pteWith (p addr : Nat) (m : Bool) : Nat := p % 2 ^ 8 + m.toNat * 2 ^ 8 + addr / 2 ^ 10 % 2 ^ 42 * 2 ^ 10

/-- Every TLB entry that maps a byte of the page of the PTE at a location is removed, for every PTBASE, as FENCE.XLAT would;
the pins of copies, passes and held-back writes on the page go where the PTE now leads, with the flags that they hold (R115,
R217, R218). -/
def State.repin (s : State) (loc addr pte : Nat) : State :=
  let move (t : Translation) : Translation :=
    if t.through addr then { t with pte := BitVec.ofNat 64 (pteWith t.pte.toNat (pteAddr pte) (pteM pte)) } else t
  let pin (h : Hart) : Hart := { h with
    copies := h.copies.map fun c => { c with pins := c.pins.map move }
    vec := { h.vec with pass := h.vec.pass.map fun p => { p with pins := p.pins.map fun x => (x.1, move x.2) } } }
  { s with
    me := pin s.me
    others := s.others.map pin
    packets := s.packets.map fun q => { q with pins := q.pins.map move }
    tlb := s.tlb.filter fun e =>
      !e.tr.through addr && !s.ptbases.any fun b => s.mapsBy loc b e.tr.page e.tr.large }

/-- Changes the granules that remote comparators watch. -/
def State.mapGranules (s : State) (f : List Nat → List Nat) : State :=
  { s with cores := s.cores.map fun c => { c with wloc := c.wloc.map f } }

/-- While a page is in migration a comparator watches its granules in both frames (15_debug.md R227). -/
def bothGranules (old new : Nat) (gs : List Nat) : List Nat :=
  gs ++ (gs.filter fun g => decide (old ≤ g) && decide (g < old + 2 ^ 18)).map fun g => new + (g - old)

/-- Afterwards it watches the new frame only. -/
def newGranules (old : Nat) (gs : List Nat) : List Nat :=
  gs.filter fun g => !(decide (old ≤ g) && decide (g < old + 2 ^ 18))

/-- Memory backs a 256 KiB frame: both its ends lie in one part of the physical address map (R333). -/
def State.frameBacked (s : State) (frame : Nat) : Bool := s.place frame == .ram && s.place (frame + 262143) == .ram

/-- The set-up of a migration: the record, then the PTE that points to it (R218). STATUS stays 1 until the page has moved; a request
whose record or frames no memory backs fails. That a PTE address which is no multiple of 8, or a record address which is no
multiple of 1,024, is refused, and that bits outside 51:18 of the new frame's argument are ignored, are the model's choices (log
25). -/
def State.beginMigration (s : State) (r : Nat) : State :=
  let pte := s.argument r 1
  let rec' := s.argument r 2
  let p := s.mgmtDword pte
  let s := s.remoteNote .read pte 8
  let frame := frameField (s.argument r 3)
  if !(pteSound p 3 && !pteM p) || pte % 8 != 0 || rec' % 1024 != 0 then s.answer r 3
  else if s.mgmtSpan rec' 64 != 64 || !s.frameBacked (pteAddr p) || !s.frameBacked frame then s.answer r 4
  else
    let s1 := s.mgmtWrite rec' (leBytes 8 (pteAddr p) ++ leBytes 8 frame ++ leBytes 8 0)
    let q := pteWith p rec' true
    let s2 := ((s1.mgmtWrite pte (leBytes 8 q)).repin pte (pteAddr p) q).mapGranules (bothGranules (pteAddr p) frame)
    { s2 with migrations := s2.migrations ++ [{ pte := pte, record := rec', mailbox := r }] }

def execMbxMigratePage (s : State) : Host.Outcome State Fault Refusal := .next (s.serve 2 State.beginMigration)

/-- The end of a migration: the PTE names the new frame, no agent uses the record any more, and the request, whose STATUS is still
1, is done (R218, R237). -/
def State.endMigration (s : State) (m : Migration) (old new : Nat) : State :=
  let q := pteWith (s.mgmtDword m.pte) new false
  let s1 := ((s.mgmtWrite m.pte (leBytes 8 q)).repin m.pte m.record q).mapGranules (newGranules old)
  let s2 : State := { s1 with migrations := s1.migrations.erase m }
  if s2.isPosted m.mailbox then s2.answer m.mailbox 2 else s2

/-- MIGRATION_CHUNK_COPIED: the next 4 KiB chunk is in the new frame, and PROGRESS passes it (R115, R218). -/
def execMigrationChunkCopied (i : Nat) (s : State) : Host.Outcome State Fault Refusal :=
  match s.migrations[i]? with
  | none => .next s
  | some m =>
    let old := frameField (s.mgmtDword m.record)
    let new := frameField (s.mgmtDword (m.record + 8))
    let k := s.mgmtDword (m.record + 16) % 2 ^ 19
    let s := s.remoteNote .read m.record 24
    let s1 := (s.store (new + k) (memBytes s.mem (old + k) 4096)).relocate (moveLoc (old + k) (new + k) 4096)
    let s2 := s1.mgmtWrite (m.record + 16) (leBytes 8 (k + 4096))
    .next (if 262144 ≤ k + 4096 then s2.endMigration m old new else s2)

/-! ### Sensors, attestation and the event log -/

/-- The arithmetic clock that dies share; open where they differ (R237, R241; log 9). -/
def State.sensedClock (s : State) : Word :=
  let c := s.clock.get 0
  if s.clock.toList.all fun x => x == c then BitVec.ofNat 64 c else Config.freeWord (s.free + 56)

def execMbxReadSensors (s : State) : Host.Outcome State Fault Refusal :=
  .next (s.serve 3 fun s r =>
    let bs := ((List.range 56).map fun i => Config.freeWord (s.free + i)) ++ [s.sensedClock]
    ({ s with free := s.free + 57 } : State).deliver r (s.argument r 1) (bs.flatMap fun w => leBytes 8 w.toNat))

/-- The digest of a running image. -/
def Firmware.digest (f : Firmware) : List Byte := leBytes 48 ((f.image.map FwImage.digest).getD 0).toNat

/-- MBX_ATTESTATION (R235, R237). A nonce that no memory backs reads as all ones (R333); that the report is made all the same, and
answered done, is the model's choice (log 24). -/
def execMbxAttestation (s : State) : Host.Outcome State Fault Refusal :=
  .next (s.serve 4 fun s0 r =>
    let s := s0.remoteNote .read (s0.argument r 1) 48
    let report := s.mgmtRead (s.argument r 1) 48 ++ s.mgmt.digest ++ s.millerFw.digest ++ leBytes 4 Config.partId
      ++ leBytes 4 s.diesPresent.toNat ++ leBytes 8 s.lowestLmod
      ++ (List.range 96).map fun i => Config.signatureByte (s.free + i)
    ({ s with free := s.free + 96 } : State).deliver r (s.argument r 2) report)

def execMbxReadEventLog (s : State) : Host.Outcome State Fault Refusal :=
  .next (s.serve 5 fun s r =>
    let n := s.argument r 2
    ({ s with free := s.free + n } : State).deliver r (s.argument r 1)
      ((List.range n).map fun i => Config.eventLogByte (s.free + i)))

/-! ### Links, power and lanes -/

/-- A MACHINE record at both miller cores of a die (R240). -/
def State.tellMillers (s : State) (d : Nat) (eva : Word) : State :=
  let put (h : Hart) : Hart := { h with machine := h.machine ++ [eva] }
  (s.updHart (6144 + 2 * d) put).updHart (6144 + 2 * d + 1) put

/-- A link's failed retrains have reached three: half width (R202, R240). -/
def State.halveLink (s : State) (i a b : Nat) : State :=
  (((({ s with linkHalf := s.linkHalf ||| BitVec.ofNat 6 (2 ^ i) } : State).logEvent (.linkHalf a b)).tellMillers a 0).tellMillers b 0)

/-- LINK_RETRAIN (R202, R240): a retrain changes nothing that a program computes. -/
def execLinkRetrain (a b : Nat) (ok : Bool) (s : State) : Host.Outcome State Fault Refusal :=
  match dieLinks.idxOf? (a, b) with
  | none => .next s
  | some i =>
    if !(s.diePresent a && s.diePresent b) then .next s
    else if ok then .next { s with retrains := s.retrains.setIfInBounds i 0 }
    else
      let n := s.retrains.toList.getD i 0 + 1
      let s1 : State := { s with retrains := s.retrains.setIfInBounds i n }
      .next (if n = 3 then s1.halveLink i a b else s1)

/-- The clock one step lower or higher, between 2.0 and 4.0 GHz (R241). -/
def clockDown (c : Nat) : Nat := max 2000 (c - 250)
def clockUp (c : Nat) : Nat := min 4000 (c + 250)

def execPowerLimitThrottle (s : State) : Host.Outcome State Fault Refusal :=
  .next { s with clock := s.clock.map clockDown }

/-- POWER_LIMIT_RECOVER: the clocks rise in the same way (R241). That it alone raises the clock of a die which a hot cluster has
lowered, with the others and on every die at once, is the model's choice (log 24). -/
def execPowerLimitRecover (s : State) : Host.Outcome State Fault Refusal :=
  .next { s with clock := s.clock.map clockUp }

/-- THERMAL_THROTTLE: a cluster's own die slows down (R241). -/
def execThermalThrottle (cluster : Nat) (s : State) : Host.Outcome State Fault Refusal :=
  .next { s with clock := s.clock.mapFinIdx fun i c _ => if i = cluster / 12 then clockDown c else c }

/-- THERMAL_SHUTDOWN: the package stops (R241). -/
def execThermalShutdown (s : State) : Host.Outcome State Fault Refusal :=
  .next { s.logEvent .shutdown with stopped := true }

/-- The lanes marked in a table. -/
def laneCount (a : BitVec 136) : Nat := ((List.range 136).filter fun i => a.getLsbD i).length

/-- A retirement moves one lane, or removes one (R68). -/
def laneChange (c : Core) (assigned : BitVec 136) (lmod : Nat) : Bool :=
  laneCount assigned == lmod
    && ((lmod == c.lmod && decide (laneCount (assigned &&& ~~~c.assigned) ≤ 1))
      || (lmod + 1 == c.lmod && assigned &&& ~~~c.assigned == 0))

/-- LANE_REMAP_WRITE: only while no hart is resident on the core (R68). -/
def execLaneRemapWrite (core : Nat) (assigned : BitVec 136) (lmod : Nat) (s : State) :
    Host.Outcome State Fault Refusal :=
  let c := s.coreAt core
  let busy := s.harts.any fun h => h.core == core && h.resident
  .next (if busy || !laneChange c assigned lmod then s else s.setCore { c with assigned := assigned, lmod := lmod })

/-! ### Remote devices -/

/-- REMOTE_DEVICE_ACCESS: a request on the package's memory performs at system scope (13_ordering.md R203). -/
def execRemoteDeviceAccess (r : RemoteRequest) (s : State) : Host.Outcome State Fault Refusal :=
  match r with
  | .read pa n => .next (s.remoteNote .read pa n)
  | .write pa bs => .next ((s.mgmtPut pa bs).remoteNote .write pa bs.length)
  | .amo op wide pa b e =>
    let n := if wide then 8 else 4
    if pa % n ≠ 0 ∨ s.mgmtSpan pa n ≠ n then .next s
    else
      let s1 := match amoNew op n (leNat (s.mgmtRead pa n)) (b.toNat % 2 ^ (8 * n)) (e.toNat % 2 ^ (8 * n)) with
        | none => s
        | some v => s.mgmtPut pa (leBytes n v)
      .next (s1.remoteNote .amo pa n)

end Sys2Proof.Machine
end

