-- ==== Sys2Proof/Machine/PassEval.lean ====
section
/-! DEFINITION. The values of a pass (06_forme.md R90, R95): from what its leaves have read, the elements of every node it
reaches, each with the flags it sets and the pass element at which it is known; and the result of a reduction (05_numbers.md
R84 to R87) or a count. -/

namespace Sys2Proof.Machine

/-- What stands at a position of a node. -/
inductive Cell where
  | off
  | elem (e : Elem)
  | bit (b : Bool)
  deriving DecidableEq, Repr

/-- A position of a node: its cell, and the pass element that must have been reached for it (20_reference_t_z.md R320;
05_numbers.md R80). -/
structure Ent where
  cell : Cell
  due : Nat
  deriving DecidableEq, Repr

/-- The elements of a node that a pass knows, from position 0 on, with the flags of computing each and of encoding each
into a D8S block. -/
structure Row where
  ents : List Ent
  raws : List (FlagSet × Nat)
  encs : List (FlagSet × Nat)
  deriving DecidableEq, Repr

/-- Nothing known. -/
def Row.none : Row := ⟨[], [], []⟩

/-- The rows of the nodes computed so far. -/
abbrev Env := List (Nat × Row)

/-- The row of a node. -/
def Env.row (env : Env) (n : Nat) : Row := ((env.find? fun x => x.1 == n).map (·.2)).getD Row.none

/-- The entry at a position. -/
def Row.get (r : Row) (e : Nat) : Ent := r.ents.getD e ⟨.off, e⟩

/-- The element of a cell. -/
def Cell.elem? : Cell → Option Elem
  | .elem e => some e
  | _ => Option.none

/-- The truth of a mask cell. -/
def Cell.isTrue : Cell → Bool
  | .bit b => b
  | _ => false

/-- An element before its encoding, and the element it is due at. -/
abbrev Pre := Option (Raw × FlagSet) × Nat

/-- The row of a vector node. D8S elements are known by whole blocks (05_numbers.md R80). -/
def vectorRow (t : Tag) (mode : RMode) (vlen : Nat) (xs : List Pre) : Row :=
  let raws := xs.map fun x => ((x.1.map (·.2)).getD 0, x.2)
  if t = .d8s then
    let whole := (chunks 31 (xs.length + 1) xs).mapIdx fun b c =>
      if c.length = 31 ∨ 31 * b + c.length = vlen then
        let last := ((c.map (·.2)).foldl max 0)
        (encodeBlock mode (c.map fun x => x.1.map fun y => (y.1, (0 : FlagSet)))).map fun y => (y, last)
      else []
    let ys := whole.flatten
    ⟨ys.map fun y => ⟨(match y.1 with | some e => .elem e.1 | Option.none => .off), y.2⟩, raws,
      ys.map fun y => ((y.1.map (·.2)).getD 0, y.2)⟩
  else
    ⟨xs.map fun x => ⟨(match x.1 with | some (.stored e, _) => .elem e | _ => .off), x.2⟩, raws, []⟩

/-- The row of a mask node, from its bits, flags and dues. -/
def maskRow (xs : List (Bool × FlagSet × Nat)) : Row :=
  ⟨xs.map fun x => ⟨.bit x.1, x.2.2⟩, xs.map fun x => x.2, []⟩

/-- The least of some lengths below a bound. -/
def leastLen (bound : Nat) (rs : List Row) : Nat := rs.foldl (fun m r => min m r.ents.length) bound

/-- The latest due of entries at a position. -/
def latest (e : Nat) (xs : List Ent) : Nat := xs.foldl (fun m x => max m x.due) e

/-! ### Element-wise nodes -/

/-- The value of an element-wise vector node whose sources are active (20_reference_t_z.md R308 to R315, R324). VFMA
promotes over its sources and tag[vd]; an accumulator node keeps the type it was appended with (R62, R63, log 14). -/
def pointValue (n : Node) (e : Nat) (args : List Elem) : Option (Raw × FlagSet) :=
  let t := n.tag.getD .i64
  let sc := n.scalar.getD 0
  match n.op, args with
  | .arith op uns, a :: rest =>
    let (b, r) : Elem × List Elem := match n.scalar, rest with
      | some w, r => (scalarElem a.tag w, r)
      | Option.none, b :: r => (b, r)
      | Option.none, [] => (a, [])
    let p0 := if n.scalar.isSome then promote1 a.tag else promote a.tag b.tag
    let p := if op = .fma then promote (promote p0 t) (r.headD a).tag else p0
    some (arithElem op uns p t n.frm a b (r.headD a))
  | .logic op, a :: rest =>
    let (b, p) : Elem × Tag := match n.scalar, rest with
      | some w, _ => (scalarElem a.tag w, a.tag)
      | Option.none, b :: _ => (b, promote a.tag b.tag)
      | Option.none, [] => (a, a.tag)
    some (logicElem op p t a b)
  | .unary op, a :: _ => some (unaryElem op t n.frm a)
  | .cvt uns r, a :: _ => some (cvtElem a t uns r n.frm)
  | .splat, _ => some (finExact t (rmodeOf n.frm) sc.toInt)
  | .iota, _ => some (finExact t (rmodeOf n.frm) (sc.toInt + e))
  | _, _ => Option.none

/-- The rounding in which a node encodes D8S blocks: its own, or VCVT's mode (R314, R88). -/
def Node.encMode (n : Node) : RMode :=
  match n.op with
  | .cvt _ r => roundOf r n.frm
  | _ => rmodeOf n.frm

/-- An element-wise node over m positions (06_forme.md R90). -/
def pointRow (n : Node) (vlen m : Nat) (srcs : List Row) (pred : Option Row) : Row :=
  vectorRow (n.tag.getD .i64) n.encMode vlen ((List.range m).map fun e =>
    let xs := srcs.map fun r => r.get e
    let es := xs.filterMap fun x => x.cell.elem?
    let on := (pred.map fun r => (r.get e).cell.isTrue).getD true
    (if on && es.length == srcs.length then pointValue n e es else Option.none,
      latest e (xs ++ (pred.map fun r => r.get e).toList)))

/-- VSEL in a promoted type: only the selected source decides whether a position is active (R90, R310, R311). -/
def selRow (n : Node) (p : Tag) (vlen m : Nat) (a b : Row) (pred : Option Row) : Row :=
  vectorRow (n.tag.getD .i64) (rmodeOf n.frm) vlen ((List.range m).map fun e =>
    let k := (pred.map fun r => (r.get e).cell.isTrue).getD true
    let x := if k then a.get e else b.get e
    (x.cell.elem?.map fun y => moveElem y p (n.tag.getD .i64) n.frm,
      latest e ([a.get e, b.get e] ++ (pred.map fun r => r.get e).toList)))

/-- VCMP (09_control.md R129). -/
def cmpRow (r : VRel) (uns : Bool) (m : Nat) (a b : Row) (pred : Option Row) : Row :=
  maskRow ((List.range m).map fun e =>
    let on := (pred.map fun r => (r.get e).cell.isTrue).getD true
    let d := latest e ([a.get e, b.get e] ++ (pred.map fun r => r.get e).toList)
    match (a.get e).cell.elem?, (b.get e).cell.elem? with
    | some x, some y =>
      if on then
        let (v, f) := cmpElem r uns x y
        (v, f, d)
      else (false, 0, d)
    | _, _ => (false, 0, d))

/-- The mask operations; a k0 source is no node and true everywhere (09_control.md R130; 19_reference_j_s.md R270). -/
def maskOpRow (op : MaskOp) (m : Nat) (srcs : List Row) : Row :=
  let at1 (i e : Nat) : Bool := match srcs[i]? with
    | some r => (r.get e).cell.isTrue
    | Option.none => true
  let seen (e : Nat) : Bool := (List.range e).any (at1 0)
  maskRow ((List.range m).map fun e =>
    let v := match op with
      | .and => at1 0 e && at1 1 e
      | .or => at1 0 e || at1 1 e
      | .xor => at1 0 e != at1 1 e
      | .not => !at1 0 e
      | .sbf => !seen e && !at1 0 e
      | .sif => !seen e
    (v, 0, latest e (srcs.map fun r => r.get e)))

/-! ### Reductions and running values -/

/-- A floating element enters as F32 (05_numbers.md R84). -/
def enterF32 (mode : RMode) (e : Elem) : XVal × FlagSet :=
  let (b, f) := fmtF32.round mode (e.val false)
  (fmtF32.decode b, f)

/-- A combination of two F32 values (R84). -/
def combineF32 (op : RedOp) (mode : RMode) (a b : XVal) : XVal × FlagSet :=
  match op with
  | .min => xMinMax false a b
  | .max => xMinMax true a b
  | _ =>
    let (x, f) := xAdd mode a b
    let (y, g) := fmtF32.round mode x
    (fmtF32.decode y, f ||| g)

/-- A combination of two integers, exact for a sum (R84). -/
def combineInt (op : RedOp) (a b : Int) : Int :=
  match op with
  | .sum => a + b
  | .min | .minu => min a b
  | .max | .maxu => max a b
  | .and => (BitVec.ofInt 64 a &&& BitVec.ofInt 64 b).toInt
  | .or => (BitVec.ofInt 64 a ||| BitVec.ofInt 64 b).toInt
  | .xor => (BitVec.ofInt 64 a ^^^ BitVec.ofInt 64 b).toInt

/-- The operators that read their elements unsigned (R84, R319). -/
def redUns : RedOp → Bool
  | .minu | .maxu => true
  | _ => false

/-- The identity of an operator on integers of a width (R84). -/
def identInt (op : RedOp) (w : Nat) : Int :=
  match op with
  | .sum | .maxu | .or | .xor => 0
  | .min => intMax w false
  | .max => intMin w false
  | .minu => intMax w true
  | .and => -1

/-- The identity on floating data (R84). -/
def identF32 (op : RedOp) : XVal :=
  match op with
  | .min => .inf false
  | .max => .inf true
  | _ => .num false 0 1

/-- One level of the tree of R85: a member without a partner passes up unchanged. -/
def treeLevel (mode : RMode) : List (Option XVal) → List (Option XVal) × FlagSet
  | some a :: some b :: r =>
    let (x, f) := combineF32 .sum mode a b
    let (xs, g) := treeLevel mode r
    (some x :: xs, f ||| g)
  | a :: b :: r =>
    let (xs, g) := treeLevel mode r
    (a.orElse (fun _ => b) :: xs, g)
  | xs => (xs, 0)

/-- The tree of R85 over a list. -/
def treeSum (mode : RMode) : Nat → List (Option XVal) → Option XVal × FlagSet
  | 0, xs => (xs.headD Option.none, 0)
  | fuel + 1, xs =>
    if xs.length ≤ 1 then (xs.headD Option.none, 0)
    else
      let (ys, f) := treeLevel mode xs
      let (r, g) := treeSum mode fuel ys
      (r, f ||| g)

/-- A running combination of the present values of a list, in order. -/
def runCombine (op : RedOp) (mode : RMode) (xs : List (Option XVal)) : Option XVal × FlagSet :=
  xs.foldl (fun (acc, f) x =>
    match acc, x with
    | _, Option.none => (acc, f)
    | Option.none, some v => (some v, f)
    | some a, some v =>
      let (y, g) := combineF32 op mode a v
      (some y, f ||| g)) (Option.none, 0)

/-- The sum of F32 values in the length-agnostic order (R85) or the native order of w lanes (R86). -/
def sumF32 (mode : RMode) (lam : Bool) (w : Nat) (xs : List (Option XVal)) : Option XVal × FlagSet :=
  let parts := if lam then (chunks 32 (xs.length + 1) xs).map fun c => treeSum mode 6 c
    else (List.range (max w 1)).map fun l =>
      runCombine .sum mode ((List.range ((xs.length + max w 1 - 1) / max w 1)).map fun i =>
        xs.getD (i * max w 1 + l) Option.none)
  let f := parts.foldl (fun f x => f ||| x.2) 0
  let (r, g) := if lam then runCombine .sum mode (parts.map (·.1)) else treeSum mode 9 (parts.map (·.1))
  (r, f ||| g)

/-- The running value after one more and the flags of that combination. -/
def combineNext (op : RedOp) (mode : RMode) (acc x : Option XVal) : Option XVal × FlagSet :=
  match acc, x with
  | a, none => (a, 0)
  | none, some v => (some v, 0)
  | some a, some v =>
    let (y, g) := combineF32 op mode a v
    (some y, g)

/-- The flags of a running combination, at each of its values. -/
def runFlags (op : RedOp) (mode : RMode) : Option XVal → List (Option XVal) → List FlagSet
  | _, [] => []
  | acc, x :: r =>
    let (a, f) := combineNext op mode acc x
    f :: runFlags op mode a r

/-- The flags of the length-agnostic sum of blocks of 32, each block's at its last value (R85); the last block counts only once
it is whole or the list has ended. -/
def blockFlags (mode : RMode) (ended : Bool) : Option XVal → List (List (Option XVal)) → List FlagSet
  | _, [] => []
  | acc, c :: r =>
    if c.length = 32 || (ended && r.isEmpty) then
      let (x, f) := treeSum mode 6 c
      let (a, g) := combineNext .sum mode acc x
      List.replicate (c.length - 1) 0 ++ (f ||| g) :: blockFlags mode ended a r
    else List.replicate c.length 0

/-- The flags of the lanes' own sums, at each value, and the lanes' sums after them (R86). -/
def laneSums (mode : RMode) : Nat → List (Option XVal) → List (Option XVal) → List FlagSet × List (Option XVal)
  | _, lanes, [] => ([], lanes)
  | i, lanes, x :: r =>
    let l := i % lanes.length
    let (a, f) := combineNext .sum mode (lanes.getD l none) x
    let (fs, out) := laneSums mode (i + 1) (lanes.set l a) r
    (f :: fs, out)

/-- A flag set ORed into the last entry of a list. -/
def orLast (g : FlagSet) : List FlagSet → List FlagSet
  | [] => []
  | [f] => [f ||| g]
  | f :: r => f :: orLast g r

/-- The flags of the operations of a floating reduction, at the element that decides each (R83 to R86; log 18). -/
def reduceOps (op : RedOp) (lam : Bool) (mode : RMode) (w : Nat) (ended : Bool) (vs : List (Option XVal)) : List FlagSet :=
  if op != .sum then runFlags op mode none vs
  else if lam then blockFlags mode ended none (chunks 32 (vs.length + 1) vs)
  else
    let (fs, lanes) := laneSums mode 0 (List.replicate (max w 1) none) vs
    if ended then orLast (treeSum mode 9 lanes).2 fs else fs

/-- The result of a reduction over cells, absent ones off: the value for sd and its flags (R84 to R86). -/
def reduceCells (op : RedOp) (lam : Bool) (frm : BitVec 2) (w : Nat) (t : Tag) (xs : List (Option Elem)) :
    Word × FlagSet :=
  if tagIsInt t then
    match xs.filterMap fun x => x.map fun e => e.int (redUns op) with
    | [] => (BitVec.ofInt 64 (identInt op 64), 0)
    | a :: r =>
      let v := r.foldl (combineInt op) a
      let b := BitVec.ofInt 64 v
      (b, flagIf (op == .sum && b.toInt != v) fIntOverflow)
  else
    let mode := rmodeOf frm
    let ys := xs.map fun x => x.map (enterF32 mode)
    let f := ys.foldl (fun f y => f ||| ((y.map (·.2)).getD 0)) 0
    let vs := ys.map fun y => y.map (·.1)
    let (r, g) := if op = .sum then sumF32 mode lam w vs else runCombine op mode vs
    (BitVec.ofNat 64 (fmtF32.round mode (r.getD (identF32 op))).1, f ||| g)

/-- The flags of a reduction, at the element that decides each; ended says that the cells are all it has (R83, R84). -/
def reduceFlags (op : RedOp) (lam : Bool) (frm : BitVec 2) (w : Nat) (t : Tag) (ended : Bool) (xs : List (Option Elem)) :
    List FlagSet :=
  if tagIsInt t then
    orLast (if ended then (reduceCells op lam frm w t xs).2 else 0) (xs.map fun _ => 0)
  else
    let ys := xs.map fun x => x.map (enterF32 (rmodeOf frm))
    List.zipWith (fun y f => ((y.map (·.2)).getD 0) ||| f) ys
      (reduceOps op lam (rmodeOf frm) w ended (ys.map fun y => y.map (·.1)))

/-- The running value of a VSCAN: the F32 value, or the value at the source's width and the exact sum (R87). -/
structure Running where
  f : Option XVal
  i : Option Int
  exact : Int
  deriving DecidableEq, Repr

/-- A further active element of a VSCAN (R87, R319). -/
def Running.add (u : Running) (op : RedOp) (mode : RMode) (e : Elem) : Running × FlagSet :=
  if tagIsInt e.tag then
    let x := e.int (redUns op)
    let w := tagWidth e.tag
    let y := match u.i with
      | Option.none => x
      | some a => combineInt op a x
    ({ u with i := some (intOf (wrapBits y w) w (redUns op)), exact := u.exact + x }, 0)
  else
    let (x, f) := enterF32 mode e
    match u.f with
    | Option.none => ({ u with f := some x }, f)
    | some a =>
      let (y, g) := combineF32 op mode a x
      ({ u with f := some y }, f ||| g)

/-- The running value as an element of vd's tag (R87, R308, R319). An identity is that of the source's own width, and the
stored value of MINU and MAXU is compared unsigned (log 31). -/
def Running.out (u : Running) (op : RedOp) (src t : Tag) (mode : RMode) : Raw × FlagSet :=
  if tagIsInt src then
    let w := tagWidth src
    finInt t mode (redUns op) w (if op = .sum then u.exact else u.i.getD (identInt op w))
  else finFloat t mode false (u.f.getD (identF32 op))

/-- A VSCAN over entries of its source and its predicate (R87, R90). A position that the predicate leaves out holds a value,
which counts towards the scale of a D8S block (log 31). -/
def scanPres (op : RedOp) (src t : Tag) (mode : RMode) : Running → List (Ent × Bool × Nat) → List Pre
  | _, [] => []
  | u, (x, on, d) :: r =>
    if !on then (some ((u.out op src t mode).1, 0), d) :: scanPres op src t mode u r
    else
      match x.cell.elem? with
      | Option.none => (Option.none, d) :: scanPres op src t mode u r
      | some e =>
        let (u1, f) := u.add op mode e
        let (y, g) := u1.out op src t mode
        (some (y, f ||| g), d) :: scanPres op src t mode u1 r

/-- A VSCAN node: positions that the predicate leaves out set no flag, the encoding of a D8S block included (05_numbers.md
R83, R87). -/
def scanRow (n : Node) (op : RedOp) (src : Tag) (vlen m : Nat) (a : Row) (pred : Option Row) : Row :=
  let t := n.tag.getD .i64
  let on (e : Nat) : Bool := (pred.map fun r => (r.get e).cell.isTrue).getD true
  let row := vectorRow t (rmodeOf n.frm) vlen (scanPres op src t (rmodeOf n.frm) ⟨Option.none, Option.none, 0⟩
    ((List.range m).map fun e =>
      (a.get e, on e, latest e (a.get e :: (pred.map fun r => r.get e).toList))))
  { row with encs := row.encs.mapIdx fun e x => if on e then x else (0, x.2) }

/-! ### Compression, expansion, permutation -/

/-- VCOMP over m scanned positions; once all are scanned, the rest is inactive, which the last
position decides (20_reference_t_z.md R320). -/
def compRow (n : Node) (vlen m : Nat) (a : Row) (pred : Option Row) : Row :=
  let t := n.tag.getD .i64
  let outs : List Pre := (List.range m).filterMap fun p =>
    let on := (pred.map fun r => (r.get p).cell.isTrue).getD true
    match on, (a.get p).cell.elem? with
    | true, some e =>
      some (some (moveElem e (promote1 e.tag) t n.frm), latest p (a.get p :: (pred.map fun r => r.get p).toList))
    | _, _ => Option.none
  let pad : List Pre := if m = vlen then List.replicate (vlen - outs.length) (Option.none, vlen - 1) else []
  vectorRow t (rmodeOf n.frm) vlen (outs ++ pad)

/-- VEXPD from position e on, c elements of va being used up (R320). -/
def expdPres (n : Node) (a : Row) (pred : Option Row) : Nat → Nat → Nat → List Pre
  | 0, _, _ => []
  | k + 1, e, c =>
    let on := (pred.map fun r => (r.get e).cell.isTrue).getD true
    let d := latest e (pred.map fun r => r.get e).toList
    if !on then (Option.none, d) :: expdPres n a pred k (e + 1) c
    else if a.ents.length ≤ c then []
    else
      let x := a.get c
      (x.cell.elem?.map fun y => moveElem y (promote1 y.tag) (n.tag.getD .i64) n.frm, max d x.due)
        :: expdPres n a pred k (e + 1) (c + 1)

/-- A VPERM from the elements it has selected (R321). -/
def permRow (n : Node) (src : Tag) (vlen : Nat) (picked : List (Option (Nat × Int))) : Row :=
  let t := n.tag.getD .i64
  vectorRow t (rmodeOf n.frm) vlen (picked.mapIdx fun e x =>
    (x.map fun (b, sc) => moveElem ⟨src, b, sc⟩ (promote1 src) t n.frm, e))

/-- The row of a node, as far as its sources, its cells or its selections and a bound go. -/
def nodeRow (ns : List Node) (env : Env) (vlen bound : Nat) (cells : List (Option Nat))
    (picked : List (Option (Nat × Int))) (n : Node) : Row :=
  let srcs := n.srcs.map fun e => env.row e.node
  let pred := n.pred.map fun e => env.row e.node
  let m := leastLen bound (srcs ++ pred.toList)
  let src0 := srcs.headD Row.none
  let tagAt (i : Nat) : Tag := indexTag ns ((n.srcs[i]?.map (·.node)).getD 0)
  let tag0 := tagAt 0
  match n.op with
  | .leaf _ d _ _ =>
    let t := n.tag.getD .i64
    vectorRow t (rmodeOf n.frm) vlen ((cells.take vlen).mapIdx fun e x =>
      (x.map fun c => convElem (cellElem (dFmt d) c) t n.frm, e))
  | .sel => selRow n (promote tag0 (tagAt 1)) vlen m src0 (srcs.getD 1 Row.none) pred
  | .cmp r uns => cmpRow r uns m src0 (srcs.getD 1 Row.none) pred
  | .mask op => maskOpRow op m srcs
  | .kld b => maskRow ((List.range m).map fun e => (b.getLsbD e, 0, e))
  | .scan op => scanRow n op tag0 vlen m src0 pred
  | .comp => compRow n vlen m src0 pred
  | .expd =>
    vectorRow (n.tag.getD .i64) (rmodeOf n.frm) vlen (expdPres n src0 pred (leastLen bound pred.toList) 0 0)
  | .perm => permRow n tag0 vlen (picked.take vlen)
  | _ => pointRow n vlen m srcs pred

end Sys2Proof.Machine
end

