-- ==== Sys2Proof/Machine/PassRead.lean ====
section
/-! DEFINITION. The reading half of a strip (06_forme.md R95): how far each node is needed, the reads of the leaves in
append order with the faults, cuts and waits they meet (07_streams.md R109 to R113; 08_faults.md R124), and the windows of
translations (R113) and of VPERM (20_reference_t_z.md R321; 05_numbers.md R81). -/

namespace Sys2Proof.Machine

/-- What stops a pass at an element (08_faults.md R124). -/
inductive StopCause where
  | fault (c : Cause) (eva : Word)
  | watch (hits : List (Nat × Nat))
  deriving DecidableEq, Repr

/-- A stop: its element, its rank (0 leaf, 1 node, 2 sink) and order (R125), and the pc it is charged to; for a leaf
fault, the leaf. -/
structure Stop where
  elem : Nat
  rank : Nat
  order : Nat
  cause : StopCause
  blame : Word
  leaf : Option Nat
  deriving DecidableEq, Repr

/-- One stop goes before another (R125). -/
def Stop.before (a b : Stop) : Bool :=
  decide (a.elem < b.elem) || (a.elem == b.elem
    && (decide (a.rank < b.rank) || (a.rank == b.rank && decide (a.order < b.order))))

/-- The first of the stops (R125). -/
def firstStop : List Stop → Option Stop
  | [] => none
  | a :: r =>
    match firstStop r with
    | none => some a
    | some b => if b.before a then some b else some a

/-- A part of a leaf's element that the cluster window's owner must send (07_streams.md R110), its leaf numbered as in
Pass.got. -/
structure Ask where
  leaf : Nat
  elem : Nat
  owner : Nat
  off : Nat
  size : Nat
  deriving DecidableEq, Repr

/-! ### How far nodes are needed -/

/-- The next multiple of w. -/
def ceilTo (w n : Nat) : Nat := if w = 0 then n else (n + w - 1) / w * w

/-- The window of a VPERM whose source has a tag (R321). -/
def permWindow (src : Tag) : Nat := if src = .d8s then 248 else 256

/-- The tag of a node's first source. -/
def srcTag (ns : List Node) (n : Node) : Tag := indexTag ns ((n.srcs.head?.map (·.node)).getD 0)

/-- The largest need recorded for a node. -/
def needOf (xs : List (Nat × Nat)) (n : Nat) : Nat :=
  xs.foldl (fun m x => if x.1 = n then max m x.2 else m) 0

/-- The needs a node passes on: a VPERM needs whole windows of va, and reading ahead takes whole D8S blocks (R321;
05_numbers.md R79). -/
def passNeeds (ns : List Node) (vlen top : Nat) (n : Node) (u : Nat) : List (Nat × Nat) :=
  match n.op, n.srcs with
  | .perm, a :: rest =>
    let w := permWindow (srcTag ns n)
    let i := if srcTag ns n = .d8s then ceilTo 31 u else u
    (a.node, min vlen (ceilTo w u)) :: (rest.map (·.node) ++ (n.pred.map (·.node)).toList).map fun x => (x, min vlen i)
  | _, _ =>
    let v := if n.tag = some .d8s ∧ top < u then ceilTo 31 u else u
    n.uses.map fun x => (x, min vlen v)

/-- How many positions of each node a strip that ends at top needs. -/
def needs (v : VecState) (vlen top : Nat) : List (Nat × Nat) :=
  v.forme.reverse.foldl (fun acc n =>
    if acc.any fun x => x.1 == n.id then passNeeds v.forme vlen top n (needOf acc n.id) ++ acc else acc)
    ((v.galley.flatMap Sink.seeds).map fun x => (x, top))

/-! ### Reading a leaf -/

/-- What reading one element comes to. -/
inductive LeafRead where
  | cell (s : State) (c : Nat) (ps : List Piece)
  | stop (s : State) (k : StopCause)
  /-- The owner, offset and size of each part that is still to come: 0 the element, 1 its D8S scale. -/
  | ask (parts : List (Nat × Nat × Nat × Nat))
  | wait

/-- The owner of a cluster-window address and the offset in its scratchpad (R110). -/
def State.packetOwner (s : State) (va : Nat) : Option (Nat × Nat) :=
  if va / 2 ^ 23 = 0x0071000000000000 / 2 ^ 23 then some (s.me.core / 16 * 16 + va / 2 ^ 19 % 16, va % 2 ^ 19)
  else none

/-- The parts of an element that lie in the cluster window and that no packet has brought yet. -/
def State.missingParts (s : State) (got : Nat → Option Nat) (ps : List Piece) : List (Nat × Nat × Nat × Nat) :=
  (ps.mapIdx fun i p => (i, p)).filterMap fun (i, va, _, n) =>
    if (got i).isSome then none else (s.packetOwner va).map fun (o, off) => (i, o, off, n)

/-- Reads the parts of an element: what a packet has brought, under the hart's own buffered stores (12_launch.md R176), or
memory. -/
def State.readParts (got : Nat → Option Nat) : Nat → List Piece → State → State × List Byte
  | _, [], s => (s, [])
  | i, (_, loc, n) :: r, s =>
    let (s1, a) := match got i with
      | some c => (s, s.overlaid loc (leBytes n c))
      | none => s.readLoc loc n
    let (s2, b) := readParts got (i + 1) r s1
    (s2, a ++ b)

/-- The pages that a window of a pass holds pinned (R113). -/
def Pass.pinsOf (p : Pass) (key : Nat) : List Translation := (p.pins.filter fun x => x.1 == key).map (·.2)

/-- A translation window as it is walked: the pages held, and those whose walk fails, which count too (07_streams.md
R113). -/
structure Window where
  s : State
  held : List Translation
  failed : List Nat
  deriving DecidableEq, Repr

/-- The window takes in the page of an address, from the pins held before or by a walk; a fault is not raised yet (R113).
That the walk for a store sink's page sets A and D before an element there is written, even where none is in the end, is the
model's choice (log 28). -/
def Window.add (w : Window) (k : Kind) (old : List Translation) (a : Int) : Window :=
  let va := (addrWord a).toNat
  if !canonicalInt a || (windowLoc w.s.me.core va).isSome || (w.held.any (·.covers va)) || w.failed.contains (va / 2 ^ 18) then
    w
  else
    match old.find? (·.covers va) with
    | some t => { w with held := w.held ++ [t] }
    | none =>
      match w.s.translateWalk w.s.me.cr.ptbase (w.s.me.level == .u) va k with
      | .error _ => { w with s := (w.s.walk w.s.me.cr.ptbase va).1, failed := w.failed ++ [va / 2 ^ 18] }
      | .ok (s1, t) => { w with s := s1, held := w.held ++ [t] }

/-- The window of n pages over addresses (R113). -/
def Window.fill (k : Kind) (old : List Translation) (n : Nat) : List Int → Window → Window
  | [], w => w
  | a :: r, w => if n ≤ w.held.length + w.failed.length then w else fill k old n r (w.add k old a)

/-- The address of the element at place e of a pattern from a position. -/
def patternAddr (d : BitVec 256) (base e : Nat) : Int := streamAddr d ((base + e) % posMod)

/-- The 256 KiB page of an address. -/
def pageNumber (a : Int) : Nat := (addrWord a).toNat / 2 ^ 18

/-- The addresses of a pattern from place e of a pass through its length. -/
def aheadAddrs (d : BitVec 256) (base e len : Nat) : List Int := (List.range (len - e)).map fun i => patternAddr d base (e + i)

/-- The translation window of one leaf or sink as a strip goes on (R113). An indexed one holds at most W pages at a time, in
ascending element order, and a page that it held after the strip before serves until W others have come. An unindexed one moves
on with its pattern d from base: before is the window at the element that performed last, whose page is page, and held what it has
held in the strip. -/
structure Hold where
  indexed : Bool
  width : Nat
  held : List Translation
  before : List Translation
  d : BitVec 256
  base : Nat
  len : Nat
  page : Option Nat
  deriving DecidableEq, Repr

/-- The window at the beginning of a strip: at place e of a pattern from base, which ends at len. -/
def Hold.begin (p : Pass) (key : Nat) (indexed : Bool) (d : BitVec 256) (base e len : Nat) : Hold :=
  { indexed := indexed, width := dWin d, held := [], before := p.pinsOf key, d := d, base := base, len := len
    page := if len ≤ e then none else some (pageNumber (patternAddr d base e)) }

/-- The pages through which an access of the window goes. -/
def Hold.pins (h : Hold) : List Translation :=
  if !h.indexed then h.before else if h.held.length < h.width then h.held ++ h.before else h.held

/-- The window takes in a page; a full one lets go of all that it held. -/
def Hold.add (h : Hold) (t : Translation) : Hold :=
  if h.held.contains t then h
  else if h.held.length < h.width then { h with held := h.held ++ [t] }
  else { h with held := [t], before := [] }

/-- An indexed window takes in the pages of an access that has been located. -/
def Hold.access (h : Hold) (s : State) (k : Kind) (ps : List Piece) : Hold :=
  if h.indexed then (s.pagesOf h.pins k ps).foldl Hold.add h else h

/-- Before the element at place e of an unindexed pattern performs, every page of its window is translated and pinned: the window
changes only where the element lies on another page than the one before (R113). An element whose own page cannot be translated
faults itself. -/
def Hold.slide (h : Hold) (s : State) (k : Kind) (e : Nat) : State × Hold :=
  let page := pageNumber (patternAddr h.d h.base e)
  if h.indexed || h.page == some page then (s, h)
  else if !(Window.fill k h.before 1 [patternAddr h.d h.base e] ⟨s, [], []⟩).failed.isEmpty then (s, h)
  else
    let w := Window.fill k h.before h.width (aheadAddrs h.d h.base e h.len) ⟨s, [], []⟩
    (w.s, { h with before := w.held, page := some page, held := h.held ++ w.held })

/-- Reads element e of a leaf whose position was base when the pass began, through its pins. got gives the parts of it that
packets have brought. -/
def State.leafRead (s : State) (pins : List Translation) (d : BitVec 256) (base e : Nat) (idx : Option Int)
    (got : Nat → Option Nat) : LeafRead :=
  let items := match idx with
    | none => readItems d ((base + e) % posMod)
    | some i => gatherItems d (dStart d + i)
  let first := match idx with
    | none => some (streamAddr d base)
    | some _ => none
  match s.locateItems (some pins) first .read items with
  | .error (s1, c, eva) => .stop s1 (.fault c eva)
  | .ok (s1, ps) =>
    if s1.piecesHeld ps then .wait
    else
      match ps.flatMap fun (va, _, n) => s1.watchOwn va n .read with
      | h :: r => .stop s1 (.watch (h :: r))
      | [] =>
        match s1.missingParts got ps with
        | a :: r => .ask (a :: r)
        | [] =>
          let (s2, bs) := State.readParts got 0 ps s1
          .cell (s2.watchNote .hart .read ps) (leNat bs) ps

/-- A cut of the pass by VLDFF (R112): its element, and the MACHINE records of the walk that faulted there (14_traps.md R207). -/
structure Cut where
  elem : Nat
  told : List Word
  deriving DecidableEq, Repr

/-- The reads of a leaf so far. -/
structure LeafScan where
  s : State
  cells : List (Option Nat)
  stop : Option Stop
  cut : Option Cut
  asks : List Ask
  hold : Hold

/-- A fault at element e of a leaf: a stop, or a VLDFF's cut (R112). told is what its walk has met. -/
def leafStop (n : Node) (cuts : Bool) (e : Nat) (k : StopCause) (told : List Word) : Option Stop × Option Cut :=
  let cut := cuts && decide (0 < e) && (match k with
    | .fault .pagefault _ | .fault .prot _ | .fault .misalign _ => true
    | _ => false)
  if cut then (none, some ⟨e, told⟩)
  else (some { elem := e, rank := 0, order := n.id, cause := k, blame := n.blame, leaf := some n.id }, none)

/-- Reads a leaf from element e on, in ascending order, but for the elements whose values are saved (08_faults.md R127); none
where an access must wait. -/
def readLeaf (p : Pass) (n : Node) (d : BitVec 256) (cuts : Bool) (base : Nat) (marks : List (Nat × Option Nat))
    (pred idx : Option Row) : Nat → Nat → LeafScan → Option LeafScan
  | 0, _, acc => some acc
  | fuel + 1, e, acc =>
    let on := (pred.map fun r => (r.get e).cell.isTrue).getD true
    let i := idx.map fun r => (r.get e).cell.elem?
    match marks.find? fun m => m.1 == e with
    | some m => readLeaf p n d cuts base marks pred idx fuel (e + 1) { acc with cells := acc.cells ++ [m.2] }
    | none =>
    match on, i with
    | false, _ => readLeaf p n d cuts base marks pred idx fuel (e + 1) { acc with cells := acc.cells ++ [none] }
    | true, some none => readLeaf p n d cuts base marks pred idx fuel (e + 1) { acc with cells := acc.cells ++ [none] }
    | true, i =>
      let got (k : Nat) : Option Nat := (p.got.find? fun g => g.1 == 2 * n.id + k && g.2.1 == e).map fun g => g.2.2
      let (s0, h0) := acc.hold.slide acc.s .read e
      match s0.leafRead h0.pins d base e (i.bind fun x => x.map fun y => y.int false) got with
      | .wait => none
      | .stop s1 k =>
        let (st, cut) := leafStop n cuts e k (s1.me.machine.drop s0.me.machine.length)
        some { acc with s := if acc.asks.isEmpty then s1 else acc.s, stop := st, cut := cut }
      | .ask parts =>
        readLeaf p n d cuts base marks pred idx fuel (e + 1)
          { acc with asks := acc.asks ++ parts.map fun (k, owner, off, size) =>
              { leaf := 2 * n.id + k, elem := e, owner := owner, off := off, size := size } }
      | .cell s1 c ps =>
        let acc1 := { acc with hold := h0.access s0 .read ps }
        readLeaf p n d cuts base marks pred idx fuel (e + 1)
          (if acc.asks.isEmpty then { acc1 with s := s1, cells := acc.cells ++ [some c] } else acc1)

/-! ### VPERM -/

/-- The position of va that element e of a VPERM selects, in a window that starts at wb (R321). -/
def permSelect (w wb e : Nat) (idx pred : Option Row) : Option Nat :=
  let on := (pred.map fun r => (r.get e).cell.isTrue).getD true
  match on, idx.bind fun r => (r.get e).cell.elem? with
  | true, some x => some (wb + x.bits % w)
  | _, _ => none

/-- A D8S block of the result splits a block of the source (R81): its first element is b0; known gives the selected
position of each active element. -/
def splitsBlock (b0 top : Nat) (known : Nat → Option Nat) : Bool :=
  let sel := (List.range (top - b0)).filterMap fun j => (known (b0 + j)).map fun p => (j, p)
  match sel with
  | [] => false
  | (j0, p0) :: _ =>
    decide (p0 < j0) || (p0 - j0) % 31 != 0 || sel.any fun (j, p) => p + j0 != p0 + j

/-- What the selections of a VPERM come to in one window: the further selections, a stop, and whether the window is
done. -/
structure Picks where
  picked : List (Option (Nat × Int))
  stops : List Stop
  more : Bool

/-- The selections of a VPERM in the window of its next element (R321, R81). faults are the stops at leaves that va
reaches. -/
def pickWindow (n : Node) (src : Tag) (vlen bound : Nat) (va : Row) (idx pred : Option Row) (faults : List Stop)
    (picked : List (Option (Nat × Int))) : Picks :=
  let w := permWindow src
  let e0 := picked.length
  let wb := e0 / w * w
  let wend := min (wb + w) vlen
  let have1 := va.ents.length
  let whole := decide (wend ≤ have1)
  let pf := firstStop (faults.filter fun f => decide (wb ≤ f.elem) && decide (f.elem < wend))
  let known := leastLen vlen (idx.toList ++ pred.toList)
  let lim := if whole then wend else min have1 ((pf.map (·.elem)).getD have1)
  let top0 := min (min bound wend) known
  let top := if whole then top0 else min top0 ((pf.map (·.elem)).getD e0)
  let sel (e : Nat) : Option Nat := (permSelect w wb e idx pred).filter fun p => decide (p < vlen)
  let active (e : Nat) : Option Nat := if known ≤ e then none else
    (sel e).filter fun p => decide (p < lim) && (va.get p).cell.elem?.isSome
  let es := if whole then none
    else ((List.range (top - e0)).map (· + e0)).find? fun e => match sel e with
      | some p => decide (lim ≤ p)
      | none => false
  let end1 := es.getD top
  let bad := if src = .d8s then
      ((List.range ((end1 + 30) / 31 - e0 / 31)).map fun i => 31 * (e0 / 31 + i)).find? fun b0 =>
        splitsBlock b0 (min (b0 + 31) wend) fun e => (active e).map fun p => p - wb
    else none
  let end2 := max e0 (min end1 (bad.getD end1))
  let new := (List.range (end2 - e0)).map fun j => (active (e0 + j)).bind fun p =>
    (va.get p).cell.elem?.map fun x => (x.bits, x.scale)
  let s1 : List Stop := match es, pf with
    | some e, some f => [{ f with elem := e }]
    | _, _ => []
  let s2 : List Stop := match bad with
    | some b0 => [{ elem := b0, rank := 1, order := n.id, cause := .fault .tagerr 0, blame := n.blame, leaf := none }]
    | none => []
  { picked := picked ++ new, stops := s1 ++ s2, more := whole && bad.isNone && end2 == wend && decide (e0 < wend) }

/-- The selections of a VPERM through a bound, window by window. -/
def pickAll (n : Node) (src : Tag) (vlen bound : Nat) (va : Row) (idx pred : Option Row) (faults : List Stop) :
    Nat → List (Option (Nat × Int)) → List (Option (Nat × Int)) × List Stop
  | 0, picked => (picked, [])
  | fuel + 1, picked =>
    if bound ≤ picked.length then (picked, [])
    else
      let r := pickWindow n src vlen bound va idx pred faults picked
      if r.more then
        let (q, st) := pickAll n src vlen bound va idx pred faults fuel r.picked
        (q, r.stops ++ st)
      else (r.picked, r.stops)

/-! ### The sweep -/

/-- A strip's reading as far as it has gone through the nodes: env holds the values, and again the values that the windows
of VPERM see where they read anew (R321). -/
structure Sweep where
  s : State
  env : Env
  again : Env
  leaves : List LeafRun
  perms : List PermRun
  stops : List Stop
  cut : Option Cut
  asks : List Ask
  /-- The pages that indexed leaves hold after the strip (R113), keyed as in Pass.pins. -/
  pins : List (Nat × Translation)

/-- The first of two cuts (R112); where both are at one element, each has told what it met. -/
def minCut : Option Cut → Option Cut → Option Cut
  | none, b => b
  | a, none => a
  | some a, some b =>
    if a.elem < b.elem then some a else if b.elem < a.elem then some b else some ⟨a.elem, a.told ++ b.told⟩

/-- The run of a leaf in a pass. -/
def runOf (ls : List LeafRun) (n : Nat) : LeafRun :=
  (ls.find? fun l => l.node == n).getD { node := n, base := 0, lo := 0, hi := -1, cells := [], kept := [], marks := [] }

/-- The selections of a VPERM in a pass. -/
def permOf (ps : List PermRun) (n : Nat) : List (Option (Nat × Int)) :=
  ((ps.find? fun x => x.node == n).map (·.picked)).getD []

/-- Further selections that an earlier stop has saved (08_faults.md R127). -/
def permMarks (ps : List PermRun) (n : Nat) : List (Nat × Option (Nat × Int)) :=
  ((ps.find? fun x => x.node == n).map (·.marks)).getD []

/-- The selections with the saved ones in their places. -/
def withMarks (ms : List (Nat × Option (Nat × Int))) (xs : List (Option (Nat × Int))) : List (Option (Nat × Int)) :=
  xs.mapIdx fun i x => ((ms.find? fun m => m.1 == i).map (·.2)).getD x

/-- Records the selections of a VPERM. -/
def setPerm (ps : List PermRun) (n : Nat) (xs : List (Option (Nat × Int))) : List PermRun :=
  { node := n, picked := withMarks (permMarks ps n) xs, marks := permMarks ps n } :: ps.filter fun x => x.node != n

/-- Reads one leaf through a bound. One whose predicate or index waits for packets sends none of its own yet, so that the elements
of a group that one owner holds go together (07_streams.md R110, R111). -/
def Sweep.leaf (w : Sweep) (p : Pass) (n : Node) (d : BitVec 256) (cuts : Bool) (vlen bound : Nat) : Option Sweep :=
  let r := runOf w.leaves n.id
  let pred := n.pred.map fun e => w.env.row e.node
  let idx := n.srcs.head?.map fun e => w.env.row e.node
  let lim := leastLen bound (pred.toList ++ idx.toList)
  match readLeaf p n d cuts r.base r.marks pred idx (lim - r.cells.length) r.cells.length
      { s := w.s, cells := r.cells, stop := none, cut := none, asks := []
        hold := Hold.begin p (2 * n.id) (!n.srcs.isEmpty) d r.base (min r.cells.length p.progress) vlen } with
  | none => none
  | some l =>
    some { w with
      s := l.s
      pins := w.pins ++ l.hold.held.map fun t => (2 * n.id, t)
      leaves := w.leaves.map fun x => if x.node = n.id then { x with cells := l.cells } else x
      stops := w.stops ++ l.stop.toList
      cut := minCut w.cut l.cut
      asks := w.asks ++ (if decide (lim < bound) && !w.asks.isEmpty then [] else l.asks) }

/-- Takes one node into the sweep: its reads, its selections and its row, none of them beyond its own recorded VL
(06_forme.md R90). -/
def Sweep.node (w : Sweep) (p : Pass) (ns : List Node) (passLen upTo : Nat) (n : Node) : Option Sweep := do
  let vlen := min passLen n.len
  let bound := min upTo n.len
  let w1 ← match n.op with
    | .leaf _ d _ cuts => w.leaf p n d cuts vlen bound
    | .perm =>
      let va := (n.srcs.head?.map (·.node)).getD 0
      let reach := reachFrom ns [va]
      let (q, st) := pickAll n (srcTag ns n) vlen bound (w.again.row va) (n.srcs[1]?.map fun e => w.env.row e.node)
        (n.pred.map fun e => w.env.row e.node)
        (w.stops.filter fun f => match f.leaf with | some l => reach.contains l | none => false)
        (bound + 1) (permOf w.perms n.id)
      some { w with perms := setPerm w.perms n.id q, stops := w.stops ++ st }
    | _ => some w
  let l := runOf w1.leaves n.id
  let picked := permOf w1.perms n.id
  let row := nodeRow ns w1.env vlen bound l.view picked n
  let row2 := nodeRow ns w1.again vlen bound l.cells picked n
  some { w1 with env := (n.id, row) :: w1.env, again := (n.id, row2) :: w1.again }

/-- Sweeps the nodes in append order. -/
def sweepNodes (p : Pass) (ns : List Node) (vlen : Nat) (want : List (Nat × Nat)) :
    List Node → Sweep → Option Sweep
  | [], w => some w
  | n :: r, w =>
    match w.node p ns vlen (min vlen (needOf want n.id)) n with
    | none => none
    | some w1 => sweepNodes p ns vlen want r w1

/-- The nodes that the pending sinks reach, in append order. -/
def reachedNodes (v : VecState) : List Node :=
  let reach := galleyReach v
  v.forme.filter fun n => reach.contains n.id

/-- The reading of a strip that ends at top, in a pass of length vlen; a cut makes it the reading of a shorter pass, whose other
reads raise nothing (07_streams.md R112), with the MACHINE records of the walk that faulted at the cut (14_traps.md R207). None where
it must wait. -/
def State.readStrip (s : State) (p : Pass) (vlen top : Nat) : Option (Sweep × Nat) :=
  let v := s.me.vec
  let w0 : Sweep := ⟨s, [], [], p.leaves, p.perms, [], none, [], []⟩
  let go (n : Nat) := sweepNodes p v.forme n (needs v n (min top n)) (reachedNodes v) w0
  match go vlen with
  | none => none
  | some w =>
    match w.cut with
    | none => some (w, vlen)
    | some c => (go (min c.elem vlen)).map fun w1 =>
        ({ w1 with s := { w1.s with me := { w1.s.me with machine := w1.s.me.machine ++ c.told } } }, min c.elem vlen)

end Sys2Proof.Machine
end

