-- ==== Sys2Proof/Machine/PassStop.lean ====
section
/-! DEFINITION. What a pass leaves behind: the positions and START fields as it advances (06_forme.md R96), its flags
(05_numbers.md R83), and its saved state when it stops (08_faults.md R125, R126; 14_traps.md R209). -/

namespace Sys2Proof.Machine

/-- The longest recorded length of a pending sink. -/
def galleyLen (v : VecState) : Nat := (v.galley.map (sinkLen v)).foldl max 0

/-- The length of the pass over the galley: the common recorded length, the longest where the sinks' lengths differ (log
33), or a VLDFF's cut (06_forme.md R92, R95; 07_streams.md R112). -/
def passLen (v : VecState) (p : Pass) : Nat :=
  let n := galleyLen v
  match p.cut with
  | none => n
  | some c => min c n

/-- The values of the reached nodes from what the pass holds, as far as some strip end. -/
def rowsOf (v : VecState) (p : Pass) (vlen top : Nat) : Env :=
  let want := needs v vlen top
  (reachedNodes v).foldl (fun env n =>
    let bound := min vlen n.len
    (n.id, nodeRow v.forme env bound (min bound (needOf want n.id)) (runOf p.leaves n.id).view (permOf p.perms n.id) n)
      :: env) []

/-- The nodes at and downstream of a VCOMP: what reaches one through its sources, its index or its predicate (R96; log
17). -/
def compNodes (ns : List Node) : List Nat :=
  ns.foldl (fun acc n =>
    match n.op with
    | .comp => n.id :: acc
    | _ => if n.uses.any acc.contains then n.id :: acc else acc) []

/-! ### Sinks -/

/-- An element of a store sink that is to be written, or passed over. -/
structure SinkElem where
  val : Option Elem
  idx : Option Int
  due : Nat
  deriving DecidableEq, Repr

/-- Elements without the inactive ones at their end. -/
def dropTail : List SinkElem → List SinkElem
  | [] => []
  | x :: r =>
    match dropTail r with
    | [] => if x.val.isSome then [x] else []
    | y :: ys => x :: y :: ys

/-- The known elements of a store sink, and whether they are all (R90, R91); downstream of VCOMP the positions after the
last active one hold nothing to write (log 17). -/
def sinkElems (env : Env) (comp : List Nat) (vlen : Nat) (g : Sink) : List SinkElem × Bool :=
  let row := env.row g.node
  let pred := g.pred.map env.row
  let idx := match g.op with
    | .store _ _ _ i => i.map env.row
    | _ => none
  let m := leastLen (min vlen row.ents.length) (pred.toList ++ idx.toList)
  let xs := (List.range m).map fun j =>
    let x := row.get j
    let on := (pred.map fun r => (r.get j).cell.isTrue).getD true
    let i := idx.map fun r => (r.get j).cell.elem?
    { val := if on && i != some none then x.cell.elem? else none
      idx := i.bind fun y => y.map fun z => z.int false
      due := latest j (x :: ((pred.map fun r => r.get j).toList ++ (idx.map fun r => r.get j).toList)) : SinkElem }
  (if comp.contains g.node then dropTail xs else xs, m == vlen)

/-- How many of the first n elements are written. -/
def writtenIn (xs : List SinkElem) (n : Nat) : Nat := ((xs.take n).filter fun x => x.val.isSome).length

/-- The position of a store sink that has passed n elements: downstream of VCOMP it counts those written (R96), but a D8S
sink moves by whole blocks (05_numbers.md R80). -/
def sinkAdvance (env : Env) (comp : List Nat) (vlen : Nat) (g : Sink) (n : Nat) : Nat :=
  match g.op with
  | .store _ d _ _ =>
    if comp.contains g.node && dFmt d != .d8s then writtenIn (sinkElems env comp vlen g).1 n else n
  | _ => 0

/-! ### Positions -/

/-- A leaf or sink that stands for a q register: program order, register, position. -/
abbrev Mark := Nat × QReg × Nat

/-- Marks in program order. -/
def insertMark (m : Mark) : List Mark → List Mark
  | [] => [m]
  | x :: r => if m.1 ≤ x.1 then m :: x :: r else x :: insertMark m r

def sortMarks (ms : List Mark) : List Mark := ms.foldr insertMark []

/-- The START fields that the attached leaves and sinks of the pass write: that of the one appended last (R96). -/
def writeStarts (v : VecState) (marks : List Mark) : VecState :=
  (sortMarks marks).foldl (fun w m => { w with
    q := w.q.set m.2.1.toFin (dSetStart (w.q.get m.2.1.toFin) m.2.2) }) v

/-- Every position after a pass has come so far (R96). -/
def syncPositions (v : VecState) (p : Pass) (env : Env) (vlen : Nat) : VecState :=
  let comp := compNodes v.forme
  let forme := v.forme.map fun n =>
    match p.leaves.find? fun l => l.node == n.id with
    | some l => { n with pos := (l.base + min l.cells.length p.progress) % posMod }
    | none => n
  let galley := (v.galley.zip p.commits).map fun (g, c) =>
    match g.op with
    | .store _ d _ _ => { g with pos := (dStart d + sinkAdvance env comp (min vlen (sinkLen v g)) g c) % posMod }
    | _ => g
  let m1 : List Mark := forme.filterMap fun n =>
    match n.op with
    | .leaf q _ _ _ =>
      if n.detached || !(p.leaves.any fun l => l.node == n.id) then none else some (n.seq, q, n.pos)
    | _ => none
  let m2 : List Mark := galley.filterMap fun g =>
    match g.op with
    | .store q _ _ _ => if g.detached then none else some (g.seq, q, g.pos)
    | _ => none
  writeStarts { v with forme := forme, galley := galley, pass := some p } (m1 ++ m2)

/-! ### Flags -/

/-- The flags of entries known below an element, from the n-th on, and how many entries that is. -/
def flagsFrom (xs : List (FlagSet × Nat)) (n e : Nat) : FlagSet × Nat :=
  let ys := xs.takeWhile fun x => decide (x.2 < e)
  ((ys.drop n).foldl (fun f x => f ||| x.1) 0, max n ys.length)

/-- The count recorded under a key. -/
def countOf (xs : List (Nat × Nat)) (k : Nat) : Nat := ((xs.find? fun x => x.1 == k).map (·.2)).getD 0

/-- The lane flags of the elements below e that are not yet in VFLAGS, and the counts then (05_numbers.md R83). -/
def laneFlags (env : Env) (flagged : List (Nat × Nat)) (e : Nat) : FlagSet × List (Nat × Nat) :=
  env.foldl (fun (f, xs) r =>
    let (a, m) := flagsFrom r.2.raws (countOf flagged (2 * r.1)) e
    let (b, n) := flagsFrom r.2.encs (countOf flagged (2 * r.1 + 1)) e
    (f ||| a ||| b, (2 * r.1, m) :: (2 * r.1 + 1, n) :: xs)) (0, [])

/-! ### Stopping -/

/-- What a reduction or count takes in at an element: the bits and block scale there, 1 for a true bit, none where it takes in
nothing (05_numbers.md R84; 09_control.md R131). -/
def sinkCell (env : Env) (g : Sink) (e : Nat) : Option (Nat × Int) :=
  if (g.pred.map fun k => ((env.row k).get e).cell.isTrue).getD true then
    match ((env.row g.node).get e).cell with
    | .elem x => some (x.bits, x.scale)
    | .bit true => some (1, 0)
    | _ => none
  else none

/-- What it has taken in through the n-th element: what an earlier stop has saved, then what the pass holds (08_faults.md
R126). -/
def sinkCells (env : Env) (g : Sink) (taken : List (Option (Nat × Int))) (n : Nat) : List (Option (Nat × Int)) :=
  taken.take n ++ (List.range (n - taken.length)).map fun i => sinkCell env g (taken.length + i)

/-- The same as elements of a reduction. -/
def redCells (ns : List Node) (g : Sink) (xs : List (Option (Nat × Int))) : List (Option Elem) :=
  xs.map fun x => x.map fun y => ⟨indexTag ns g.node, y.1, y.2⟩

/-- The flags of a reduction from the k-th element on, once the pass has come to its n-th (R83; R125; log 18). -/
def sinkFlagsFrom (v : VecState) (env : Env) (vlen lanes k n : Nat) (g : Sink) (taken : List (Option (Nat × Int))) :
    FlagSet :=
  let m := min vlen (sinkLen v g)
  match g.op with
  | .red op lam _ =>
    ((reduceFlags op lam g.frm lanes (indexTag v.forme g.node) (decide (m ≤ n))
        (redCells v.forme g (sinkCells env g taken (min n m)))).drop k).foldl (fun f x => f ||| x) 0
  | _ => 0

/-- The sinks of the pass with their commits and what they have taken in. -/
def sinkStates (v : VecState) (p : Pass) : List (Sink × Nat × List (Option (Nat × Int))) :=
  v.galley.zip (p.commits.zip p.taken)

/-- Every reduction and count takes in the elements below its limit, where a pass stops or goes on (R98; R125, R127). -/
def takeIn (v : VecState) (env : Env) (vlen : Nat) (p : Pass) (limit : Sink → Nat) : List (List (Option (Nat × Int))) :=
  (sinkStates v p).map fun (g, _, xs) =>
    match g.op with
    | .store .. => []
    | _ => sinkCells env g xs (max xs.length (min (limit g) (min vlen (sinkLen v g))))

/-- The reductions' flags of the elements below e, and the commits with those elements counted (R83, R125). -/
def redFlags (v : VecState) (env : Env) (vlen lanes e : Nat) (p : Pass) : FlagSet × List Nat :=
  ((sinkStates v p).foldl (fun f (g, k, xs) => f ||| sinkFlagsFrom v env vlen lanes k e g xs) 0,
    (sinkStates v p).map fun (g, k, _) => match g.op with
      | .store .. => k
      | _ => max k (min e (min vlen (sinkLen v g))))

/-- The leaves that are read again from the start of a window after a fault at a leaf that VPERMs reach, with that
position (20_reference_t_z.md R321). -/
def rewinds (ns : List Node) (reached : List Node) (leaf e : Nat) : List (Nat × Nat) :=
  reached.flatMap fun n =>
    match n.op, n.srcs.head? with
    | .perm, some a =>
      let r := reachFrom ns [a.node]
      if r.contains leaf then
        let w := permWindow (srcTag ns n)
        r.map fun x => (x, e / w * w)
      else []
    | _, _ => []

/-- A leaf's run when the pass stops at e: elements from e on are read again, but for the marked ones, and where a window is
read anew from an earlier position the values below e are kept (R321; 08_faults.md R127). -/
def LeafRun.stop (l : LeafRun) (e : Nat) (back : List (Nat × Nat)) (marked : Nat → Bool) : LeafRun :=
  let l1 := { l with marks := (fromOn e l.view ++ l.marks).filter fun m => marked m.1 }
  match (back.filter fun x => x.1 == l.node).map (·.2) with
  | [] => { l1 with cells := l.cells.take e, kept := l.kept.take e }
  | a :: r => { l1 with cells := l.cells.take (r.foldl min a), kept := l.view.take e }

/-- The pass has a gather or a scatter. -/
def indexedPass (v : VecState) : Bool :=
  ((reachedNodes v).any fun n => n.isLeaf && !n.srcs.isEmpty)
    || v.galley.any fun g => match g.op with
      | .store _ _ _ (some _) => true
      | _ => false

/-- Every reached node has an element, or its values are saved already (R125, R126). -/
def hasElem (v : VecState) (p : Pass) (env : Env) (i : Nat) : Bool :=
  ((reachedNodes v).all fun n => decide (i < (env.row n.id).ents.length))
    || (!p.leaves.isEmpty && p.leaves.all fun l => l.marks.any fun m => m.1 == i)

/-- The completion mask of the partial strip that a stop at e leaves: the elements below e, and in a pass with a gather or
scatter those from e on that every node has (R125, R126). -/
def stopMask (v : VecState) (p : Pass) (env : Env) (e sl : Nat) : BitVec 1024 :=
  let low := BitVec.ofNat 1024 (2 ^ (e % sl) - 1)
  if !indexedPass v then low
  else
    ((List.range sl).filter fun i => decide (e % sl ≤ i) && hasElem v p env (e / sl * sl + i)).foldl
      (fun m i => m ||| BitVec.ofNat 1024 (2 ^ i)) low

/-- The pass stops at element e: FDEMAND, PASSP and ECMW, the saved state, and the flags of the elements below e (R125,
R126). -/
def State.stopPass (s : State) (p : Pass) (e : Nat) (back : List (Nat × Nat)) : State :=
  let v := s.me.vec
  let vlen := passLen v p
  let sl := passSl v
  let env := rowsOf v p vlen (min ((e / sl + 1) * sl) vlen)
  let mask := stopMask v p env e sl
  let marked (i : Nat) : Bool := decide (e ≤ i) && stripBit sl e i mask
  let (f0, flagged) := laneFlags env p.flagged e
  let (f1, commits) := redFlags v env vlen s.myCore.lanes e p
  let p1 : Pass := { p with
    progress := e
    saved := e
    cut := none
    leaves := p.leaves.map fun l => l.stop e back marked
    perms := p.perms.map fun x => x.resume e marked
    flagged := flagged
    sinkFlags := 0
    commits := commits
    suspended := true
    pins := []
    got := [] }
  let s1 := s.orFlags (f0 ||| f1 ||| p.sinkFlags)
  { s1 with me := { s1.me with
      vec := syncPositions v p1 env vlen
      cr := { s1.me.cr with
        fdemand := keepBits p.demand 55 2 ||| 1
        passp := BitVec.ofNat 64 e
        ecmw := mask } } }

end Sys2Proof.Machine
end

