-- ==== Sys2Proof/Machine/Trace.lean ====
section
/-! DEFINITION. TRACE and its buffer, and the delivery of watch records: major 2C (15_debug.md R219 to R222, R229). -/

namespace Sys2Proof.Machine

/-- A trace record of the hart (R219, R220). -/
def State.traceRecord (s : State) (p : Word) (ch : BitVec 6) : TraceRecord where
  payload := p
  channel := ch
  hart := s.me.slot
  provisional := s.me.provisional
  stamp := s.time.setWidth 48
  owner := s.me.num

/-- The records that wait for room once the hart's TRACE has issued: its own is made, and its time read, at the first attempt
(R219). -/
def State.traceQueue (s : State) (p : Word) (ch : BitVec 6) : List TraceRecord :=
  let ws := s.myCore.traceWait
  if ws.any fun r => r.owner == s.me.num then ws else ws ++ [s.traceRecord p ch]

/-- The effect of TRACE: the record enters the FIFO in the order of issue, when there is room (R219). -/
def traceBody (p : Word) (ch : BitVec 6) (s : State) : Res State :=
  let c := s.myCore
  if c.trsize = 0 then .ok s
  else
    let ws := s.traceQueue p ch
    match ws with
    | [] => .ok s
    | r :: rest =>
      if r.owner == s.me.num && decide (c.traceFifo.length < 64) && !s.me.signalBlocked .s then
        .ok (s.setCore { c with traceFifo := c.traceFifo ++ [r], traceWait := rest })
      else .error (.wait (s.setCore { c with traceWait := ws }))

def execTrace (a : SReg) (ch : BitVec 6) (s : State) : Host.Outcome State Fault Refusal :=
  unit { scalars := [a] } s (traceBody (s.me.reg a) ch s)

/-- The sixteen bytes of a record (R220). -/
def TraceRecord.bytes (r : TraceRecord) : List Byte :=
  leBytes 8 r.payload.toNat
    ++ leBytes 8 (r.channel.toNat * 2 ^ 58 + r.hart % 8 * 2 ^ 55 + r.provisional.toNat * 2 ^ 54 + r.stamp.toNat)

/-- The location that a record is written to, through the captured PTBASE at S; none where translation fails, with the errors
that its walk has met (R221, R222; 14_traps.md R207). -/
def State.traceLoc (s : State) (ptbase : Option Word) (va : Word) : State × Option Nat :=
  match ptbase with
  | none => (s, none)
  | some pt =>
    if !canonical va then (s, none)
    else
      match windowLoc s.me.core va.toNat with
      | some loc => (s, if s.me.miller then none else some loc)
      | none =>
        match s.translateAs pt false va.toNat .write with
        | .error _ => (s.missedAs pt false va .write, none)
        | .ok (s1, t) =>
          let (s2, loc) := s1.frameOf t va.toNat
          (s2, some loc)

/-- The trace registers after a record has left the FIFO (R221, R222). -/
def Core.traceNext (c : Core) (dropped : Bool) : Core :=
  { c with
    traceFifo := c.traceFifo.drop 1
    trhead := BitVec.ofNat 64 ((c.trhead.toNat + 16) % c.trsize.toNat)
    trdrops := if dropped && c.trdrops != 0xFFFFFFFF then c.trdrops + 1 else c.trdrops }

/-- TRACE_RECORD_WRITE: the oldest record of a core drains into the buffer, for the hart that issued it (R221, R222). -/
def execTraceRecordWrite (core : Nat) (s : State) : Host.Outcome State Fault Refusal :=
  let c := s.coreAt core
  match c.traceFifo with
  | [] => .next s
  | r :: _ =>
    let s0 := s.select r.owner
    match s0.traceLoc c.trptbase (sx56 c.trbase + c.trhead) with
    | (s1, none) => .next (s1.setCore (c.traceNext true))
    | (s1, some loc) =>
      if s1.heldByOther loc 16 then .next s
      else .next ((s1.performWrite loc r.bytes).setCore (c.traceNext false))

/-- WATCH_RECORD: the oldest record on its way reaches its core's queue, is dropped when eight wait there, or is
discarded with its owner gone (R229). -/
def execWatchRecord (s : State) : Host.Outcome State Fault Refusal :=
  match s.watchFlight with
  | [] => .next s
  | r :: rs =>
    let s1 : State := { s with watchFlight := rs }
    let c := s1.coreAt r.core
    if !s1.harts.any fun h => h.num == r.owner && h.resident then .next s1
    else if 8 ≤ c.watchQueue.length then .next (s1.setCore { c with lost := r.owner :: c.lost })
    else .next (s1.setCore { c with
      watchQueue := c.watchQueue ++ [{ r with lost := c.lost.contains r.owner }]
      lost := c.lost.filter fun n => n != r.owner })

end Sys2Proof.Machine
end

