-- ==== Sys2Proof/Machine/Dump.lean ====
section
/-! DEFINITION. The core dump that the management controller writes at a mailbox request (15_debug.md R230, R231). -/

namespace Sys2Proof.Machine

/-! ### Stopping the harts -/

/-- A running pass of the hart whose turn it is stops at its strip boundary, and an order program between two steps (R230;
14_traps.md R209). -/
def State.haltPass (s : State) : State :=
  let s1 : State := { s with me := { s.me with brun := none } }
  match s1.me.vec.pass with
  | none => s1
  | some p => if p.suspended then s1 else s1.stopPass p p.progress []

/-- A pass of the hart waits for packets, so that it has not reached a strip boundary. -/
def Hart.packetsOut (h : Hart) : Bool := (h.vec.pass.map fun p => p.outstanding != 0).getD false

/-- The resident harts of a core, in ascending index. -/
def State.dumpHarts (s : State) (core : Nat) : List Nat :=
  (List.range 8).filterMap fun i =>
    (s.harts.find? fun h => h.core == core && h.slot == i && h.resident).map (·.num)

/-- The harts of the dumped cores stop, each in its turn. -/
def State.haltAll (s : State) (ns : List Nat) : State :=
  ns.foldl (fun t n => (t.select n).haltPass) s

/-! ### Records -/

/-- Record 0 and 1 with the payload (R230). -/
def dumpRecord (type core hart : Nat) (payload : List Byte) : List Byte :=
  dwords [type * 2 ^ 56 + core % 2 ^ 10 * 2 ^ 46 + hart % 8 * 2 ^ 43 + payload.length % 2 ^ 32, 0] ++ payload

/-- The numbers of a type 1 record, as the state holds them for its hart's turn (R230). -/
def State.coreNumbers (s : State) : List Nat :=
  ([0x401, 0x402, 0x403, 0x404] ++ (List.range 12).map (0x410 + ·) ++ (List.range 32).map (0x420 + ·)).map fun n =>
    (s.crValue n).toNat

/-- The type 1 record of a core: seen from a hart on it. -/
def State.coreRecord (s : State) (core : Nat) : List Byte :=
  let c := s.coreAt core
  let view : State := { s with me := Hart.reset (8 * core) core 0 false }
  dumpRecord 1 core 0 (dwords ([c.lmod] ++ ((List.range 9).map fun j => (c.lremap j).toNat) ++ view.coreNumbers))

/-- The type 3 record of a hart with a suspended pass. -/
def Hart.passRecord (h : Hart) : List Byte :=
  dumpRecord 3 h.core h.slot (dwords [h.cr.fdemand.toNat, h.cr.fblame.toNat, h.cr.felem.toNat, h.cr.passp.toNat])

/-- The hart as its image shows it: stopped as pre-emption stops it, with the tokens of units that have not retired in their
FIFOs, and with EPC and ESTATUS as the entry would leave them, since no other field of the dump holds the pc and the level (R230;
14_traps.md R208, R209; log 11). -/
def Hart.asStopped (h : Hart) : Hart :=
  { h.returnEarly with
    cr := { h.cr with
      epc := keepBits h.unitPc 55 2
      estatus := esMake (h.cr.fdemand.getLsbD 0) (esIe h.cr.estatus) false (h.level == .s) } }

/-- The type 2 record: the sections that the header marks present (R230; log 11). -/
def Hart.contextRecord (h : Hart) (c : Core) (handle : Nat) : List Byte :=
  dumpRecord 2 h.core h.slot ((imageSections h.asStopped c handle).flatMap (·.2))

/-- The type 4 record. -/
def Hart.pairRecord (h : Hart) : List Byte :=
  dumpRecord 4 h.core h.slot (dwords (h.cr.pairw.toList.map BitVec.toNat))

/-- Where the buffer holds a trace record, through the captured PTBASE; none where translation fails. -/
def State.traceAt (s : State) (c : Core) (off : Nat) : Option Nat :=
  let view : State := { s with me := Hart.reset (8 * c.num) c.num 0 false }
  (view.traceLoc c.trptbase (sx56 c.trbase + BitVec.ofNat 64 off)).2

/-- One trace record's bytes, which the controller reads: all ones where no memory backs them or an uncorrectable error is marked
(14_traps.md R207; 16_system.md R333). That they are ones too where the buffer's translation fails is the model's choice (log
11). -/
def State.traceBytes (s : State) (loc : Option Nat) : State × List Byte :=
  match loc with
  | none => (s, onesBytes 16)
  | some l => (s.remoteNote .read l 16, if s.sound l 16 then memBytes s.mem l 16 else onesBytes 16)

/-- The type 5 record: the buffer, oldest record first from TRHEAD. -/
def State.traceDump (s : State) (c : Core) : State × List Byte :=
  let n := c.trsize.toNat
  let (s1, bs) := (List.range (n / 16)).foldl (fun (t, acc) i =>
    let (t1, b) := t.traceBytes (s.traceAt c ((c.trhead.toNat + 16 * i) % n))
    (t1, acc ++ b)) (s, ([] : List Byte))
  (s1, dumpRecord 5 c.num 0 bs)

/-- A record yet to be written: its length and its bytes. -/
structure Pending where
  size : Nat
  bytes : State → State × List Byte

/-- A record whose bytes are known. -/
def Pending.of (bs : List Byte) : Pending := { size := bs.length, bytes := fun s => (s, bs) }

/-- The type 2 record of a hart; what its opaque sections stand for is kept. -/
def contextPending (h : Hart) (c : Core) : Pending :=
  { size := (h.contextRecord c 0).length
    bytes := fun s =>
      ({ s with nextImage := s.nextImage + 1, saved := h.sections s.nextImage :: s.saved },
        h.contextRecord c s.nextImage) }

/-- The records of a core, in the order of R231. -/
def State.coreRecords (s : State) (core : Nat) : List Pending :=
  let c := s.coreAt core
  let hs := (s.dumpHarts core).filterMap s.hart?
  [Pending.of (s.coreRecord core)]
    ++ hs.flatMap (fun h =>
      (if h.cr.fdemand.getLsbD 0 then [Pending.of h.passRecord] else [])
        ++ [contextPending h c, Pending.of h.pairRecord])
    ++ (if c.trsize = 0 then []
      else [{ size := 16 + c.trsize.toNat, bytes := fun t => t.traceDump c }])

/-! ### Writing -/

/-- How a dump has gone so far: bytes written, whole records, TRUNC, FAULT. -/
structure Progress where
  len : Nat
  count : Nat
  trunc : Bool
  fault : Bool

/-- Writes the records until the buffer is full or a write fails (R231). -/
def writeRecords (pa size : Nat) : List Pending → State → Progress → State × Progress
  | [], s, p => (s, p)
  | r :: rs, s, p =>
    if size < p.len + r.size then (s, { p with trunc := true })
    else
      let (s1, bs) := r.bytes s
      let k := s1.mgmtSpan (pa + p.len) bs.length
      let s2 := s1.mgmtWrite (pa + p.len) bs
      if k < bs.length then (s2, { p with len := p.len + k, fault := true })
      else writeRecords pa size rs s2 { p with len := p.len + bs.length, count := p.count + 1 }

/-- The header (R230). -/
def dumpHeader (p : Progress) (complete : Bool) (start size : Nat) : List Byte :=
  dwords [complete.toNat * 2 ^ 63 + p.trunc.toNat * 2 ^ 62 + p.fault.toNat * 2 ^ 61
      + Config.partId % 2 ^ 20 * 2 ^ 16 + 1, p.len, p.count, start, size, 0, 0, 0]

/-- The dump of cores a to b into a buffer of a size, its STATUS in the mailbox record r (R230, R231, R237). -/
def State.dump (s : State) (r a b pa size : Nat) : State :=
  let p0 : Progress := { len := 64, count := 0, trunc := false, fault := false }
  let cores := (List.range (b + 1 - a)).map fun i => a + i
  let hd := dumpHeader p0 false s.time.toNat size
  if size < 64 || !s.mgmtFits pa hd then (s.logEvent .dumpFailed).answer r 4
  else
    let s1 := s.haltAll (cores.flatMap s.dumpHarts)
    let s2 := s1.mgmtWrite pa hd
    let (s3, p) := writeRecords pa size (cores.flatMap s2.coreRecords) s2 p0
    let s4 := s3.mgmtWrite pa (dumpHeader p (!p.trunc && !p.fault) s.time.toNat size)
    s4.answer r (if p.fault then 4 else 2)

/-- The cores of a dump request exist. That a first core above the last one is refused as well is the model's choice (log 11). -/
def State.dumpable (s : State) (a b : Nat) : Bool :=
  decide (a ≤ b) && decide (b ≤ 767) && (List.range (b + 1 - a)).all fun i => s.diePresent ((a + i) / 192)

/-- A hart that a dump stops is at a strip boundary, with no copy of its own or into its allocation in flight (R230;
12_launch.md R186). -/
def State.dumpReady (s : State) (h : Hart) : Bool := !h.packetsOut && h.copies.isEmpty && !s.copiesInto h

/-- MBX_CORE_DUMP (R230, R231): it waits until the harts of the cores can stop. -/
def execMbxCoreDump (s : State) : Host.Outcome State Fault Refusal :=
  .next (s.serve 1 fun t r =>
    let a := s.argument r 1
    let b := s.argument r 2
    if !s.dumpable a b then t.answer r 3
    else if s.harts.all fun h => !(decide (a ≤ h.core) && decide (h.core ≤ b) && h.resident) || s.dumpReady h then
      t.dump r a b (s.argument r 3) (s.argument r 4)
    else s)

end Sys2Proof.Machine
end

