-- ==== Sys2Proof/Machine/Fabric.lean ====
section
/-! DEFINITION. VRED, VSCAN, VCOMP, VEXPD and VPERM: major 22 (20_reference_t_z.md R318 to R322; 03_formats.md R51;
06_forme.md R91, R93). -/

namespace Sys2Proof.Machine

/-- The operators that a floating tag refuses (R51, R319). -/
def redIntOnly : RedOp → Bool
  | .sum | .min | .max => false
  | _ => true

def execVred (d : SReg) (a : VReg) (o : RedOp) (m : Bool) (p : PReg) (s : State) : Host.Outcome State Fault Refusal :=
  unit (passGate [d] [a]) s (do
    let n ← s.vsource a
    let pr ← s.psource p
    s.tagCheck (redIntOnly o && !tagIsInt (s.nodeTag n))
    s.appendScalarSink (s.mkSink (.red o s.me.cr.lam (s.me.sinkDst d)) n m pr 0) d)

def execVscan (d a : VReg) (o : RedOp) (m : Bool) (p : PReg) (s : State) : Host.Outcome State Fault Refusal :=
  unit (passGate [] [d, a]) s (do
    let n ← s.vsource a
    let pr ← s.psource p
    s.tagCheck (redIntOnly o && !tagIsInt (s.nodeTag n))
    s.appendNode (.v d) (s.mkNode (.scan o) (some (s.regTag d)) [{ node := n, chain := m }] pr none 0))

/-- A VCOMP or VEXPD node; the predicate is the selecting mask, and k0 selects every position (R320). -/
def selectBody (op : NodeOp) (d a : VReg) (m : Bool) (p : PReg) (s : State) : Res State := do
  let n ← s.vsource a
  let pr ← s.psource p
  s.appendNode (.v d) (s.mkNode op (some (s.regTag d)) [{ node := n, chain := m }] pr none 0)

def execVcomp (d a : VReg) (m : Bool) (p : PReg) (s : State) : Host.Outcome State Fault Refusal :=
  unit (passGate [] [d, a]) s (selectBody .comp d a m p s)

def execVexpd (d a : VReg) (m : Bool) (p : PReg) (s : State) : Host.Outcome State Fault Refusal :=
  unit (passGate [] [d, a]) s (selectBody .expd d a m p s)

def execVperm (d a b : VReg) (m n : Bool) (p : PReg) (s : State) : Host.Outcome State Fault Refusal :=
  unit (passGate [] [d, a, b]) s (do
    let x ← s.vsource a
    let y ← s.vsource b
    let pr ← s.psource p
    s.tagCheck (!tagIsInt (s.nodeTag y))
    s.appendNode (.v d)
      (s.mkNode .perm (some (s.regTag d)) [{ node := x, chain := m }, { node := y, chain := n }] pr none 0))

end Sys2Proof.Machine
end

