-- ==== Sys2Proof/Machine/Interrupts.lean ====
section
/-! DEFINITION. The interrupts and what makes them pending (14_traps.md R207, R209; 15_debug.md R229; 16_system.md R239). -/

namespace Sys2Proof.Machine

/-- TIME has reached TIMECMP (R209). -/
def State.timerDue (s : State) : Bool := decide (s.me.cr.timecmp.toNat ≤ s.time.toNat)

/-- The hart's oldest watch record at its core (R229). -/
def State.oldestWatch (s : State) : Option WatchRecord := s.myCore.watchQueue.find? fun r => r.owner == s.me.num

/-- An interrupt of a kind is taken: it is pending and ESTATUS.IE = 1 (R209). -/
def State.interrupts (s : State) (pending : Bool) : Bool := esIe s.me.cr.estatus && pending

/-- An interrupt pre-empts the hart, once the copies of every hart into its allocation have completed (R208;
12_launch.md R186). -/
def State.preempt (before s : State) (c : Cause) (eva : Word) : State :=
  if before.copiesInto before.me then before else before.takeTrap s c eva

/-- TIMER (R209). -/
def execTimer (s : State) : Host.Outcome State Fault Refusal :=
  .next (if s.interrupts s.timerDue then s.preempt s .timer 0 else s)

/-- FELEM at WATCHIMP (R229). -/
def WatchRecord.felem (r : WatchRecord) : Word :=
  BitVec.ofNat 64 (r.lost.toNat * 2 ^ 39 + r.src % 4 * 2 ^ 37 + r.wp % 4 * 2 ^ 35 + r.kind.toNat * 2 ^ 32 + r.id.toNat)

/-- WATCHIMP: the hart takes its oldest record (R229). -/
def execWatchimp (s : State) : Host.Outcome State Fault Refusal :=
  match s.oldestWatch with
  | none => .next s
  | some r =>
    if s.interrupts true then
      let c := s.myCore
      let s1 := s.setCore { c with watchQueue := c.watchQueue.erase r }
      .next (s.preempt
        { s1 with me := { s1.me with cr := { s1.me.cr with fblame := 0, felem := r.felem } } } .watchimp r.eva)
    else .next s

/-- MACHINE: the hart takes its oldest record (R207). -/
def execMachine (s : State) : Host.Outcome State Fault Refusal :=
  match s.me.machine with
  | [] => .next s
  | eva :: r =>
    if s.interrupts true then .next (s.preempt { s with me := { s.me with machine := r } } .machine eva)
    else .next s

/-- REMOTE_ACCESS_TIMEOUT: the hart's next access to the remote window fails (R239). -/
def execRemoteAccessTimeout (s : State) : Host.Outcome State Fault Refusal :=
  .next { s with me := { s.me with remoteFail := true } }

end Sys2Proof.Machine
end

