-- ==== Sys2Proof/Machine/Mask.lean ====
section
/-! DEFINITION. VCMP and the mask instructions: majors 20 and 21 (09_control.md R129 to R133; 19_reference_j_s.md R270 to
R274; 20_reference_t_z.md R316). -/

namespace Sys2Proof.Machine

def execVcmp (u : Bool) (k : KReg) (a b : VReg) (m n : Bool) (p : PReg) (r : VRel) (s : State) :
    Host.Outcome State Fault Refusal :=
  unit (passGate [] [a, b]) s (do
    let x ← s.vsource a
    let y ← s.vsource b
    let pr ← s.psource p
    s.tagCheck (u && !tagIsInt (promote (s.nodeTag x) (s.nodeTag y)))
    s.appendNode (.k k)
      (s.mkNode (.cmp r u) none [{ node := x, chain := m }, { node := y, chain := n }] pr none 0))

/-- The gate of the K format, whose queue depends on the mode (03_formats.md R44; R271, R273, R274). -/
def maskGate (h : Hart) (scalars : List SReg) : Gate :=
  { queue := if h.vec.matrix then .m else .v, miller := false, passQueue := !h.vec.matrix, tokAtIssue := true,
    scalars := scalars }

/-- A mask source as an edge: k0 contributes no node (R270). -/
def State.maskEdge (s : State) (k : KReg) : Res (List Edge) :=
  if k = 0 then .ok []
  else
    match s.ksource k with
    | .ok n => .ok [{ node := n, chain := true }]
    | .error a => .error a

/-- A mask source of matrix mode: k0, or a MATERIAL mask (R133, R271). -/
def State.matMaskReg (s : State) (k : KReg) : Res (BitVec 2048) :=
  if k = 0 then .ok (BitVec.allOnes 2048)
  else
    match s.me.vec.k.get k.toFin with
    | .material m => .ok m
    | _ => raise s .illegal 0

/-- The smallest true position below n, or n (R130, R133). -/
def firstTrue (m : Nat → Bool) (n : Nat) : Nat := ((List.range n).find? m).getD n

/-- The mask operations on whole masks (R130, R133). -/
def maskWhole (op : MaskOp) (a b : BitVec 2048) : BitVec 2048 :=
  match op with
  | .and => a &&& b
  | .or => a ||| b
  | .xor => a ^^^ b
  | .not => ~~~a
  | .sbf => BitVec.ofNat 2048 (2 ^ firstTrue a.getLsbD 2048 - 1)
  | .sif => BitVec.ofNat 2048 (2 ^ (firstTrue a.getLsbD 2048 + 1) - 1)

/-- Makes a mask register MATERIAL. -/
def State.setMask (s : State) (k : KReg) (m : BitVec 2048) : State :=
  s.setVec { s.me.vec with k := s.me.vec.k.set k.toFin (.material m) }

/-- A mask-combining instruction of two sources (R130, R133, R270). -/
def maskBody2 (op : MaskOp) (d a b : KReg) (s : State) : Res State := do
  if s.me.vec.matrix then
    let x ← s.matMaskReg a
    let y ← s.matMaskReg b
    return (s.setMask d (maskWhole op x y)).noteWriter (matK d)
  else
    let x ← s.maskEdge a
    let y ← s.maskEdge b
    s.appendNode (.k d) (s.mkNode (.mask op) none (x ++ y) none none 0)

/-- The same with one source. -/
def maskBody1 (op : MaskOp) (d a : KReg) (s : State) : Res State := do
  if s.me.vec.matrix then
    let x ← s.matMaskReg a
    return (s.setMask d (maskWhole op x x)).noteWriter (matK d)
  else
    let x ← s.maskEdge a
    s.appendNode (.k d) (s.mkNode (.mask op) none x none none 0)

def execKand (d a b : KReg) (s : State) : Host.Outcome State Fault Refusal :=
  unit (maskGate s.me []) s (maskBody2 .and d a b s)

def execKor (d a b : KReg) (s : State) : Host.Outcome State Fault Refusal :=
  unit (maskGate s.me []) s (maskBody2 .or d a b s)

def execKxor (d a b : KReg) (s : State) : Host.Outcome State Fault Refusal :=
  unit (maskGate s.me []) s (maskBody2 .xor d a b s)

def execKnot (d a : KReg) (s : State) : Host.Outcome State Fault Refusal :=
  unit (maskGate s.me []) s (maskBody1 .not d a s)

def execKsbf (d a : KReg) (s : State) : Host.Outcome State Fault Refusal :=
  unit (maskGate s.me []) s (maskBody1 .sbf d a s)

def execKsif (d a : KReg) (s : State) : Host.Outcome State Fault Refusal :=
  unit (maskGate s.me []) s (maskBody1 .sif d a s)

/-! ### Counts -/

/-- A count over positions 0 to n − 1 of a mask (R131, R133). -/
def countMask (op : CountOp) (m : Nat → Bool) (n : Nat) : Word :=
  match op with
  | .pop => BitVec.ofNat 64 ((List.range n).filter m).length
  | .first => if firstTrue m n < n then BitVec.ofNat 64 (firstTrue m n) else BitVec.allOnes 64
  | .tail => if 0 < n && m (n - 1) then 1 else 0

/-- A count of k0, true at every position (R272). -/
def countAll (op : CountOp) (n : Nat) : Word :=
  match op with
  | .pop => BitVec.ofNat 64 n
  | .first => if n = 0 then BitVec.allOnes 64 else 0
  | .tail => if n = 0 then 0 else 1

/-- KPOP, KFIRST and KTAIL (R131, R133, R272). -/
def countBody (op : CountOp) (a : KReg) (d : SReg) (s : State) : Res State := do
  if s.me.vec.matrix then
    let m ← s.matMaskReg a
    return s.setReg d (countMask op m.getLsbD s.me.cr.vl)
  else if a = 0 then return s.setReg d (countAll op s.me.cr.vl)
  else
    let n ← s.ksource a
    s.appendScalarSink (s.mkSink (.count op (s.me.sinkDst d)) n true none 0) d

/-- A unit of a count instruction; a k0 source makes no sink (R273). -/
def countUnit (op : CountOp) (a : KReg) (d : SReg) (s : State) : Host.Outcome State Fault Refusal :=
  unit (maskGate s.me [d]) s (countBody op a d s)

def execKpop (a : KReg) (d : SReg) (s : State) : Host.Outcome State Fault Refusal := countUnit .pop a d s
def execKfirst (a : KReg) (d : SReg) (s : State) : Host.Outcome State Fault Refusal := countUnit .first a d s
def execKtail (a : KReg) (d : SReg) (s : State) : Host.Outcome State Fault Refusal := countUnit .tail a d s

/-! ### KLD and KST -/

/-- The node that a KLD in pass mode appends (R274). -/
def State.kldNode (s : State) (m : BitVec 2048) : Node := s.mkNode (.kld m) none [] none none 0

/-- The effect of KLD (R274). Its faults and the passes that it demands, those of the capacity procedure too (06_forme.md R99), come
before its one read of memory. -/
def kldBody (d : KReg) (b : SReg) (s : State) : Res State := do
  let va := s.me.reg b
  if va.toNat % 8 ≠ 0 then throw (.trap s .misalign va)
  let (s1, ps) ← s.readOpen va 256
  if !s.me.vec.matrix then s.nodeRoom s1 (.k d) (s1.kldNode 0)
  let (s2, bs) := s1.readNow ps
  let m := BitVec.ofNat 2048 (leNat bs)
  if s2.me.vec.matrix then return (s2.setMask d m).noteWriter (matK d)
  else s2.appendNode (.k d) (s2.kldNode m)

def execKld (d : KReg) (b : SReg) (s : State) : Host.Outcome State Fault Refusal :=
  unit (maskGate s.me [b]) s (kldBody d b s)

/-- The bits that KST writes: k0, a MATERIAL mask, or a node that KLD appended; any other, a STALE one too, raises ILLEGAL
(R132, R274; log 33). -/
def State.kstSource (s : State) (k : KReg) : Res (BitVec 2048) :=
  if k = 0 then .ok (BitVec.allOnes 2048)
  else
    match s.me.vec.k.get k.toFin with
    | .material m => .ok m
    | .node n =>
      match findNode s.me.vec.forme n with
      | some x => (match x.op with
        | .kld m => .ok m
        | _ => raise s .illegal 0)
      | none => raise s .illegal 0
    | _ => raise s .illegal 0

def execKst (a : KReg) (b : SReg) (s : State) : Host.Outcome State Fault Refusal :=
  unit (maskGate s.me [b]) s (do
    let va := s.me.reg b
    if va.toNat % 8 ≠ 0 then throw (.trap s .misalign va)
    let (s1, _) ← s.piecesOr va 256 .write
    let m ← s1.kstSource a
    s1.writeSpan va (leBytes 256 m.toNat))

end Sys2Proof.Machine
end

