-- ==== Sys2Proof/Machine/VConfig.lean ====
section
/-! DEFINITION. Configuration, stream registers and register housekeeping: majors 18, 19, 23 and 2D (04_registers.md R62,
R65 to R67; 06_forme.md R100, R101; 07_streams.md R106; 19_reference_j_s.md R292, R293; 20_reference_t_z.md R317, R323). -/

namespace Sys2Proof.Machine

/-- Every vector register and k1 to k15 become EMPTY (R66); nodes that nothing keeps are collected. -/
def VecState.emptied (v : VecState) : VecState :=
  collect { v with
    v := v.v.map fun r => { r with state := .empty }
    k := Vector.replicate 16 .empty }

/-- SLMAX and SL after a change of NV or of the group count, and SLMAX in sd (R66). -/
def State.reconfigured (s : State) (d : SReg) : State :=
  let m := slmaxOf s.me.cr.nv s.myCore.lanes
  let s1 := { s with me := { s.me with
    vec := s.me.vec.emptied
    cr := { s.me.cr with slmax := m, sl := m } } }
  s1.setReg d (BitVec.ofNat 64 m)

/-- The register counts that VCONF takes. -/
def nvValid (x : Nat) : Bool := x == 8 || x == 16 || x == 32 || x == 64

/-- The group counts that PART takes. -/
def partValid (x : Nat) : Bool := x == 1 || x == 2 || x == 4 || x == 8

def execVconf (d a : SReg) (s : State) : Host.Outcome State Fault Refusal :=
  let x := (s.me.reg a).toNat
  unit (passGate [d, a] []) s (do
    if !nvValid x then throw (.trap s .illegal 0)
    s.demandPoint
    let v := s.me.vec
    let s1 : State := { s with me := { s.me with
      cr := { s.me.cr with nv := x }
      vec := { v with v := v.v.map fun r => { r with tag := .f32 } } } }
    return s1.reconfigured d)

/-- Another hart of the core is resident. -/
def State.coreShared (s : State) : Bool := s.others.any fun h => h.core == s.me.core && h.resident

/-- The core with a new group count; the hart's pass-unit positions move to its new group's table (R292). -/
def Core.regroup (c : Core) (slot hart weight n : Nat) : Core :=
  if c.partn = n then c
  else
    let c1 := { c with partn := n, slots := c.slots.filter fun e => e.hart != hart || decide (8 ≤ e.unit) }
    let u := c1.group slot
    { c1 with slots := c1.slots ++ ((c1.freePos u).take weight).map fun p => { unit := u, pos := p, hart := hart } }

def execPart (d a : SReg) (s : State) : Host.Outcome State Fault Refusal :=
  let x := (s.me.reg a).toNat
  unit (passGate [d, a] []) s (do
    if !partValid x then throw (.trap s .illegal 0)
    if x != s.myCore.partn && s.coreShared then throw (.trap s .mode 0)
    s.demandPoint
    let s1 := s.setCore (s.myCore.regroup s.me.slot s.me.num s.me.cr.slots x)
    return s1.reconfigured d)

/-- The strip length granted for a request (R67). -/
def grantSl (req slmax w : Nat) : Nat :=
  let r := if req = 0 ∨ slmax < req then slmax else req
  if w = 0 then 0 else if r / w = 0 then w else r / w * w

def execVsetl (d a b : SReg) (s : State) : Host.Outcome State Fault Refusal :=
  let vl := min (s.me.reg a).toNat (2 ^ 40 - 1)
  let sl := grantSl (s.me.reg b).toNat s.me.cr.slmax s.myCore.lanes
  unit (passGate [d, a, b] []) s
    (.ok (({ s with me := { s.me with cr := { s.me.cr with vl := vl, sl := sl } } } : State).setReg d
      (BitVec.ofNat 64 vl)))

/-! ### Stream registers -/

/-- A descriptor that QSET refuses with ILLEGAL (R106). -/
def descIllegal (d : BitVec 256) : Bool :=
  dReserved d || dDims d == 3 || dN0 d == 0 || (dDims d == 2 && dN1 d == 0)
    || (dFmt d == .d8s && (dSt0 d != 1 || dBase d % 32 != 0 || (dDims d != 0 && dSt1 d % 32 != 0)
      || (dDims d == 2 && dSt2 d % 32 != 0)))

/-- A descriptor that QSET refuses with MISALIGN (R106). -/
def descMisaligned (d : BitVec 256) : Bool :=
  let z : Int := tagBytes (dFmt d)
  dFmt d != .d8s && (dBase d % z != 0 || dSt0 d % z != 0 || (dDims d != 0 && dSt1 d % z != 0)
    || (dDims d == 2 && dSt2 d % z != 0))

/-- A leaf that names a q register no longer does (06_forme.md R96). -/
def Node.detach (n : Node) (q : QReg) : Node :=
  match n.op with
  | .leaf r _ _ _ => if r = q then { n with detached := true } else n
  | _ => n

/-- The same for a sink. -/
def Sink.detach (g : Sink) (q : QReg) : Sink :=
  match g.op with
  | .store r _ _ _ => if r = q then { g with detached := true } else g
  | _ => g

/-- The vector state with a descriptor loaded. -/
def VecState.loadQ (v : VecState) (q : QReg) (d : BitVec 256) : VecState :=
  { v with
    q := v.q.set q.toFin d
    forme := v.forme.map fun n => n.detach q
    galley := v.galley.map fun g => g.detach q }

def execQset (a : SReg) (q : QReg) (s : State) : Host.Outcome State Fault Refusal :=
  unit (passGate [a] []) s (do
    let va := s.me.reg a
    let (s1, n) ← s.readDwords va 32
    let d := BitVec.ofNat 256 n
    if descIllegal d then throw (.trap s1 .illegal va)
    if descMisaligned d then throw (.trap s1 .misalign va)
    return s1.setVec (s1.me.vec.loadQ q d))

/-! ### Tags, VFORCE and VDROP -/

/-- Changes the vector registers first to last. -/
def VecState.mapRegs (v : VecState) (first last : Nat) (f : VRegister → VRegister) : VecState :=
  { v with v := v.v.mapFinIdx fun i r _ => if first ≤ i ∧ i ≤ last then f r else r }

def execVtag (d a : VReg) (t : Tag) (s : State) : Host.Outcome State Fault Refusal :=
  unit (passGate [] [a]) s (.ok (s.setVec (s.me.vec.mapRegs d.toNat a.toNat fun r => { r with tag := t })))

def execVdrop (d a : VReg) (s : State) : Host.Outcome State Fault Refusal :=
  unit (passGate [] [a]) s
    (.ok (s.setVec (collect (s.me.vec.mapRegs d.toNat a.toNat fun r => { r with state := .empty }))))

def execVforce (s : State) : Host.Outcome State Fault Refusal :=
  unit (passGate [] []) s (do s.demandPoint; return s)

end Sys2Proof.Machine
end

