-- ==== Sys2Proof/Machine/VecMem.lean ====
section
/-! DEFINITION. VLD, VLDX, VLDFF, VST and VSTX: majors 1A and 1B (07_streams.md R107 to R109, R112; 10_matrix.md R148;
05_numbers.md R80; 20_reference_t_z.md R325, R326). -/

namespace Sys2Proof.Machine

/-- The gate of VLD and VST, whose queue depends on the mode (03_formats.md R44). -/
def modeGate (h : Hart) (vregs : List VReg) : Gate :=
  { queue := if h.vec.matrix then .m else .v, miller := false, passQueue := !h.vec.matrix, tokAtIssue := true,
    vregs := vregs.map BitVec.toNat }

/-- The gate of VLDX, VLDFF and VSTX, which raise MODE in matrix mode (R108). -/
def streamGate (h : Hart) (vregs : List VReg) : Gate :=
  { modeGate h vregs with mode := some false }

/-- A floating tag as an index (R109). -/
def indexBad (t : Tag) : Bool := !tagIsInt t

/-- The leaf that a load appends (R107). -/
def leafBody (v : VReg) (q : QReg) (p : PReg) (o cuts : Bool) (s : State) : Res State := do
  let d := s.me.vec.q.get q.toFin
  let pr ← s.psource p
  s.appendNode (.v v)
    (s.mkNode (.leaf q d (dUno d || o) cuts) (some (s.regTag v)) [] pr none (dStart d))

/-- The gather leaf (R107, R109). -/
def gatherBody (v : VReg) (q : QReg) (i : VReg) (c : Bool) (p : PReg) (o : Bool) (s : State) : Res State := do
  let d := s.me.vec.q.get q.toFin
  let x ← s.vsource i
  let pr ← s.psource p
  s.tagCheck (indexBad (s.nodeTag x))
  if dDims d ≠ 0 then throw (.trap s .illegal 0)
  s.appendNode (.v v)
    (s.mkNode (.leaf q d (dUno d || o) false) (some (s.regTag v)) [{ node := x, chain := c }] pr none (dStart d))

/-- The store sink (R107, R92, R80). That a ninth sink's descriptor snapshot, START with it, is taken after the pass that makes
room for it is the model's choice (log 28). -/
def storeSinkBody (v : VReg) (q : QReg) (c : Bool) (p : PReg) (o : Bool) (s : State) : Res State := do
  let d := s.me.vec.q.get q.toFin
  let n ← s.vsource v
  let pr ← s.psource p
  s.tagCheck (dFmt d == .d8s && dStart d % 31 != 0)
  s.appendSink (s.mkSink (.store q d (dUno d || o) none) n c pr (dStart d))

/-- The scatter sink (R107, R109, R80). -/
def scatterBody (v : VReg) (q : QReg) (i : VReg) (c : Bool) (p : PReg) (o : Bool) (s : State) : Res State := do
  let d := s.me.vec.q.get q.toFin
  let n ← s.vsource v
  let x ← s.vsource i
  let pr ← s.psource p
  s.tagCheck (indexBad (s.nodeTag x))
  if dDims d ≠ 0 then throw (.trap s .illegal 0)
  s.tagCheck (dFmt d == .d8s)
  s.appendSink (s.mkSink (.store q d (dUno d || o) (some x)) n c pr (dStart d))

/-! ### Matrix mode -/

/-- A predicate of matrix mode: all true, or a MATERIAL mask (R148). -/
def State.matMask (s : State) (p : PReg) : Res (BitVec 2048) :=
  if p = 0 then .ok (BitVec.allOnes 2048)
  else
    match s.me.vec.k.get (p.setWidth 4 : KReg).toFin with
    | .material m => .ok m
    | _ => raise s .illegal 0

/-- A MATERIAL register as a source (R146). -/
def State.matSource (s : State) (v : VReg) : Res (BitVec 2048) :=
  match (s.me.vec.v.get v.toFin).state with
  | .material m => .ok m
  | _ => raise s .illegal 0

/-- The interlock range of a matrix-mode access of VL positions (R108, R117). -/
def matRange (d : BitVec 256) (vl : Nat) : Range := (posRange d (dStart d) vl).getD ⟨0, -1⟩

/-- Replaces START of a stream register. -/
def VecState.setStart (v : VecState) (q : QReg) (p : Nat) : VecState :=
  { v with q := v.q.set q.toFin (dSetStart (v.q.get q.toFin) p) }

/-- The positions of a matrix-mode access as pieces, in ascending order, none where the mask is false; a fault ends the
list (R148). -/
def State.locateElems (first : Option Int) (k : Kind) :
    List (Option (List (Int × Nat))) → State → State × List (Option (List Piece)) × Option (Cause × Word)
  | [], s => (s, [], none)
  | none :: r, s =>
    let (s1, ps, f) := locateElems first k r s
    (s1, none :: ps, f)
  | some items :: r, s =>
    match s.locateItems none first k items with
    | .error (s1, e) => (s1, [], some e)
    | .ok (s1, p) =>
      let (s2, ps, f) := locateElems first k r s1
      (s2, some p :: ps, f)

/-- Reads the elements whose pieces are given. -/
def State.readElems : List (Option (List Piece)) → State → State × List (Option Nat)
  | [], s => (s, [])
  | none :: r, s =>
    let (s1, xs) := readElems r s
    (s1, none :: xs)
  | some ps :: r, s =>
    let (s1, bs) := State.readPieces ps s
    let (s2, xs) := readElems r s1
    (s2, some (leNat bs) :: xs)

/-- The pieces of a list of elements. -/
def flatPieces (xs : List (Option (List Piece))) : List Piece := xs.flatMap fun x => x.getD []

/-- Matrix-mode VLD (R108, R148): START to START + VL − 1 into a MATERIAL register. -/
def matLoadBody (v : VReg) (q : QReg) (p : PReg) (s : State) : Res State := do
  let d := s.me.vec.q.get q.toFin
  let t := s.regTag v
  let vl := s.me.cr.vl
  let m ← s.matMask p
  s.tagCheck (decide (capacity t < vl))
  let copy := dFmt d == .d8s && t == .d8s
  s.tagCheck (copy && dStart d % 31 != 0)
  let items := (List.range vl).map fun j =>
    if m.getLsbD j then some (readItems d ((dStart d + j) % posMod)) else none
  let (s1, ps, fault) := State.locateElems (some (streamAddr d (dStart d))) .read items s
  match fault with
  | some (c, eva) => throw (.trap s1 c eva)
  | none => pure ()
  s1.watchCheckAll (flatPieces ps) .read s1.me.pc 0
  s1.readGate (matRange d vl)
  if s1.piecesHeld (flatPieces ps) then throw (.stall s)
  let (s2, cells) := State.readElems ps s1
  let mode := rmodeOf s2.me.cr.frm
  let raws := cells.map fun x => x.map fun c =>
    if copy then ((.stored (cellElem .d8s c), 0) : Raw × FlagSet) else convElem (cellElem (dFmt d) c) t s2.me.cr.frm
  let elems := encodeAll t mode raws
  let data := packReg t (elems.map fun x => x.map (·.1))
  let w := s2.me.vec
  let s3 := (s2.setVec (({ w with
    v := w.v.set v.toFin { (w.v.get v.toFin) with state := .material data } } : VecState).setStart q (dStart d + vl))).noteWriter
      (matV v)
  return (s3.orFlags (allFlags elems)).watchNote .hart .read (flatPieces ps)

/-- One D8S block that a matrix-mode VST writes, its run at index j: the item, its bytes and the flags. A D8S register's codes
go with the scale of the register's block (R148; log 27). -/
def matBlock (d : BitVec 256) (t : Tag) (r : BitVec 2048) (frm : BitVec 2) (j : Nat) (xs : List (Option Elem)) :
    ((Int × Nat) × List Byte) × FlagSet :=
  let p := (dStart d + j) % posMod
  let elems : List (Option (Elem × FlagSet)) :=
    if t = .d8s then xs.map (Option.map fun e => (e, (0 : FlagSet)))
    else encodeBlock (rmodeOf frm) (xs.map (Option.map fun e => convElem e .d8s frm))
  let bytes := blockBytes (blockLead d p (elems.map (Option.map Prod.fst)))
  let bs := if t = .d8s then BitVec.ofNat 8 (regByte r (32 * (j / 31))) :: bytes.tail else bytes
  (((scaleAddr d p, 32), bs), allFlags elems)

/-- The writes of a matrix-mode VST: for each element or D8S block its item and bytes, and the flags (R148, R105, R80). -/
def matWrites (d : BitVec 256) (t : Tag) (r m : BitVec 2048) (vl : Nat) (frm : BitVec 2) :
    List (Option ((Int × Nat) × List Byte)) × FlagSet :=
  let src : List (Option Elem) := (List.range vl).map fun j => if m.getLsbD j then some (packElem t r j) else none
  if dFmt d = .d8s then
    let blocks := (blockRuns d (vl + 1) 0 vl).map fun b => matBlock d t r frm b.1 ((src.drop b.1).take b.2)
    (blocks.map fun b => some b.1, blocks.foldl (fun f b => f ||| b.2) 0)
  else
    let elems := encodeAll (dFmt d) (rmodeOf frm) (src.map fun x => x.map fun e => convElem e (dFmt d) frm)
    (elems.mapIdx fun j x => x.map fun e =>
      ((streamAddr d ((dStart d + j) % posMod), tagBytes (dFmt d)), leBytes (tagBytes (dFmt d)) e.1.bits),
      allFlags elems)

/-- EVA of a fault at write i of a matrix-mode VST: the element's address, which for a D8S block is that of the run's first element
(R148, R104; log 27). -/
def matEva (d : BitVec 256) (vl i : Nat) (eva : Word) : Word :=
  if dFmt d = .d8s then
    (((blockRuns d (vl + 1) 0 vl)[i]?).map fun b => addrWord (streamAddr d ((dStart d + b.1) % posMod))).getD eva
  else eva

/-- Writes elements to their pieces in ascending order. -/
def State.writeElems : List (Option (List Piece)) → List (List Byte) → State → State
  | some ps :: r, bs :: bss, s => writeElems r bss (State.writePieces ps bs s)
  | none :: r, _ :: bss, s => writeElems r bss s
  | _, _, s => s

/-- The positions by which a matrix-mode VST advances START: VL, or whole blocks of a D8S stream (R80, R148). -/
def matAdvance (d : BitVec 256) (vl : Nat) : Nat := if dFmt d = .d8s then (vl + 30) / 31 * 31 else vl

/-- Matrix-mode VST (R108, R148): a fault leaves the elements below it written and START unchanged. -/
def matStoreBody (v : VReg) (q : QReg) (p : PReg) (s : State) : Res State := do
  let d := s.me.vec.q.get q.toFin
  let t := s.regTag v
  let vl := s.me.cr.vl
  let r ← s.matSource v
  let m ← s.matMask p
  s.tagCheck (decide (capacity t < vl))
  s.tagCheck (dFmt d == .d8s && dStart d % 31 != 0)
  let (ws, flags) := matWrites d t r m vl s.me.cr.frm
  let (s1, ps, fault) := State.locateElems (some (streamAddr d (dStart d))) .write
    (ws.map fun w => w.map fun x => [x.1]) s
  s1.watchCheckAll (flatPieces ps) .write s1.me.pc 0
  s1.writeGate (matRange d vl)
  if s1.piecesHeld (flatPieces ps) || !s1.piecesFit (flatPieces ps) then throw (.stall s)
  let s2 := (State.writeElems ps (ws.map fun w => (w.map (·.2)).getD []) s1).spoil (matRange d vl) s1.me.pc
  let s3 := s2.watchNote .hart .write (flatPieces ps)
  match fault with
  | some (c, eva) => throw (.trap s3 c (matEva d vl ps.length eva))
  | none => pure ()
  return (s3.setVec (s3.me.vec.setStart q (dStart d + matAdvance d vl))).orFlags flags

/-! ### The instructions -/

def execVld (v : VReg) (q : QReg) (_c : Bool) (p : PReg) (o : Bool) (s : State) : Host.Outcome State Fault Refusal :=
  unit (modeGate s.me [v]) s (if s.me.vec.matrix then matLoadBody v q p s else leafBody v q p o false s)

def execVldx (v : VReg) (q : QReg) (i : VReg) (c : Bool) (p : PReg) (o : Bool) (s : State) :
    Host.Outcome State Fault Refusal :=
  unit (streamGate s.me [v, i]) s (gatherBody v q i c p o s)

def execVldff (v : VReg) (q : QReg) (_c : Bool) (p : PReg) (s : State) : Host.Outcome State Fault Refusal :=
  unit (streamGate s.me [v]) s (leafBody v q p false true s)

def execVst (v : VReg) (q : QReg) (c : Bool) (p : PReg) (o : Bool) (s : State) : Host.Outcome State Fault Refusal :=
  unit (modeGate s.me [v]) s (if s.me.vec.matrix then matStoreBody v q p s else storeSinkBody v q c p o s)

def execVstx (v : VReg) (q : QReg) (i : VReg) (c : Bool) (p : PReg) (o : Bool) (s : State) :
    Host.Outcome State Fault Refusal :=
  unit (streamGate s.me [v, i]) s (scatterBody v q i c p o s)

end Sys2Proof.Machine
end

