-- ==== Sys2Proof/Machine/Matrix.lean ====
section
/-! DEFINITION. Matrix mode: majors 24 to 26 and the grant of tiles (10_matrix.md R143 to R153; 19_reference_j_s.md R286 to
R290; 20_reference_t_z.md R331, R332). -/

namespace Sys2Proof.Machine

/-! ### Tiles -/

/-- The key of position m, n of tile z. -/
def tileKey (z m n : Nat) : Nat := 4096 * z + 256 * m + n

/-- The F32 at a key; unlisted positions hold +0. -/
def tileGet : List (Nat × BitVec 32) → Nat → BitVec 32
  | [], _ => 0
  | (k, b) :: r, a => if k = a then b else tileGet r a

/-- The tiles with one position replaced, keys rising and no +0 listed. -/
def tileSet : List (Nat × BitVec 32) → Nat → BitVec 32 → List (Nat × BitVec 32)
  | [], a, b => if b = 0 then [] else [(a, b)]
  | (k, c) :: r, a, b =>
    if a < k then (if b = 0 then (k, c) :: r else (a, b) :: (k, c) :: r)
    else if a = k then (if b = 0 then r else (a, b) :: r)
    else (k, c) :: tileSet r a b

/-- Replaces the tiles of the hart. -/
def State.setTiles (s : State) (t : List (Nat × BitVec 32)) : State := s.setVec { s.me.vec with tiles := t }

/-- M and N of MSHAPE (04_registers.md R70). -/
def State.shapeM (s : State) : Nat := s.me.cr.mshape.toNat % 32
def State.shapeN (s : State) : Nat := s.me.cr.mshape.toNat / 256 % 1024

/-- A tile register at or above the held count (04_registers.md R60). -/
def State.tileCheck (s : State) (z : ZReg) : Res Unit :=
  if s.me.vec.tileCount ≤ z.toNat then raise s .mode 0 else .ok ()

/-- The gate of a matrix-queue instruction. -/
def matrixGate (scalars : List SReg) (vregs : List Nat) (mode : Option Bool) : Gate :=
  { queue := .m, miller := false, mode := mode, scalars := scalars, vregs := vregs }

/-! ### MMODE -/

/-- Withdraws the hart's request for tiles (R143). -/
def State.withdraw (s : State) : State :=
  if s.myCore.tileQueue.any fun r => r.hart == s.me.num then
    s.setCore { s.myCore with tileQueue := s.myCore.tileQueue.filter fun r => r.hart != s.me.num }
  else s

/-- Holds n tiles, zeroed, or waits for them (R143, R145). -/
def State.obtainTiles (s : State) (n : Nat) : Res State :=
  if s.me.vec.tileCount ≠ 0 then .ok s
  else
    match s.myCore.tileQueue.find? fun r => r.hart == s.me.num with
    | none =>
      .error (.wait (s.setCore { s.myCore with
        tileQueue := s.myCore.tileQueue ++ [{ hart := s.me.num, count := n, granted := false }] }))
    | some r =>
      if r.count ≠ n then .error (.wait s.withdraw)
      else if !r.granted then .error (.wait s)
      else
        let s1 := s.withdraw
        .ok (s1.setVec { s1.me.vec with tileCount := n, tiles := [] })

def execMmodeOn (n : BitVec 6) (s : State) : Host.Outcome State Fault Refusal :=
  let v := s.me.vec
  unit { matrixGate [] [] (some false) with passQueue := true } s (do
    if v.tileCount ≠ 0 ∧ v.tileCount ≠ n.toNat then throw (.trap s .mode 0)
    s.demandPoint
    let s1 ← s.obtainTiles n.toNat
    let w := s1.me.vec.emptied
    return { s1 with me := { s1.me with
      vec := { w with matrix := true, savedVl := s1.me.cr.vl }
      cr := { s1.me.cr with vl := s1.shapeN } } })

/-- Leaves matrix mode (R143, R144). -/
def State.leaveMatrix (s : State) : State :=
  { s with me := { s.me with
    vec := { s.me.vec.emptied with matrix := false }
    cr := { s.me.cr with vl := s.me.vec.savedVl } } }

/-- Gives the held tiles back. -/
def State.releaseTiles (s : State) : State := s.setVec { s.me.vec with tileCount := 0, tiles := [] }

def execMmodeOff (s : State) : Host.Outcome State Fault Refusal :=
  unit (matrixGate [] [] (some true)) s (.ok s.leaveMatrix)

def execMmodeOffRel (s : State) : Host.Outcome State Fault Refusal :=
  unit (matrixGate [] [] none) s
    (.ok (if s.me.vec.matrix then s.leaveMatrix.releaseTiles else s.releaseTiles))

/-- Grants the oldest waiting request when the core has its tiles free (R145). -/
def grantOldest (free : Nat) : List TileRequest → List TileRequest
  | [] => []
  | r :: rs =>
    if r.granted then r :: grantOldest free rs
    else if r.count ≤ free then { r with granted := true } :: rs
    else r :: rs

/-- TILE_GRANT (R145). -/
def execTileGrant (core : Nat) (s : State) : Host.Outcome State Fault Refusal :=
  let c := s.coreAt core
  .next (s.setCore { c with tileQueue := grantOldest (s.freeTiles core) c.tileQueue })

def execMshape (m n : SReg) (s : State) : Host.Outcome State Fault Refusal :=
  unit (matrixGate [m, n] [] none) s (s.setShape (s.me.reg m).toNat (s.me.reg n).toNat)

/-! ### MMA and MMAS -/

/-- The exact sum of exact products, with the flags of invalid products and sums (R149). -/
def dotExact (mode : RMode) : List (XVal × XVal) → Option XVal × FlagSet
  | [] => (none, 0)
  | (a, b) :: r => r.foldl (fun (acc, f) (x, y) =>
      let (p, g) := xMul x y
      match acc with
      | none => (some p, f ||| g)
      | some t =>
        let (u, h) := xAdd mode t p
        (some u, f ||| g ||| h)) (let (p, g) := xMul a b; (some p, g))

/-- One output of MMA or MMAS: the tile's new value and its flags (R149, R151). -/
def mmaOut (mode : RMode) (acc : MmaAcc) (z : BitVec 32) (terms : List (XVal × XVal)) : BitVec 32 × FlagSet :=
  let (d, f) := dotExact mode terms
  let old := fmtF32.decode z.toNat
  match d with
  | none => ((match acc with | .ovw => 0 | _ => z), 0)
  | some x =>
    let (y, g) : XVal × FlagSet := match acc with
      | .acc => xAdd mode old x
      | .ovw => (x, 0)
      | .neg => xAdd mode old x.negate
    let (b, h) := fmtF32.round mode y
    (BitVec.ofNat 32 b, f ||| g ||| h)

/-- The tag of a vector register by number. -/
def State.tagNum (s : State) (i : Nat) : Tag := s.regTag (BitVec.ofNat 6 i)

/-- The tags of MMA's sources that R149 refuses. -/
def State.mmaTagsBad (s : State) (a : VReg) (b rows : Nat) : Bool :=
  let ta := s.regTag a
  !(ta == .bf16 || ta == .d8 || ta == .f32) || (ta == .f32 && decide (8 < s.shapeM))
    || (List.range rows).any fun k =>
      tagIsInt (s.tagNum (b + k)) || decide (capacity (s.tagNum (b + k)) < s.shapeN)

/-- The data of the B registers (R149, R287). -/
def State.matRows (s : State) (b : Nat) : Nat → Res (List (BitVec 2048))
  | 0 => .ok []
  | k + 1 => do
    let xs ← matRows s b k
    let x ← s.matSource (BitVec.ofNat 6 (b + k))
    return xs ++ [x]

/-- The outputs of a product over the M by N corner: terms m n gives the pairs that output sums. -/
def mmaTile (mode : RMode) (acc : MmaAcc) (z m n : Nat) (terms : Nat → Nat → List (XVal × XVal))
    (t : List (Nat × BitVec 32)) : List (Nat × BitVec 32) × FlagSet :=
  ((List.range m).flatMap fun i => (List.range n).map fun j => (i, j)).foldl (fun (acc1, f) (i, j) =>
    let (b, g) := mmaOut mode acc (tileGet t (tileKey z i j)) (terms i j)
    (tileSet acc1 (tileKey z i j) b, f ||| g)) (t, 0)

/-- The effect of MMA on a checked hart. -/
def mmaBody (z : ZReg) (a b : VReg) (acc : MmaAcc) (s : State) : Res State := do
  s.tileCheck z
  let x ← s.matSource a
  let ys ← s.matRows b.toNat 8
  s.tagCheck (s.mmaTagsBad a b.toNat 8)
  let terms (i j : Nat) : List (XVal × XVal) := (List.range 8).map fun k =>
    ((packElem (s.regTag a) x (8 * i + k)).val false,
      (packElem (s.tagNum (b.toNat + k)) (ys.getD k 0) j).val false)
  let (t, f) := mmaTile (rmodeOf s.me.cr.frm) acc z.toNat s.shapeM s.shapeN terms s.me.vec.tiles
  return ((s.setTiles t).noteWriter (matZ z)).orFlags f

def execMma (z : ZReg) (a b : VReg) (_m _n : Bool) (c : MmaAcc) (s : State) : Host.Outcome State Fault Refusal :=
  unit (matrixGate [] [a.toNat, b.toNat + 7] (some true)) s (mmaBody z a b c s)

/-- The terms of one output of MMAS: the pairs at the set positions, and zero times the finite elements at the others, which
give an exact zero sum the sign that R152 asks for; a row with no set bit has none (R151, R152). -/
def mmasTerms (ps : List Nat) (a b : Nat → XVal) : List (XVal × XVal) :=
  if ps.isEmpty then []
  else
    (List.range 16).filterMap fun p =>
      match ps.idxOf? p, b p with
      | some l, y => some (a l, y)
      | none, .num neg m d => some (.num false 0 1, .num neg m d)
      | none, _ => none

/-- The set positions of row i of a mask (R151). -/
def maskRowPos (m : BitVec 2048) (i : Nat) : List Nat := (List.range 16).filter fun p => m.getLsbD (16 * i + p)

/-- The effect of MMAS on a checked hart. -/
def mmasBody (z : ZReg) (a b : VReg) (k : BitVec 3) (acc : MmaAcc) (s : State) : Res State := do
  s.tileCheck z
  let x ← s.matSource a
  let ys ← s.matRows b.toNat 16
  let km ← (match s.me.vec.k.get (BitVec.ofNat 4 (8 + k.toNat)).toFin with
    | .material m => .ok m
    | _ => raise s .illegal 0 : Res (BitVec 2048))
  s.tagCheck (s.mmaTagsBad a b.toNat 16)
  s.tagCheck ((List.range s.shapeM).any fun i => decide (8 < (maskRowPos km i).length))
  let terms (i j : Nat) : List (XVal × XVal) := mmasTerms (maskRowPos km i)
    (fun l => (packElem (s.regTag a) x (8 * i + l)).val false)
    fun p => (packElem (s.tagNum (b.toNat + p)) (ys.getD p 0) j).val false
  let (t, f) := mmaTile (rmodeOf s.me.cr.frm) acc z.toNat s.shapeM s.shapeN terms s.me.vec.tiles
  return ((s.setTiles t).noteWriter (matZ z)).orFlags f

def execMmas (z : ZReg) (a b : VReg) (k : BitVec 3) (_m _n : Bool) (c : MmaAcc) (s : State) :
    Host.Outcome State Fault Refusal :=
  unit (matrixGate [] [a.toNat, b.toNat + 15] (some true)) s (mmasBody z a b k c s)

/-! ### ZZERO, ZLD and ZST -/

def execZzero (z : ZReg) (s : State) : Host.Outcome State Fault Refusal :=
  unit (matrixGate [] [] (some true)) s (do
    s.tileCheck z
    return (s.setTiles (s.me.vec.tiles.filter fun x => x.1 / 4096 != z.toNat)).noteWriter (matZ z))

/-- The positions of the M by N corner with their addresses, in ascending m, then n (R153). -/
def State.tileCells (s : State) (z : ZReg) (b st : Word) : List (Nat × Int) :=
  (List.range s.shapeM).flatMap fun m => (List.range s.shapeN).map fun n =>
    (tileKey z.toNat m n, (b + BitVec.ofNat 64 m * st + BitVec.ofNat 64 (4 * n)).toInt)

/-- The checks of a tile transfer before any address (R331). -/
def State.tileAccess (s : State) (z : ZReg) (b st : Word) : Res Unit := do
  s.tileCheck z
  if b.toNat % 4 ≠ 0 ∨ st.toNat % 4 ≠ 0 then throw (.trap s .misalign b)

/-- A copy in flight overlaps some piece of an access of the hart, which waits for it (08_faults.md R117). -/
def State.piecesGate (s : State) (ps : List Piece) (write : Bool) : Res Unit :=
  match ps.find? fun (va, _, n) =>
      let r := rangeOf (BitVec.ofNat 64 va) n
      s.me.copyWrites r || (write && s.me.copyReads r) with
  | none => .ok ()
  | some (va, _, n) => .error (.wait (s.heldBack (rangeOf (BitVec.ofNat 64 va) n) write))

/-- The tile with values at keys. -/
def tilePut : List (Nat × BitVec 32) → List Nat → List (Option Nat) → List (Nat × BitVec 32)
  | t, k :: ks, some x :: xs => tilePut (tileSet t k (BitVec.ofNat 32 x)) ks xs
  | t, _ :: ks, none :: xs => tilePut t ks xs
  | t, _, _ => t

/-- ZLD: every read first, then the corner (R153, R331). -/
def zldBody (z : ZReg) (a b : SReg) (s : State) : Res State := do
  let base := s.me.reg a
  s.tileAccess z base (s.me.reg b)
  let cells := s.tileCells z base (s.me.reg b)
  let (s1, ps, fault) := State.locateElems (some base.toInt) .read (cells.map fun c => some [(c.2, 4)]) s
  match fault with
  | some (c, eva) => throw (.trap s1 c eva)
  | none => pure ()
  s1.watchCheckAll (flatPieces ps) .read s1.me.pc 0
  s1.piecesGate (flatPieces ps) false
  if s1.piecesHeld (flatPieces ps) then throw (.stall s)
  let (s2, xs) := State.readElems ps s1
  return ((s2.setTiles (tilePut s2.me.vec.tiles (cells.map (·.1)) xs)).noteWriter (matZ z)).watchNote .hart .read (flatPieces ps)

def execZld (z : ZReg) (a b : SReg) (s : State) : Host.Outcome State Fault Refusal :=
  unit (matrixGate [a, b] [] (some true)) s (zldBody z a b s)

/-- ZST: ascending m, then n; a fault leaves the earlier elements written (R153, R332). -/
def zstBody (z : ZReg) (a b : SReg) (s : State) : Res State := do
  let base := s.me.reg a
  s.tileAccess z base (s.me.reg b)
  let cells := s.tileCells z base (s.me.reg b)
  let (s1, ps, fault) := State.locateElems (some base.toInt) .write (cells.map fun c => some [(c.2, 4)]) s
  s1.watchCheckAll (flatPieces ps) .write s1.me.pc 0
  s1.piecesGate (flatPieces ps) true
  if s1.piecesHeld (flatPieces ps) || !s1.piecesFit (flatPieces ps) then throw (.stall s)
  let s2 := State.writeElems ps (cells.map fun c => leBytes 4 (tileGet s.me.vec.tiles c.1).toNat) s1
  let s3 := s2.watchNote .hart .write (flatPieces ps)
  match fault with
  | some (c, eva) => throw (.trap s3 c eva)
  | none => pure ()
  return s3

def execZst (z : ZReg) (a b : SReg) (s : State) : Host.Outcome State Fault Refusal :=
  unit (matrixGate [a, b] [] (some true)) s (zstBody z a b s)

end Sys2Proof.Machine
end

