-- ==== Sys2Proof/Machine/Packets.lean ====
section
/-! DEFINITION. The packets of the cluster scratchpad window between a hart's stream engine and the owning cores
(07_streams.md R110, R111), and the writes of a strip that such packets hold back. Each waits in State.packets, oldest
first. -/

namespace Sys2Proof.Machine

/-- The positions that a packet carries, rising (R110). -/
def Packet.positions (p : Packet) : List Nat :=
  ((List.range 64).filter fun b => p.mask.getLsbD b).map fun b => p.group + b

/-- Another hart's closed allocation holds a packet back (12_launch.md R176). -/
def State.packetHeld (s : State) (p : Packet) : Bool :=
  p.locs.any fun loc => s.harts.any fun h => h.num != p.requester && h.closed && h.touches loc p.width

/-- The oldest packet of a kind. -/
def State.packetOfKind (s : State) (k : Nat) : Option Packet := s.packets.find? fun p => p.kind == k

/-- A packet leaves the queue, and another may join it. -/
def State.passPacket (s : State) (p : Packet) (q : Option Packet) : State :=
  { s with packets := s.packets.erase p ++ q.toList }

/-- The entry is a write. -/
def Packet.writes (p : Packet) : Bool := p.kind == 2 || p.kind == 4

/-- A write that must follow others performs only after every earlier packet of its requester has been acknowledged
(R111; 06_forme.md R95). -/
def State.ackBlocked (s : State) (p : Packet) : Bool :=
  p.wait && s.packets.any fun q => q.kind == 3 && q.requester == p.requester

/-- The oldest write that can perform: the first of its requester, no acknowledgement missing, no allocation closed. -/
def State.nextWrite (s : State) : Option Packet :=
  s.packets.find? fun p => p.writes
    && (s.packets.find? fun q => q.writes && q.requester == p.requester) == some p
    && !s.ackBlocked p && !s.packetHeld p

/-- One packet of the requester is answered. -/
def Hart.answered (h : Hart) (got : List (Nat × Nat × Nat)) : Hart :=
  { h with vec := { h.vec with pass := h.vec.pass.map fun p =>
      { p with got := p.got ++ got, outstanding := p.outstanding - 1 } } }

/-- The bytes of an element of the owner's scratchpad; all ones where a soft error is marked (14_traps.md R207). -/
def State.spadBytes (s : State) (loc n : Nat) : List Byte :=
  if s.hasError loc n then onesBytes n else memBytes s.mem loc n

/-- A MACHINE record, with EVA 0, at the requester of a read that met a soft error (R207). -/
def State.packetErrors (s : State) (p : Packet) : State :=
  if p.locs.any fun loc => s.hasError loc p.width then
    s.updHart p.requester fun h => { h with machine := h.machine ++ [0] }
  else s

/-- SPAD_READ_REQUEST: the owner reads the elements of the oldest request and replies (R110). -/
def execSpadReadRequest (s : State) : Host.Outcome State Fault Refusal :=
  match s.packetOfKind 0 with
  | none => .next s
  | some p =>
    if s.packetHeld p then .next s
    else
      let data := p.locs.flatMap fun loc => s.spadBytes loc p.width
      .next ((s.passPacket p (some { p with kind := 1, offsets := [], data := data })).packetErrors p)

/-- The elements of a reply: leaf, element and stored bytes. -/
def Packet.elems (p : Packet) : List (Nat × Nat × Nat) :=
  p.positions.mapIdx fun i e => (p.leaf, e, leNat ((p.data.drop (i * p.width)).take p.width))

/-- SPAD_READ_REPLY: the requester's pass receives the elements of the oldest reply (R110). -/
def execSpadReadReply (s : State) : Host.Outcome State Fault Refusal :=
  match s.packetOfKind 1 with
  | none => .next s
  | some p => .next ((s.passPacket p none).updHart p.requester fun h => h.answered p.elems)

/-- A packet's writes at the owner, in ascending position (R110). -/
def State.storeElems : List Nat → Nat → List Byte → State → State
  | [], _, _, s => s
  | loc :: r, n, bs, s => storeElems r n (bs.drop n) (s.store loc (bs.take n))

/-- A write that packets held back performs, as a write of its hart. -/
def State.heldWrite (s : State) (p : Packet) : State :=
  let t := s.select p.requester
  let u := t.performWrite (p.offsets.headD 0) p.data
  (u.select s.me.num).updHart p.requester fun h => h.answered []

/-- One write performs; a packet of the owner's is acknowledged (R110). -/
def State.spadWrite (s : State) (p : Packet) : State :=
  if p.kind = 4 then (s.passPacket p none).heldWrite p
  else State.storeElems p.locs p.width p.data (s.passPacket p (some { p with kind := 3, offsets := [], data := [] }))

/-- SPAD_WRITE: the owner performs the oldest write packet that may perform and acknowledges it (R110, R111). -/
def execSpadWrite (s : State) : Host.Outcome State Fault Refusal :=
  match s.nextWrite with
  | none => .next s
  | some p => .next (s.spadWrite p)

/-- SPAD_WRITE_ACK: the oldest acknowledgement reaches the requester (R110). -/
def execSpadWriteAck (s : State) : Host.Outcome State Fault Refusal :=
  match s.packetOfKind 3 with
  | none => .next s
  | some p => .next ((s.passPacket p none).updHart p.requester fun h => h.answered [])

/-! ### A pass that stops while packets are under way -/

/-- One packet of the hart runs its course. -/
def State.finishPacket (s : State) (p : Packet) : State :=
  match p.kind with
  | 0 =>
    let data := p.locs.flatMap fun loc => s.spadBytes loc p.width
    ((s.passPacket p none).packetErrors p).updHart p.requester fun h => h.answered { p with data := data }.elems
  | 1 => (s.passPacket p none).updHart p.requester fun h => h.answered p.elems
  | 2 => (State.storeElems p.locs p.width p.data (s.passPacket p none)).updHart p.requester fun h => h.answered []
  | 3 => (s.passPacket p none).updHart p.requester fun h => h.answered []
  | _ => (s.passPacket p none).heldWrite p

/-- The packets of the hart whose turn it is run their course in order, as far as no closed allocation holds one back. -/
def State.finishPackets : Nat → State → State
  | 0, s => s
  | fuel + 1, s =>
    match s.packets.find? fun p => p.requester == s.me.num with
    | none => s
    | some p => if s.packetHeld p then s else finishPackets fuel (s.finishPacket p)

end Sys2Proof.Machine
end

