-- ==== Sys2Proof/Machine/PassRun.lean ====
section
/-! DEFINITION. Running a pass strip by strip: planning and committing its sinks (06_forme.md R95, R98; 08_faults.md R124,
R125; 05_numbers.md R80), its packets to the cluster window (07_streams.md R110, R111), and its completion (06_forme.md R93,
R97; 08_faults.md R121; 13_ordering.md R205). -/

namespace Sys2Proof.Machine

/-! ### Translation windows -/

/-- How far a store sink's position stands from the START of its snapshot (06_forme.md R96). -/
def Sink.passed (g : Sink) (d : BitVec 256) : Nat := (g.pos + posMod - dStart d) % posMod

/-- The windows of a pass that has come so far: for each unindexed leaf and store sink its descriptor, base, place from there
(its current position, 06_forme.md R96), length, kind of access and key (R113). -/
def passWindows (v : VecState) (p : Pass) : List (BitVec 256 × Nat × Nat × Nat × Kind × Nat) :=
  (v.forme.filterMap fun n => match n.op, n.srcs with
    | .leaf _ d _ _, [] => (p.leaves.find? fun l => l.node == n.id).map fun l =>
        (d, l.base, min l.cells.length p.progress, min (passLen v p) n.len, .read, 2 * n.id)
    | _, _ => none)
  ++ (v.galley.mapIdx fun i g => (i, g)).filterMap fun (i, g) => match g.op with
    | .store _ d _ none => some (d, dStart d, g.passed d, min (passLen v p) (sinkLen v g), .write, 2 * i + 1)
    | _ => none

/-- Every unindexed window of the pass pins the pages from its place on, W at most, and lets go of the others; an indexed one
keeps those of the strip before (R113). -/
def State.holdPins (s : State) (p : Pass) : State × Pass :=
  let (s1, ps) := (passWindows s.me.vec p).foldl (fun (t, acc) (d, base, e, len, k, key) =>
    let w := Window.fill k (p.pinsOf key) (dWin d) (aheadAddrs d base e len) ⟨t, [], []⟩
    (w.s, acc ++ w.held.map fun x => (key, x))) (s, ([] : List (Nat × Translation)))
  (s1, { p with pins := ps ++ p.pins.filter fun x => !(passWindows s.me.vec p).any fun y => y.2.2.2.2.2 == x.1 })

/-! ### Planning the sinks of a strip -/

/-- A commit that a strip may make: the element of the sink, the elements passed then, the pass element it needs, the
element a fault names, with its address, its place in the pattern, and the write, with its flags. -/
structure Cand where
  pos : Nat
  done : Nat
  due : Nat
  elem : Nat
  addr : Int
  place : Nat
  write : Option ((Int × Nat) × List Byte × FlagSet)

/-- The commits of a store sink of a format other than D8S, from the n-th element on (07_streams.md R105, R109; R96). -/
def plainCands (d : BitVec 256) (frm : BitVec 2) (comp : Bool) (xs : List SinkElem) (n : Nat) : List Cand :=
  (List.range (xs.length - n)).filterMap fun k =>
    let j := n + k
    xs[j]?.map fun x =>
      let place := if comp then writtenIn xs j else j
      let w := x.val.bind fun y =>
        match convElem y (dFmt d) frm with
        | (.stored z, f) =>
          let size := tagBytes (dFmt d)
          let addr := match x.idx with
            | some i => gatherAddr d (dStart d + i)
            | none => streamAddr d ((dStart d + place) % posMod)
          some ((addr, size), leBytes size z.bits, f)
        | _ => none
      { pos := j, done := j + 1, due := x.due, elem := x.due, addr := (w.map (·.1.1)).getD 0, place := place
        write := w }

/-- The commit of one block of a D8S store sink, whose run of z positions starts at j (05_numbers.md R79, R80); a fault at it names
the run's first element (08_faults.md R124; log 27). -/
def blockCand (d : BitVec 256) (frm : BitVec 2) (xs : List SinkElem) (ended : Bool) (j z : Nat) : Cand :=
  let p := (dStart d + j) % posMod
  let ys := (xs.drop j).take z
  let es := encodeBlock (rmodeOf frm) (ys.map fun x => x.val.map fun y => convElem y .d8s frm)
  let due := ys.foldl (fun m x => max m x.due) 0
  { pos := j
    done := if ended && j + z == xs.length then ceilTo 31 (j + z) else j + z
    due := due
    elem := (ys.head?.map (·.due)).getD due
    addr := streamAddr d p
    place := j
    write := some ((scaleAddr d p, 32), blockBytes (blockLead d p (es.map fun x => x.map (·.1))), allFlags es) }

/-- The commits of a D8S store sink: whole blocks, each one 32-byte write once all its positions are known (R80). -/
def blockCands (d : BitVec 256) (frm : BitVec 2) (xs : List SinkElem) (ended : Bool) (n : Nat) : List Cand :=
  ((blockRuns d (xs.length + 1) n (xs.length - n)).filter fun b =>
    ended || b.2 == max 1 (blockRun d ((dStart d + b.1) % posMod) 31)).map fun b => blockCand d frm xs ended b.1 b.2

/-- A commit whose write has been located. -/
structure Planned where
  pos : Nat
  done : Nat
  due : Nat
  elem : Nat
  write : Option (List Piece × List Byte × FlagSet)

/-- A strip's plan so far: the located commits of each sink, and the stop that bounds them. -/
structure Plan where
  s : State
  sinks : List (List Planned)
  bound : Nat
  stop : Option Stop
  /-- The pages that scatters hold after the strip (R113), keyed as in Pass.pins. -/
  pins : List (Nat × Translation)

/-- What the locating of one sink's commits has come to. -/
structure Located where
  s : State
  done : List Planned
  stop : Option Stop
  hold : Hold

/-- Locates the commits of one sink below the bound through its pins, each checked before any write is made (R124); none
where a closed allocation makes one wait (12_launch.md R176). -/
def planCands (g : Sink) (gi : Nat) (first : Option Int) (bound : Nat) : List Cand → Located → Option Located
  | [], l => some l
  | c :: r, l =>
    if bound ≤ c.due then some l
    else
      match c.write with
      | none => planCands g gi first bound r { l with done := l.done ++ [⟨c.pos, c.done, c.due, c.elem, none⟩] }
      | some (item, bs, f) =>
        let stop (k : StopCause) : Stop :=
          { elem := c.elem, rank := 2, order := gi, cause := k, blame := g.pc, leaf := none }
        let (s0, h0) := l.hold.slide l.s .write c.place
        match s0.locateItems (some h0.pins) first .write [item] with
        | .error (s1, cause, _) => some { l with s := s1, stop := some (stop (.fault cause (addrWord c.addr))) }
        | .ok (s1, ps) =>
          if s1.piecesHeld ps then none
          else
            match ps.flatMap fun (va, _, n) => s1.watchOwn va n .write with
            | h :: t => some { l with s := s1, stop := some (stop (.watch (h :: t))) }
            | [] => planCands g gi first bound r { l with
                s := s1
                done := l.done ++ [⟨c.pos, c.done, c.due, c.elem, some (ps, bs, f)⟩]
                hold := h0.access s1 .write ps }

/-- The commits that a sink may make. -/
def sinkCands (env : Env) (comp : List Nat) (vlen : Nat) (g : Sink) (n : Nat) : List Cand :=
  match g.op with
  | .store _ d _ _ =>
    let (xs, ended) := sinkElems env comp vlen g
    if dFmt d = .d8s then blockCands d g.frm xs ended n else plainCands d g.frm (comp.contains g.node) xs n
  | _ => []

/-- The address at which an unindexed store sink's access starts (01_device.md R18). -/
def Sink.first (g : Sink) : Option Int :=
  match g.op with
  | .store _ d _ none => some (streamAddr d (dStart d))
  | _ => none

/-- The translation window of a sink at the beginning of a strip (R113). -/
def Sink.hold (p : Pass) (gi len : Nat) (g : Sink) : Hold :=
  match g.op with
  | .store _ d _ i => Hold.begin p (2 * gi + 1) i.isSome d (dStart d) (g.passed d) len
  | _ => Hold.begin p (2 * gi + 1) true 0 0 0 0

/-- Plans the sinks in galley order, each to its own recorded VL (06_forme.md R90); a fault bounds those that come after it
(R125). -/
def planSinks (v : VecState) (env : Env) (vlen : Nat) (pass : Pass) : List (Sink × Nat) → Nat → Plan → Option Plan
  | [], _, p => some p
  | (g, n) :: r, gi, p =>
    match planCands g gi g.first p.bound (sinkCands env (compNodes v.forme) (min vlen (sinkLen v g)) g n)
        { s := p.s, done := [], stop := none, hold := g.hold pass gi (min vlen (sinkLen v g)) } with
    | none => none
    | some l =>
      planSinks v env vlen pass r (gi + 1)
        { s := l.s
          sinks := p.sinks ++ [l.done]
          bound := (l.stop.map fun st => min p.bound st.elem).getD p.bound
          stop := l.stop.orElse fun _ => p.stop
          pins := p.pins ++ l.hold.held.map fun t => (2 * gi + 1, t) }

/-! ### Packets of the cluster window -/

/-- An element that a packet carries (07_streams.md R110): its position in the pass, the owner and the offset there. -/
structure Carried where
  elem : Nat
  owner : Nat
  off : Nat
  bytes : List Byte
  deriving DecidableEq, Repr

/-- A packet for elements of one group and owner. -/
def packetOf (h : Hart) (kind size : Nat) (run wait : Bool) (leaf : Nat) (xs : List Carried) : Packet where
  kind := kind
  src := h.core % 16
  owner := (xs.head?.map (·.owner)).getD h.core % 16
  hart := h.slot
  size := size
  run := run
  group := (xs.head?.map fun x => x.elem / 64 * 64).getD 0
  mask := xs.foldl (fun m x => m ||| BitVec.ofNat 64 (2 ^ (x.elem % 64))) 0
  offsets := xs.map (·.off)
  data := xs.flatMap (·.bytes)
  requester := h.num
  leaf := leaf
  pins := []
  wait := wait

/-- A write of a strip that packets before it hold back, with the pages that it keeps pinned: no packet (R109, R111, R113). -/
def heldBack (h : Hart) (loc : Nat) (bs : List Byte) (pins : List Translation) : Packet :=
  { packetOf h 4 0 false true 0 [] with offsets := [loc], data := bs, pins := pins }

/-- Whether two elements go in one packet. -/
def Carried.joins (a b : Carried) : Bool := a.owner == b.owner && a.elem / 64 == b.elem / 64

/-- All of one owner's elements of a group together (R111). -/
def carriedGroups : Nat → List Carried → List (List Carried)
  | 0, _ => []
  | _, [] => []
  | fuel + 1, x :: r => (x :: r.filter x.joins) :: carriedGroups fuel (r.filter fun y => !x.joins y)

/-- Sends the read requests of a strip; the pass waits for the replies (R110). -/
def State.sendAsks (s : State) (p : Pass) (asks : List Ask) : State :=
  let leaves := (asks.map (·.leaf)).eraseDups
  let packets := leaves.flatMap fun l =>
    let xs := (asks.filter fun a => a.leaf == l).map fun a => (a.size, (⟨a.elem, a.owner, a.off, []⟩ : Carried))
    let size := Nat.log2 ((xs.head?.map (·.1)).getD 1)
    (carriedGroups (xs.length + 1) (xs.map (·.2))).map (packetOf s.me 0 size false false l)
  { s with
    packets := s.packets ++ packets
    me := { s.me with vec := { s.me.vec with
      pass := some { p with outstanding := p.outstanding + packets.length } } } }

/-! ### Committing -/

/-- The element of a planned write that a packet carries to its owner (R110); the 32 bytes of a D8S block, and a write that a
provisional hart's buffer takes in (12_launch.md R176), go in none (log 22). -/
def State.carriedOf (s : State) (g : Sink) (c : Planned) : Option Carried :=
  match g.op, c.write with
  | .store _ d _ _, some ([(va, loc, n)], bs, _) =>
    if dFmt d = .d8s ∨ (s.me.provisional ∧ !s.me.owns loc n) then none
    else (s.packetOwner va).map fun (o, off) => { elem := c.pos, owner := o, off := off, bytes := bs }
  | _, _ => none

/-- A write that no packet carries. -/
def Planned.plain (c : Planned) : List Piece × List Byte := ((c.write.map (·.1)).getD [], (c.write.map (·.2.1)).getD [])

/-- Makes writes in order. -/
def State.makeWrites : List (List Piece × List Byte) → State → State
  | [], s => s
  | (ps, bs) :: r, s => makeWrites r ((State.writePieces ps bs s).watchNote .hart .write ps)

/-- A write as an entry that waits behind packets; pins gives the pages of its pieces. -/
def holdBack (h : Hart) (pins : List Piece → List Translation) (w : List Piece × List Byte) : List Packet :=
  match w.1 with
  | [] => []
  | (_, loc, _) :: _ => [heldBack h loc w.2 (pins w.1)]

/-- The packet of a run, if it carries anything; its run bit is a scatter's (R110). -/
def runPacket (h : Hart) (size : Nat) (scatter : Bool) (acc : List Carried) : List Packet :=
  if acc.isEmpty then [] else [packetOf h 2 size scatter true 0 acc]

/-- The writes of a sink of default order from its first carried element on, in ascending order: runs that one packet carries,
and what comes between them (R95, R111). -/
def runEntries (h : Hart) (size : Nat) (scatter : Bool) (pins : List Piece → List Translation) :
    List (Option Carried × (List Piece × List Byte)) → List Carried → List Packet
  | [], acc => runPacket h size scatter acc
  | (none, w) :: r, acc => runPacket h size scatter acc ++ holdBack h pins w ++ runEntries h size scatter pins r []
  | (some x, _) :: r, acc =>
    if acc.all (·.joins x) then runEntries h size scatter pins r (acc ++ [x])
    else runPacket h size scatter acc ++ runEntries h size scatter pins r [x]

/-- The writes of a sink that are made at once, those that are not, and the entries that these become; held says that
entries of earlier sinks wait already, behind which this sink's writes come (R95). What a provisional hart's buffer takes in
waits for no packet (12_launch.md R176). -/
def State.splitWrites (s : State) (g : Sink) (pins : List Translation) (held : Bool) (ys : List Planned) :
    List (List Piece × List Byte) × List (List Piece × List Byte) × List Packet :=
  let ws := (ys.filter fun c => c.write.isSome).map fun c => (s.carriedOf g c, c.plain)
  let soon (w : Option Carried × (List Piece × List Byte)) : Bool := !(s.buffered .write w.2.1).isEmpty
  let rest := ws.filter fun w => !soon w
  let (size, uno, scatter) : Nat × Bool × Bool := match g.op with
    | .store _ d u i => (Nat.log2 (tagBytes (dFmt d)), u, i.isSome)
    | _ => (0, false, false)
  let (pre, post) := if held then ([], rest)
    else if uno then (rest.filter fun w => w.1.isNone, rest.filter fun w => w.1.isSome)
    else rest.span fun w => w.1.isNone
  let pages := s.pagesOf pins .write
  (((ws.filter soon) ++ pre).map (·.2), post.map (·.2),
    if uno then
      (post.filter fun w => w.1.isNone).flatMap (fun w => holdBack s.me pages w.2)
        ++ (carriedGroups (post.length + 1) (post.filterMap (·.1))).map (packetOf s.me 2 size false held 0)
    else runEntries s.me size scatter pages post [])

/-- A sink of a strip with its commits so far, its plan, its limit and the pages that its plan went through. -/
structure Job where
  sink : Sink
  done : Nat
  plan : List Planned
  limit : Nat
  pins : List Translation

/-- The commits that a sink makes: its planned elements below its limit (R95, R98). -/
def Job.commits (j : Job) : List Planned := j.plan.takeWhile fun c => decide (c.due < j.limit)

/-- Commits the sinks in galley order (R95, R98): the state, the flags, what each sink has passed, and the packets that are to
be sent. -/
def commitSinks : List Job → Bool → State → State × FlagSet × List Nat × List Packet
  | [], _, s => (s, 0, [], [])
  | j :: r, held, s =>
    let ys := j.commits
    let (ws, later, pk) := s.splitWrites j.sink j.pins held ys
    let s2 := later.foldl (fun t w => t.watchNote .hart .write w.1) (State.makeWrites ws s)
    let f := ys.foldl (fun f c => f ||| ((c.write.map fun w => w.2.2).getD 0)) 0
    let done := (ys.getLast?.map (·.done)).getD j.done
    let (s3, f2, ds, pks) := commitSinks r (held || !pk.isEmpty) s2
    (s3, f ||| f2, done :: ds, pk ++ pks)

/-- The packets that a strip sends. -/
def State.sendPackets (s : State) (pks : List Packet) : State := { s with packets := s.packets ++ pks }

/-- A pass that stops has its packets run their course first: every write that the strip makes performs before the stop
(R125). -/
def State.finishNow (s : State) (pks : List Packet) : State :=
  if pks.isEmpty then s
  else
    let s1 := s.sendPackets pks
    State.finishPackets (s1.packets.length + 1) s1

/-- Every edge of the subgraph that a sink reaches is chained (R98). -/
def sinkChained (v : VecState) (g : Sink) : Bool :=
  let reach := reachFrom v.forme g.seeds
  g.chain && v.forme.all fun n => !reach.contains n.id || n.srcs.all (·.chain)

/-- The limit of a sink's commits in a strip that stops at e: an unchained sink takes no element of the strip beyond those
saved at an earlier stop (R98; 08_faults.md R127). -/
def sinkLimit (v : VecState) (p : Pass) (stop : Option Nat) (top : Nat) (g : Sink) : Nat :=
  match stop with
  | none => top
  | some e => if sinkChained v g then e else min e (max (p.progress / passSl v * passSl v) p.saved)

/-! ### Completion -/

/-- The result of a reduction or count over the pass, from what it took in at an earlier stop on (05_numbers.md R84 to R86;
09_control.md R131). -/
def sinkResult (v : VecState) (env : Env) (vlen lanes : Nat) (g : Sink) (taken : List (Option (Nat × Int))) : Word :=
  let n := min vlen (sinkLen v g)
  let xs := sinkCells env g taken n
  match g.op with
  | .red op lam _ => (reduceCells op lam g.frm lanes (indexTag v.forme g.node) (redCells v.forme g xs)).1
  | .count op _ =>
    let m (e : Nat) : Bool := (xs.getD e none).isSome
    match op with
    | .pop => BitVec.ofNat 64 ((List.range n).filter m).length
    | .first => (((List.range n).find? m).map (BitVec.ofNat 64)).getD (BitVec.allOnes 64)
    | .tail => if 0 < n && m (n - 1) then 1 else 0
  | _ => 0

/-- The scalar that a sink writes. -/
def Sink.scalar (g : Sink) : Option (Fin 136) :=
  match g.op with
  | .red _ _ d => d
  | .count _ d => d
  | _ => none

/-- Writes the pending scalars of the pass (06_forme.md R93). -/
def giveResults (v : VecState) (env : Env) (vlen lanes : Nat) :
    List (Sink × Nat × List (Option (Nat × Int))) → State → State
  | [], s => s
  | (g, _, taken) :: r, s =>
    giveResults v env vlen lanes r (match g.scalar with
      | none => s
      | some i =>
        let s2 := s.setPhys i (sinkResult v env vlen lanes g taken) g.pc
        { s2 with me := { s2.me with pend := s2.me.pend.set i false } })

/-- The live leaves outside the pass that a sink's range meets (08_faults.md R117, R121). -/
def leavesBeside (v : VecState) (p : Pass) (x : Range) : List Nat :=
  (leavesMet v x).filter fun n => !p.leaves.any fun l => l.node == n

/-- The registers that the pass's own writes make STALE: store sinks in galley order against the ranges that the leaves
of the pass held when it began, and against the other live leaves (08_faults.md R117, R121). -/
def spoilByPass (v : VecState) (p : Pass) : List Sink → VecState → VecState
  | [], w => w
  | g :: r, w =>
    match sinkRange v g with
    | none => spoilByPass v p r w
    | some x =>
      let hit := (p.leaves.filter fun l => x.meets ⟨l.lo, l.hi⟩ && decide (l.lo ≤ l.hi)).map (·.node)
      spoilByPass v p r (spoilRegs w (hit ++ leavesBeside v p x) g.pc)

/-- Gives the tokens of the completed sinks, or owes them (13_ordering.md R205). -/
def Hart.giveTokens (h : Hart) (gs : List Sink) : Hart :=
  h.payOwed (h.owed ++ gs.filterMap fun g => g.signal.map fun y => (Queue.v, y, g.pc))

/-- The pass completes (06_forme.md R95, R97; 07_streams.md R112; R121, R127). -/
def State.completePass (s : State) (p : Pass) : State :=
  let v := s.me.vec
  let vlen := passLen v p
  let env := rowsOf v p vlen vlen
  let (f1, _) := laneFlags env p.flagged vlen
  let f2 := (redFlags v env vlen s.myCore.lanes vlen p).1
  let s2 := (giveResults v env vlen s.myCore.lanes (sinkStates v p) s).orFlags (f1 ||| f2 ||| p.sinkFlags)
  let w := syncPositions s2.me.vec { p with progress := vlen } env vlen
  let w1 := spoilByPass v p v.galley w
  let w2 := collect { w1 with galley := [], pass := none }
  let h := s2.me
  let h1 : Hart := { h with
    vec := w2
    checked := if p.late then some p.demand else h.checked
    met := p.met
    fresh := true
    cr := { h.cr with
      passp := BitVec.ofNat 64 vlen
      fdemand := h.cr.fdemand &&& ~~~(1 : Word)
      vl := if p.cut.isSome then vlen else h.cr.vl } }
  { s2 with me := h1.giveTokens v.galley }

/-! ### A strip -/

/-- A pass fault as the exception that its unit raises (08_faults.md R124, R126; 15_debug.md R228). -/
def State.passTrap (s : State) (st : Stop) : Act :=
  match st.cause with
  | .watch hits => s.watchStop hits st.blame st.elem
  | .fault c eva =>
    .trap { s with me := { s.me with
      cr := { s.me.cr with fblame := keepBits st.blame 55 2, felem := BitVec.ofNat 64 st.elem } } } c eva

/-- The leaves to be read again after a stop. -/
def stopRewinds (v : VecState) (st : Stop) : List (Nat × Nat) :=
  match st.leaf with
  | none => []
  | some l => rewinds v.forme (reachedNodes v) l st.elem

/-- What each sink of a plan commits below a limit of its own. -/
def commitJobs (v : VecState) (p : Pass) (pl : Plan) (limit : Sink → Nat) : List Job :=
  ((v.galley.zip (p.commits.zip pl.sinks)).mapIdx fun i x => (i, x)).map fun (i, g, n, xs) =>
    { sink := g, done := n, plan := xs, limit := limit g
      pins := p.pinsOf (2 * i + 1) ++ (pl.pins.filter fun x => x.1 == 2 * i + 1).map (·.2) }

/-- The pieces that a strip's commits write. -/
def jobPieces (jobs : List Job) : List Piece := jobs.flatMap fun j => j.commits.flatMap fun c => (c.write.map (·.1)).getD []

/-- A key of Pass.pins belongs to a gather or a scatter (R113). -/
def indexedKey (v : VecState) (key : Nat) : Bool :=
  if key % 2 = 0 then (findNode v.forme (key / 2)).any fun n => !n.srcs.isEmpty
  else v.galley[key / 2]?.any fun g => match g.op with
    | .store _ _ _ i => i.isSome
    | _ => false

/-- The pass with a completed strip behind it: nothing of the strip is saved any more. -/
def Pass.pastStrip (p : Pass) (top n : Nat) : Pass :=
  { p with
    progress := top
    saved := 0
    got := []
    outstanding := n
    leaves := p.leaves.map fun l => { l with marks := [] }
    perms := p.perms.map fun x => { x with marks := [] } }

/-- The pass stops at element e of its strip, for a stop or for an interrupt. -/
def State.stopStrip (s : State) (p : Pass) (e : Nat) (st : Option Stop) : Act :=
  let s1 := s.stopPass p e ((st.map (stopRewinds s.me.vec)).getD [])
  match st with
  | some x => s1.passTrap x
  | none => .stay s1

/-- One strip of a pass: read, computed and committed; force asks for a stop at an element (R95; 14_traps.md R209). -/
def State.runStrip (s : State) (p : Pass) (force : Option Nat) : Act :=
  let v := s.me.vec
  let top0 := min ((p.progress / passSl v + 1) * passSl v) (passLen v p)
  match s.readStrip p (passLen v p) top0 with
  | none => .stay s
  | some (w, vlen) =>
    if !w.asks.isEmpty then .stay (s.sendAsks p w.asks)
    else
      let top := min top0 vlen
      let p1 : Pass := { p with
        leaves := w.leaves
        perms := w.perms
        cut := if vlen < galleyLen v then some vlen else p.cut }
      let goal := match force with
        | none => top
        | some e => min e top
      let st1 := firstStop (w.stops.filter fun x => decide (x.elem < goal))
      match planSinks v w.env vlen p (v.galley.zip p.commits) 0
          { s := w.s, sinks := [], bound := (st1.map (·.elem)).getD goal, stop := none, pins := w.pins } with
      | none => .stay s
      | some pl =>
        let st := pl.stop.orElse fun _ => st1
        let halt := (st.map (·.elem)).orElse fun _ => if force.isSome then some goal else none
        let limit := sinkLimit v p halt top
        let jobs := commitJobs v p pl limit
        if !pl.s.piecesFit (jobPieces jobs) then .stay s
        else
          let (s1, f, ds, pks) := commitSinks jobs false pl.s
          let p2 : Pass := { p1 with commits := ds, sinkFlags := p1.sinkFlags ||| f }
          match halt with
          | some e => (s1.finishNow pks).stopStrip { p2 with taken := takeIn v w.env vlen p1 limit } e st
          | none =>
            let p3 := Pass.pastStrip { p2 with pins := p2.pins.filter (fun x => !indexedKey v x.1) ++ pl.pins } top pks.length
            let s2 := s1.setVec (syncPositions s1.me.vec p3 w.env vlen)
            let s3 := s2.sendPackets pks
            if pks.isEmpty && decide (vlen ≤ top) then .stay (s3.completePass p3)
            else
              let (s4, p4) := s3.holdPins p3
              .stay (s4.setVec { s4.me.vec with pass := some p4 })

/-- A continued pass first commits, in each sink, the saved elements that the sink has not committed (R127); none where the
sinks have them all. A fault that it meets stops it at its element (R125). -/
def State.commitSaved (s : State) (p : Pass) : Option Act :=
  let v := s.me.vec
  let vlen := passLen v p
  let env := rowsOf v p vlen p.saved
  if p.saved = 0 then none
  else
    match planSinks v env vlen p (v.galley.zip p.commits) 0
        { s := s, sinks := [], bound := p.saved, stop := none, pins := [] } with
    | none => some (.stay s)
    | some pl =>
      let jobs := commitJobs v p pl fun _ => (pl.stop.map (·.elem)).getD p.saved
      let taken := takeIn v env vlen p fun _ => (pl.stop.map (·.elem)).getD p.saved
      if pl.stop.isNone && jobs.all (fun j => j.plan.isEmpty) && taken == p.taken then none
      else if !pl.s.piecesFit (jobPieces jobs) then some (.stay s)
      else
        let (s1, f, ds, pks) := commitSinks jobs false pl.s
        let s2 := s1.finishNow pks
        let p1 : Pass := { p with commits := ds, sinkFlags := p.sinkFlags ||| f, taken := taken }
        match pl.stop with
        | some x => some (s2.stopStrip p1 x.elem (some x))
        | none => some (.stay (s2.setVec (syncPositions s2.me.vec p1 env vlen)))

/-- A strip with its windows held (R113), after what an earlier stop has saved (R127). -/
def State.stripOrSaved (s : State) (p : Pass) (force : Option Nat) : Act :=
  let (s1, p1) := s.holdPins p
  let s2 := s1.setVec { s1.me.vec with pass := some p1 }
  match s2.commitSaved p1 with
  | some a => a
  | none => s2.runStrip p1 force

/-- A pass waits for the copies in flight that its leaves' and sinks' ranges meet (08_faults.md R117). -/
def State.passWaits (s : State) (p : Pass) : Bool :=
  (p.leaves.any fun l => decide (l.lo ≤ l.hi) && s.me.copyWrites ⟨l.lo, l.hi⟩)
    || s.me.vec.galley.any fun g =>
      match sinkRange s.me.vec g with
      | none => false
      | some r => s.me.copyWrites r || s.me.copyReads r

/-- The running pass of a hart with no packet under way. -/
def State.passGoes (s : State) (p : Pass) (force : Option Nat) : Act :=
  if s.passWaits p then .stay s
  else if passLen s.me.vec p ≤ p.progress then .stay (s.completePass p)
  else s.stripOrSaved p force

/-- The turn of a running pass: it waits for its packets, but for an interrupt they run their course at once. -/
def State.passTurn (s : State) (force : Option Nat) : Act :=
  match s.me.vec.pass with
  | none => .stay s
  | some p =>
    if p.suspended then .stay s
    else if p.outstanding = 0 then s.passGoes p force
    else if force.isNone then .stay s
    else
      let s1 := State.finishPackets (s.packets.length + 1) s
      match s1.me.vec.pass with
      | some p1 => if p1.outstanding = 0 then s1.passGoes p1 force else .stay s1
      | none => .stay s1

/-- PASS_STRIP (R95): one strip of the hart's pass. -/
def execPassStrip (s : State) : Host.Outcome State Fault Refusal := .next (settle .v s (s.passTurn none))

/-- An element inside the strip that a pass is about to run. -/
def State.insideStrip (s : State) (e : Nat) : Bool :=
  match s.me.vec.pass with
  | none => false
  | some p =>
    !p.suspended && decide (p.progress < e)
      && decide (e < min ((p.progress / passSl s.me.vec + 1) * passSl s.me.vec) (passLen s.me.vec p))

/-- An enabled interrupt is pending (14_traps.md R209). -/
def State.interruptWaits (s : State) : Bool :=
  esIe s.me.cr.estatus && (!s.me.machine.isEmpty || (s.myCore.watchQueue.any fun r => r.owner == s.me.num)
    || decide (s.me.cr.timecmp.toNat ≤ s.time.toNat))

/-- PASS_ELEMENT_STOP (14_traps.md R209): a pass that a pending interrupt has not found at a strip boundary stops inside
its strip; a hart that has yielded, or whose buffered stores still drain, is not ready (12_launch.md R186, R178). -/
def execPassElementStop (e : Nat) (s : State) : Host.Outcome State Fault Refusal :=
  .next (settle .v s
    (if s.insideStrip e && s.interruptWaits && s.me.yieldTurns == 0 && !s.me.draining then s.passTurn (some e) else .stay s))

end Sys2Proof.Machine
end

