-- ==== Sys2Proof/Machine/ScalarFp.lean ====
section
/-! DEFINITION. The scalar floating-point instructions, major 0A (18_reference_a_f.md R263, R264; 05_numbers.md R71 to
R75). -/

namespace Sys2Proof.Machine

/-- The format .D selects (R264). -/
def fpFmt (p : Bool) : BinFmt := if p then fmtF64 else fmtF32

/-- A floating operand: all 64 bits under .D, bits 31:0 otherwise (R264). -/
def Hart.fp (h : Hart) (r : SReg) (p : Bool) : XVal :=
  (fpFmt p).decode ((h.reg r).toNat % 2 ^ (if p then 64 else 32))

/-- The rounding mode at issue (R69). -/
def State.mode (s : State) : RMode := rmodeOf s.me.cr.frm

/-- A unit that rounds an exact result once into sd and ORs the flags (R264, R83). -/
def fpUnit (s : State) (names : List SReg) (d : SReg) (p : Bool) (r : XVal × FlagSet) :
    Host.Outcome State Fault Refusal :=
  let (b, f) := (fpFmt p).round s.mode r.1
  unit { scalars := names } s (.ok ((s.setReg d (BitVec.ofNat 64 b)).orScalarFlags (r.2 ||| f)))

def execFadd (d a b : SReg) (p : Bool) (s : State) : Host.Outcome State Fault Refusal :=
  fpUnit s [d, a, b] d p (xAdd s.mode (s.me.fp a p) (s.me.fp b p))

def execFsub (d a b : SReg) (p : Bool) (s : State) : Host.Outcome State Fault Refusal :=
  fpUnit s [d, a, b] d p (xAdd s.mode (s.me.fp a p) (s.me.fp b p).negate)

def execFmul (d a b : SReg) (p : Bool) (s : State) : Host.Outcome State Fault Refusal :=
  fpUnit s [d, a, b] d p (xMul (s.me.fp a p) (s.me.fp b p))

def execFdiv (d a b : SReg) (p : Bool) (s : State) : Host.Outcome State Fault Refusal :=
  fpUnit s [d, a, b] d p (xDiv (s.me.fp a p) (s.me.fp b p))

def execFma (d a b : SReg) (p : Bool) (s : State) : Host.Outcome State Fault Refusal :=
  fpUnit s [d, a, b] d p (xFma s.mode (s.me.fp a p) (s.me.fp b p) (s.me.fp d p))

def execFmin (d a b : SReg) (p : Bool) (s : State) : Host.Outcome State Fault Refusal :=
  fpUnit s [d, a, b] d p (xMinMax false (s.me.fp a p) (s.me.fp b p))

def execFmax (d a b : SReg) (p : Bool) (s : State) : Host.Outcome State Fault Refusal :=
  fpUnit s [d, a, b] d p (xMinMax true (s.me.fp a p) (s.me.fp b p))

/-- The condition of FCMP (R264, R73). -/
def fcmpHolds (c : FcmpCond) (x y : XVal) : Bool :=
  match c with
  | .eq => xEqual x y
  | .lt => xLess false x y
  | .le => xLess false x y || xEqual x y
  | .un => x.isNan || y.isNan

def execFcmp (d a b : SReg) (c : FcmpCond) (p : Bool) (s : State) : Host.Outcome State Fault Refusal :=
  let x := s.me.fp a p
  let y := s.me.fp b p
  unit { scalars := [d, a, b] } s
    (.ok ((s.setReg d (if fcmpHolds c x y then 1 else 0)).orScalarFlags (sigFlag [x, y])))

/-- The result and flags of a conversion (R46, R75, R264). -/
def fcvtResult (s : State) (a : SReg) (c : FcvtOp) (p : Bool) : Nat × FlagSet :=
  match c with
  | .sitof => (fpFmt p).round s.mode (.ofInt (s.me.reg a).toInt)
  | .uitof => (fpFmt p).round s.mode (.ofInt (s.me.reg a).toNat)
  | .ftosi => roundToInt s.mode 64 false (s.me.fp a p)
  | .ftoui => roundToInt s.mode 64 true (s.me.fp a p)
  | .stod => fmtF64.round s.mode (s.me.fp a false)
  | .dtos => fmtF32.round s.mode (s.me.fp a true)

def execFcvt (d a : SReg) (c : FcvtOp) (p : Bool) (s : State) : Host.Outcome State Fault Refusal :=
  let r := fcvtResult s a c p
  unit { scalars := [d, a] } s (.ok ((s.setReg d (BitVec.ofNat 64 r.1)).orScalarFlags r.2))

end Sys2Proof.Machine
end

