-- ==== Sys2Proof/Machine/ScalarInt.lean ====
section
/-! DEFINITION. The scalar integer instructions: majors 01 to 09 (18_reference_a_f.md R246, R247, R252;
19_reference_j_s.md R280, R283 to R285; 20_reference_t_z.md R329; 09_control.md R142; 05_numbers.md R74). -/

namespace Sys2Proof.Machine

/-- Unbounded quotient toward zero of R246: −1 for a zero divisor. -/
def divTrunc (x y : Int) : Int := if y = 0 then -1 else x.tdiv y

/-- The remainder of R283: the dividend for a zero divisor, else the sign of the dividend. -/
def remTrunc (x y : Int) : Int := if y = 0 then x else x.tmod y

/-- The number of set bits among the lowest n. -/
def popCount (x : Nat) : Nat → Nat
  | 0 => 0
  | n + 1 => x % 2 + popCount (x / 2) n

/-- The zero bits below the lowest set bit among the lowest n. -/
def trailZeros (x : Nat) : Nat → Nat
  | 0 => 0
  | n + 1 => if x % 2 = 1 then 0 else 1 + trailZeros (x / 2) n

/-- The zero bits above the highest set bit among the lowest n. -/
def leadZeros (x : Nat) : Nat → Nat
  | 0 => 0
  | n + 1 => if x / 2 ^ n % 2 = 1 then 0 else 1 + leadZeros x n

/-- A unit of the register forms: it writes sext(wrap(res, n), n) to sd (R246). -/
def intUnit (s : State) (names : List SReg) (d : SReg) (w : Bool) (res : Int) :
    Host.Outcome State Fault Refusal :=
  unit { scalars := names } s (.ok (s.setReg d (wrapWord w res)))

def execAdd (d a b : SReg) (w : Bool) (s : State) : Host.Outcome State Fault Refusal :=
  intUnit s [d, a, b] d w (s.me.opInt a w false + s.me.opInt b w false)

def execSub (d a b : SReg) (w : Bool) (s : State) : Host.Outcome State Fault Refusal :=
  intUnit s [d, a, b] d w (s.me.opInt a w false - s.me.opInt b w false)

def execMul (d a b : SReg) (w : Bool) (s : State) : Host.Outcome State Fault Refusal :=
  intUnit s [d, a, b] d w (s.me.opInt a w false * s.me.opInt b w false)

def execMulh (d a b : SReg) (w u : Bool) (s : State) : Host.Outcome State Fault Refusal :=
  intUnit s [d, a, b] d w (s.me.opInt a w u * s.me.opInt b w u / 2 ^ opWidth w)

def execDiv (d a b : SReg) (w u : Bool) (s : State) : Host.Outcome State Fault Refusal :=
  intUnit s [d, a, b] d w (divTrunc (s.me.opInt a w u) (s.me.opInt b w u))

def execRem (d a b : SReg) (w u : Bool) (s : State) : Host.Outcome State Fault Refusal :=
  intUnit s [d, a, b] d w (remTrunc (s.me.opInt a w u) (s.me.opInt b w u))

def execAnd (d a b : SReg) (w : Bool) (s : State) : Host.Outcome State Fault Refusal :=
  intUnit s [d, a, b] d w (s.me.reg a &&& s.me.reg b).toNat

def execOr (d a b : SReg) (w : Bool) (s : State) : Host.Outcome State Fault Refusal :=
  intUnit s [d, a, b] d w (s.me.reg a ||| s.me.reg b).toNat

def execXor (d a b : SReg) (w : Bool) (s : State) : Host.Outcome State Fault Refusal :=
  intUnit s [d, a, b] d w (s.me.reg a ^^^ s.me.reg b).toNat

/-- The amount of a register shift: sb modulo the width (R74, R283). -/
def Hart.shiftAmount (h : Hart) (b : SReg) (w : Bool) : Nat := h.opNat b w % opWidth w

def execShl (d a b : SReg) (w : Bool) (s : State) : Host.Outcome State Fault Refusal :=
  intUnit s [d, a, b] d w (s.me.opNat a w * 2 ^ s.me.shiftAmount b w : Nat)

def execShr (d a b : SReg) (w : Bool) (s : State) : Host.Outcome State Fault Refusal :=
  intUnit s [d, a, b] d w (s.me.opNat a w / 2 ^ s.me.shiftAmount b w : Nat)

def execSha (d a b : SReg) (w : Bool) (s : State) : Host.Outcome State Fault Refusal :=
  intUnit s [d, a, b] d w (s.me.opInt a w false / 2 ^ s.me.shiftAmount b w)

def execMin (d a b : SReg) (w u : Bool) (s : State) : Host.Outcome State Fault Refusal :=
  intUnit s [d, a, b] d w (min (s.me.opInt a w u) (s.me.opInt b w u))

def execMax (d a b : SReg) (w u : Bool) (s : State) : Host.Outcome State Fault Refusal :=
  intUnit s [d, a, b] d w (max (s.me.opInt a w u) (s.me.opInt b w u))

def execSlt (d a b : SReg) (w u : Bool) (s : State) : Host.Outcome State Fault Refusal :=
  intUnit s [d, a, b] d w (if s.me.opInt a w u < s.me.opInt b w u then 1 else 0)

def execSel (d a b : SReg) (s : State) : Host.Outcome State Fault Refusal :=
  unit { scalars := [d, a, b] } s (.ok (s.setReg d (if s.me.reg d = 0 then s.me.reg b else s.me.reg a)))

def execClz (d a : SReg) (w : Bool) (s : State) : Host.Outcome State Fault Refusal :=
  intUnit s [d, a] d w (leadZeros (s.me.opNat a w) (opWidth w))

def execCtz (d a : SReg) (w : Bool) (s : State) : Host.Outcome State Fault Refusal :=
  intUnit s [d, a] d w (trailZeros (s.me.opNat a w) (opWidth w))

def execPopc (d a : SReg) (w : Bool) (s : State) : Host.Outcome State Fault Refusal :=
  intUnit s [d, a] d w (popCount (s.me.opNat a w) (opWidth w))

/-- A unit of the immediate forms, which accept EXT (R38, R40). -/
def immUnit (s : State) (d a : SReg) (v : Word) : Host.Outcome State Fault Refusal :=
  unit { ext := true, scalars := [d, a] } s (.ok (s.setReg d v))

def execAddImm (d a : SReg) (i : BitVec 16) (s : State) : Host.Outcome State Fault Refusal :=
  immUnit s d a (s.me.reg a + BitVec.ofInt 64 (s.me.immS16 i))

def execAndImm (d a : SReg) (i : BitVec 16) (s : State) : Host.Outcome State Fault Refusal :=
  immUnit s d a (s.me.reg a &&& s.me.immZ16 i)

def execOrImm (d a : SReg) (i : BitVec 16) (s : State) : Host.Outcome State Fault Refusal :=
  immUnit s d a (s.me.reg a ||| s.me.immZ16 i)

def execXorImm (d a : SReg) (i : BitVec 16) (s : State) : Host.Outcome State Fault Refusal :=
  immUnit s d a (s.me.reg a ^^^ s.me.immZ16 i)

def execSltImm (d a : SReg) (i : BitVec 16) (s : State) : Host.Outcome State Fault Refusal :=
  immUnit s d a (if (s.me.reg a).toInt < s.me.immS16 i then 1 else 0)

/-- A unit of the immediate shifts, which act on 64 bits and accept no EXT (R284). -/
def shiftUnit (s : State) (d a : SReg) (v : Word) : Host.Outcome State Fault Refusal :=
  unit { scalars := [d, a] } s (.ok (s.setReg d v))

def execShlImm (d a : SReg) (n : BitVec 6) (s : State) : Host.Outcome State Fault Refusal :=
  shiftUnit s d a (s.me.reg a <<< n.toNat)

def execShrImm (d a : SReg) (n : BitVec 6) (s : State) : Host.Outcome State Fault Refusal :=
  shiftUnit s d a (s.me.reg a >>> n.toNat)

def execShaImm (d a : SReg) (n : BitVec 6) (s : State) : Host.Outcome State Fault Refusal :=
  shiftUnit s d a ((s.me.reg a).sshiftRight n.toNat)

def execLi (d : SReg) (i : BitVec 21) (s : State) : Host.Outcome State Fault Refusal :=
  unit { ext := true, scalars := [d] } s (.ok (s.setReg d (BitVec.ofInt 64 (s.me.immS i.toNat 21))))

/-- The width of a bit field, cut at bit 63 (R142). -/
def fieldWidth (off : BitVec 6) (width : BitVec 7) : Nat := min width.toNat (64 - off.toNat)

/-- The field of a word, as a number. -/
def fieldNat (x : Word) (off w : Nat) : Nat := x.toNat / 2 ^ off % 2 ^ w

def execBfx (d a : SReg) (o : BitVec 6) (w : BitVec 7) (s : State) : Host.Outcome State Fault Refusal :=
  unit { scalars := [d, a] } s
    (.ok (s.setReg d (BitVec.ofNat 64 (fieldNat (s.me.reg a) o.toNat (fieldWidth o w)))))

def execBfxS (d a : SReg) (o : BitVec 6) (w : BitVec 7) (s : State) : Host.Outcome State Fault Refusal :=
  let n := fieldWidth o w
  unit { scalars := [d, a] } s
    (.ok (s.setReg d (if n = 0 then 0 else BitVec.ofInt 64 (sext (fieldNat (s.me.reg a) o.toNat n) n))))

def execBfi (d a : SReg) (o : BitVec 6) (w : BitVec 7) (s : State) : Host.Outcome State Fault Refusal :=
  let n := fieldWidth o w
  let mask : Word := BitVec.ofNat 64 ((2 ^ n - 1) * 2 ^ o.toNat)
  unit { scalars := [d, a] } s
    (.ok (s.setReg d ((s.me.reg d &&& ~~~mask) ||| (s.me.reg a <<< o.toNat &&& mask))))

end Sys2Proof.Machine
end

