-- ==== Sys2Proof/Machine/System.lean ====
section
/-! DEFINITION. The system instructions of major 15, the prefixes, and the events that raise an exception without an
instruction of their own (14_traps.md R207 to R210; 03_formats.md R33, R44, R59; 18_reference_a_f.md R254;
19_reference_j_s.md R291; 20_reference_t_z.md R302, R303, R305). -/

namespace Sys2Proof.Machine

def execNop (s : State) : Host.Outcome State Fault Refusal := unit {} s (.ok s)

def execTrap (i : BitVec 16) (s : State) : Host.Outcome State Fault Refusal :=
  unit {} s (raise s .trapinst (i.setWidth 64))

def execBrk (i : BitVec 16) (s : State) : Host.Outcome State Fault Refusal :=
  unit {} s (raise s .brk (i.setWidth 64))

def execEret (s : State) : Host.Outcome State Fault Refusal :=
  unit { supervisor := true } s (.error (.goto s.leaveTrap))

/-- A prefix word is latched for the word after it, which the hart's next turn fetches before any other agent moves: a unit is
fetched as one (R33; log 19). A wrong prefix sequence is ILLEGAL (R59). -/
def latch (s : State) (bad : Bool) (h : Hart) : Host.Outcome State Fault Refusal :=
  if bad then .next (s.takeTrap s .illegal 0)
  else .next { s with me := { h with pc := h.pc + 4 }, agenda := .hart h.num :: s.agenda }

/-- A unit's optional first word (R33). -/
def execTok (w : Bool) (x : BitVec 3) (g : Bool) (y : BitVec 3) (s : State) : Host.Outcome State Fault Refusal :=
  latch s (s.me.prefixes != 0)
    { s.me with tok := some (BitVec.ofNat 32 (encode (.tok w x g y))) }

/-- A unit's optional second word (R33). -/
def execExt (v : BitVec 26) (s : State) : Host.Outcome State Fault Refusal :=
  latch s s.me.ext.isSome { s.me with ext := some v }

/-- A word that R44 does not allocate raises ILLEGAL at its unit. -/
def execIllegalEncoding (s : State) : Host.Outcome State Fault Refusal :=
  .next (s.takeTrap s .illegal 0)

/-- Fetching the word at the pc fails translation or permission, with EVA at the word (R33). -/
def execFetchFault (s : State) : Host.Outcome State Fault Refusal :=
  match s.locate s.me.pc .fetch with
  | .error c => .next (s.takeTrap (s.missed s.me.pc .fetch) c s.me.pc)
  | .ok _ => .next s

end Sys2Proof.Machine
end

