-- ==== Sys2Proof/Machine/VArith.lean ====
section
/-! DEFINITION. The element-wise instructions: majors 1C to 1F (20_reference_t_z.md R301, R307 to R315, R324). Each
appends one node; its element effect is in Element.lean and is computed by a pass. -/

namespace Sys2Proof.Machine

/-- A vector-vector arithmetic node; VFMA's accumulator is the node that vd names (R309). -/
def arithBody (op : ArithOp) (uns : Bool) (d a b : VReg) (m n : Bool) (p : PReg) (s : State) : Res State := do
  let x ← s.vsource a
  let y ← s.vsource b
  let acc ← if op = .fma then (do let c ← s.vsource d; pure [({ node := c, chain := true } : Edge)]) else pure []
  let pr ← s.psource p
  s.appendNode (.v d)
    (s.mkNode (.arith op uns) (some (s.regTag d)) ([{ node := x, chain := m }, { node := y, chain := n }] ++ acc) pr
      none 0)

/-- A unit of the vector-vector arithmetic of major 1C. -/
def arithUnit (op : ArithOp) (uns : Bool) (d a b : VReg) (m n : Bool) (p : PReg) (s : State) :
    Host.Outcome State Fault Refusal :=
  unit (passGate [] [d, a, b]) s (arithBody op uns d a b m n p s)

/-- A vector-scalar arithmetic node, with sb captured (R64, R309). -/
def arithVsBody (op : ArithOp) (uns : Bool) (d a : VReg) (b : SReg) (m : Bool) (p : PReg) (s : State) :
    Res State := do
  let x ← s.vsource a
  let acc ← if op = .fma then (do let c ← s.vsource d; pure [({ node := c, chain := true } : Edge)]) else pure []
  let pr ← s.psource p
  s.appendNode (.v d)
    (s.mkNode (.arith op uns) (some (s.regTag d)) ([{ node := x, chain := m }] ++ acc) pr (some (s.me.reg b)) 0)

/-- A unit of the vector-scalar arithmetic of major 1F. -/
def arithVsUnit (op : ArithOp) (uns : Bool) (d a : VReg) (b : SReg) (m : Bool) (p : PReg) (s : State) :
    Host.Outcome State Fault Refusal :=
  unit (passGate [b] [d, a]) s (arithVsBody op uns d a b m p s)

/-- A logic node: TAGERR where a source tag or vd's tag is floating (R310). -/
def logicBody (op : LogicOp) (d a b : VReg) (m n : Bool) (p : PReg) (s : State) : Res State := do
  let x ← s.vsource a
  let y ← s.vsource b
  let pr ← s.psource p
  s.tagCheck (!tagIsInt (s.nodeTag x) || !tagIsInt (s.nodeTag y) || !tagIsInt (s.regTag d))
  s.appendNode (.v d)
    (s.mkNode (.logic op) (some (s.regTag d)) [{ node := x, chain := m }, { node := y, chain := n }] pr none 0)

/-- A unit of the vector logic of major 1D. -/
def logicUnit (op : LogicOp) (d a b : VReg) (m n : Bool) (p : PReg) (s : State) :
    Host.Outcome State Fault Refusal :=
  unit (passGate [] [d, a, b]) s (logicBody op d a b m n p s)

/-- A vector-scalar logic node. -/
def logicVsBody (op : LogicOp) (d a : VReg) (b : SReg) (m : Bool) (p : PReg) (s : State) : Res State := do
  let x ← s.vsource a
  let pr ← s.psource p
  s.tagCheck (!tagIsInt (s.nodeTag x) || !tagIsInt (s.regTag d))
  s.appendNode (.v d)
    (s.mkNode (.logic op) (some (s.regTag d)) [{ node := x, chain := m }] pr (some (s.me.reg b)) 0)

/-- A unit of the vector-scalar logic of major 1F. -/
def logicVsUnit (op : LogicOp) (d a : VReg) (b : SReg) (m : Bool) (p : PReg) (s : State) :
    Host.Outcome State Fault Refusal :=
  unit (passGate [b] [d, a]) s (logicVsBody op d a b m p s)

/-- The unary operations that take only a floating source (R313). -/
def unaryFloatOnly : UnaryOp → Bool
  | .abs | .neg => false
  | _ => true

/-- A unary node. -/
def unaryBody (op : UnaryOp) (d a : VReg) (m : Bool) (p : PReg) (s : State) : Res State := do
  let x ← s.vsource a
  let pr ← s.psource p
  s.tagCheck (unaryFloatOnly op && tagIsInt (s.nodeTag x))
  s.appendNode (.v d) (s.mkNode (.unary op) (some (s.regTag d)) [{ node := x, chain := m }] pr none 0)

/-- A unit of the unary instructions of major 1E. -/
def unaryUnit (op : UnaryOp) (d a : VReg) (m : Bool) (p : PReg) (s : State) : Host.Outcome State Fault Refusal :=
  unit (passGate [] [d, a]) s (unaryBody op d a m p s)

/-- A VCVT node (R314). -/
def cvtBody (d a : VReg) (m u : Bool) (p : PReg) (r : VRound) (s : State) : Res State := do
  let x ← s.vsource a
  let pr ← s.psource p
  s.tagCheck (u && !tagIsInt (s.nodeTag x) && !tagIsInt (s.regTag d))
  s.appendNode (.v d) (s.mkNode (.cvt u r) (some (s.regTag d)) [{ node := x, chain := m }] pr none 0)

/-- A VSEL node (R310, R311). -/
def selBody (d a b : VReg) (m n : Bool) (p : PReg) (s : State) : Res State := do
  let x ← s.vsource a
  let y ← s.vsource b
  let pr ← s.psource p
  s.appendNode (.v d)
    (s.mkNode .sel (some (s.regTag d)) [{ node := x, chain := m }, { node := y, chain := n }] pr none 0)

/-- A VSPLAT or VIOTA node (R324). -/
def sourceless (op : NodeOp) (d : VReg) (b : SReg) (p : PReg) (s : State) : Res State := do
  let pr ← s.psource p
  s.appendNode (.v d) (s.mkNode op (some (s.regTag d)) [] pr (some (s.me.reg b)) 0)

/-! ### The instructions -/

def execVadd (d a b : VReg) (m n : Bool) (p : PReg) (s : State) : Host.Outcome State Fault Refusal :=
  arithUnit .add false d a b m n p s

def execVsub (d a b : VReg) (m n : Bool) (p : PReg) (s : State) : Host.Outcome State Fault Refusal :=
  arithUnit .sub false d a b m n p s

def execVmul (d a b : VReg) (m n : Bool) (p : PReg) (s : State) : Host.Outcome State Fault Refusal :=
  arithUnit .mul false d a b m n p s

def execVdiv (d a b : VReg) (m n : Bool) (p : PReg) (s : State) : Host.Outcome State Fault Refusal :=
  arithUnit .div false d a b m n p s

def execVfma (d a b : VReg) (m n : Bool) (p : PReg) (s : State) : Host.Outcome State Fault Refusal :=
  arithUnit .fma false d a b m n p s

def execVmin (d a b : VReg) (m n : Bool) (p : PReg) (s : State) : Host.Outcome State Fault Refusal :=
  arithUnit .min false d a b m n p s

def execVmax (d a b : VReg) (m n : Bool) (p : PReg) (s : State) : Host.Outcome State Fault Refusal :=
  arithUnit .max false d a b m n p s

def execVdivU (d a b : VReg) (m n : Bool) (p : PReg) (s : State) : Host.Outcome State Fault Refusal :=
  arithUnit .div true d a b m n p s

def execVand (d a b : VReg) (m n : Bool) (p : PReg) (s : State) : Host.Outcome State Fault Refusal :=
  logicUnit .and d a b m n p s

def execVor (d a b : VReg) (m n : Bool) (p : PReg) (s : State) : Host.Outcome State Fault Refusal :=
  logicUnit .or d a b m n p s

def execVxor (d a b : VReg) (m n : Bool) (p : PReg) (s : State) : Host.Outcome State Fault Refusal :=
  logicUnit .xor d a b m n p s

def execVshl (d a b : VReg) (m n : Bool) (p : PReg) (s : State) : Host.Outcome State Fault Refusal :=
  logicUnit .shl d a b m n p s

def execVshr (d a b : VReg) (m n : Bool) (p : PReg) (s : State) : Host.Outcome State Fault Refusal :=
  logicUnit .shrArith d a b m n p s

def execVshrU (d a b : VReg) (m n : Bool) (p : PReg) (s : State) : Host.Outcome State Fault Refusal :=
  logicUnit .shrLogical d a b m n p s

def execVsel (d a b : VReg) (m n : Bool) (p : PReg) (s : State) : Host.Outcome State Fault Refusal :=
  unit (passGate [] [d, a, b]) s (selBody d a b m n p s)

def execVabs (d a : VReg) (m : Bool) (p : PReg) (s : State) : Host.Outcome State Fault Refusal :=
  unaryUnit .abs d a m p s

def execVneg (d a : VReg) (m : Bool) (p : PReg) (s : State) : Host.Outcome State Fault Refusal :=
  unaryUnit .neg d a m p s

def execVsqrt (d a : VReg) (m : Bool) (p : PReg) (s : State) : Host.Outcome State Fault Refusal :=
  unaryUnit .sqrt d a m p s

def execVrsqrt (d a : VReg) (m : Bool) (p : PReg) (s : State) : Host.Outcome State Fault Refusal :=
  unaryUnit .rsqrt d a m p s

def execVrcp (d a : VReg) (m : Bool) (p : PReg) (s : State) : Host.Outcome State Fault Refusal :=
  unaryUnit .rcp d a m p s

def execVexp (d a : VReg) (m : Bool) (p : PReg) (s : State) : Host.Outcome State Fault Refusal :=
  unaryUnit .exp d a m p s

def execVlog (d a : VReg) (m : Bool) (p : PReg) (s : State) : Host.Outcome State Fault Refusal :=
  unaryUnit .log d a m p s

def execVtanh (d a : VReg) (m : Bool) (p : PReg) (s : State) : Host.Outcome State Fault Refusal :=
  unaryUnit .tanh d a m p s

def execVcvt (d a : VReg) (m u : Bool) (p : PReg) (r : VRound) (s : State) : Host.Outcome State Fault Refusal :=
  unit (passGate [] [d, a]) s (cvtBody d a m u p r s)

def execVaddVs (d a : VReg) (b : SReg) (m : Bool) (p : PReg) (s : State) : Host.Outcome State Fault Refusal :=
  arithVsUnit .add false d a b m p s

def execVsubVs (d a : VReg) (b : SReg) (m : Bool) (p : PReg) (s : State) : Host.Outcome State Fault Refusal :=
  arithVsUnit .sub false d a b m p s

def execVmulVs (d a : VReg) (b : SReg) (m : Bool) (p : PReg) (s : State) : Host.Outcome State Fault Refusal :=
  arithVsUnit .mul false d a b m p s

def execVdivVs (d a : VReg) (b : SReg) (m : Bool) (p : PReg) (s : State) : Host.Outcome State Fault Refusal :=
  arithVsUnit .div false d a b m p s

def execVfmaVs (d a : VReg) (b : SReg) (m : Bool) (p : PReg) (s : State) : Host.Outcome State Fault Refusal :=
  arithVsUnit .fma false d a b m p s

def execVminVs (d a : VReg) (b : SReg) (m : Bool) (p : PReg) (s : State) : Host.Outcome State Fault Refusal :=
  arithVsUnit .min false d a b m p s

def execVmaxVs (d a : VReg) (b : SReg) (m : Bool) (p : PReg) (s : State) : Host.Outcome State Fault Refusal :=
  arithVsUnit .max false d a b m p s

def execVdivUVs (d a : VReg) (b : SReg) (m : Bool) (p : PReg) (s : State) : Host.Outcome State Fault Refusal :=
  arithVsUnit .div true d a b m p s

def execVandVs (d a : VReg) (b : SReg) (m : Bool) (p : PReg) (s : State) : Host.Outcome State Fault Refusal :=
  logicVsUnit .and d a b m p s

def execVorVs (d a : VReg) (b : SReg) (m : Bool) (p : PReg) (s : State) : Host.Outcome State Fault Refusal :=
  logicVsUnit .or d a b m p s

def execVxorVs (d a : VReg) (b : SReg) (m : Bool) (p : PReg) (s : State) : Host.Outcome State Fault Refusal :=
  logicVsUnit .xor d a b m p s

def execVshlVs (d a : VReg) (b : SReg) (m : Bool) (p : PReg) (s : State) : Host.Outcome State Fault Refusal :=
  logicVsUnit .shl d a b m p s

def execVshrVs (d a : VReg) (b : SReg) (m : Bool) (p : PReg) (s : State) : Host.Outcome State Fault Refusal :=
  logicVsUnit .shrArith d a b m p s

def execVshrUVs (d a : VReg) (b : SReg) (m : Bool) (p : PReg) (s : State) : Host.Outcome State Fault Refusal :=
  logicVsUnit .shrLogical d a b m p s

def execVsplat (d : VReg) (b : SReg) (p : PReg) (s : State) : Host.Outcome State Fault Refusal :=
  unit (passGate [b] [d]) s (sourceless .splat d b p s)

def execViota (d : VReg) (b : SReg) (p : PReg) (s : State) : Host.Outcome State Fault Refusal :=
  unit (passGate [b] [d]) s (sourceless .iota d b p s)

end Sys2Proof.Machine
end

