-- ==== Sys2Proof/Machine/Dispatch.lean ====
section
/-! DEFINITION. The meaning of each instruction and event: one arm for each constructor of Instr. -/

namespace Sys2Proof.Machine

/-- What an instruction or event does to a state. -/
def exec (i : Instr) (s : State) : Host.Outcome State Fault Refusal :=
  match i with
  | .add d a b w => Sys2Proof.Machine.execAdd d a b w s
  | .addImm d a im => Sys2Proof.Machine.execAddImm d a im s
  | .sub d a b w => Sys2Proof.Machine.execSub d a b w s
  | .mul d a b w => Sys2Proof.Machine.execMul d a b w s
  | .mulh d a b w u => Sys2Proof.Machine.execMulh d a b w u s
  | .div d a b w u => Sys2Proof.Machine.execDiv d a b w u s
  | .rem d a b w u => Sys2Proof.Machine.execRem d a b w u s
  | .and d a b w => Sys2Proof.Machine.execAnd d a b w s
  | .andImm d a im => Sys2Proof.Machine.execAndImm d a im s
  | .or d a b w => Sys2Proof.Machine.execOr d a b w s
  | .orImm d a im => Sys2Proof.Machine.execOrImm d a im s
  | .xor d a b w => Sys2Proof.Machine.execXor d a b w s
  | .xorImm d a im => Sys2Proof.Machine.execXorImm d a im s
  | .shl d a b w => Sys2Proof.Machine.execShl d a b w s
  | .shr d a b w => Sys2Proof.Machine.execShr d a b w s
  | .sha d a b w => Sys2Proof.Machine.execSha d a b w s
  | .shlImm d a n => Sys2Proof.Machine.execShlImm d a n s
  | .shrImm d a n => Sys2Proof.Machine.execShrImm d a n s
  | .shaImm d a n => Sys2Proof.Machine.execShaImm d a n s
  | .min d a b w u => Sys2Proof.Machine.execMin d a b w u s
  | .max d a b w u => Sys2Proof.Machine.execMax d a b w u s
  | .slt d a b w u => Sys2Proof.Machine.execSlt d a b w u s
  | .sltImm d a im => Sys2Proof.Machine.execSltImm d a im s
  | .sel d a b => Sys2Proof.Machine.execSel d a b s
  | .clz d a w => Sys2Proof.Machine.execClz d a w s
  | .ctz d a w => Sys2Proof.Machine.execCtz d a w s
  | .popc d a w => Sys2Proof.Machine.execPopc d a w s
  | .li d im => Sys2Proof.Machine.execLi d im s
  | .bfx d a o w => Sys2Proof.Machine.execBfx d a o w s
  | .bfxS d a o w => Sys2Proof.Machine.execBfxS d a o w s
  | .bfi d a o w => Sys2Proof.Machine.execBfi d a o w s
  | .fadd d a b p => Sys2Proof.Machine.execFadd d a b p s
  | .fsub d a b p => Sys2Proof.Machine.execFsub d a b p s
  | .fmul d a b p => Sys2Proof.Machine.execFmul d a b p s
  | .fdiv d a b p => Sys2Proof.Machine.execFdiv d a b p s
  | .fma d a b p => Sys2Proof.Machine.execFma d a b p s
  | .fmin d a b p => Sys2Proof.Machine.execFmin d a b p s
  | .fmax d a b p => Sys2Proof.Machine.execFmax d a b p s
  | .fcmp d a b c p => Sys2Proof.Machine.execFcmp d a b c p s
  | .fcvt d a c p => Sys2Proof.Machine.execFcvt d a c p s
  | .ld d b z x o => Sys2Proof.Machine.execLd d b z x o s
  | .st d b z o => Sys2Proof.Machine.execSt d b z o s
  | .amoAdd d a b z r sc => Sys2Proof.Machine.execAmoAdd d a b z r sc s
  | .amoAnd d a b z r sc => Sys2Proof.Machine.execAmoAnd d a b z r sc s
  | .amoOr d a b z r sc => Sys2Proof.Machine.execAmoOr d a b z r sc s
  | .amoXor d a b z r sc => Sys2Proof.Machine.execAmoXor d a b z r sc s
  | .amoMin d a b z r sc => Sys2Proof.Machine.execAmoMin d a b z r sc s
  | .amoMax d a b z r sc => Sys2Proof.Machine.execAmoMax d a b z r sc s
  | .amoMinu d a b z r sc => Sys2Proof.Machine.execAmoMinu d a b z r sc s
  | .amoMaxu d a b z r sc => Sys2Proof.Machine.execAmoMaxu d a b z r sc s
  | .amoSwap d a b z r sc => Sys2Proof.Machine.execAmoSwap d a b z r sc s
  | .amoCas d a b z r sc => Sys2Proof.Machine.execAmoCas d a b z r sc s
  | .fenceFull sc => Sys2Proof.Machine.execFenceFull sc s
  | .fenceRel sc => Sys2Proof.Machine.execFenceRel sc s
  | .fenceAcq sc => Sys2Proof.Machine.execFenceAcq sc s
  | .fenceEng sc => Sys2Proof.Machine.execFenceEng sc s
  | .fenceXlat sc => Sys2Proof.Machine.execFenceXlat sc s
  | .fenceInst sc => Sys2Proof.Machine.execFenceInst sc s
  | .br c a b o => Sys2Proof.Machine.execBr c a b o s
  | .jmp o => Sys2Proof.Machine.execJmp o s
  | .call f o => Sys2Proof.Machine.execCall f o s
  | .jmpr t => Sys2Proof.Machine.execJmpr t s
  | .callr t f => Sys2Proof.Machine.execCallr t f s
  | .ret => Sys2Proof.Machine.execRet s
  | .loop c o => Sys2Proof.Machine.execLoop c o s
  | .nop => Sys2Proof.Machine.execNop s
  | .trap c => Sys2Proof.Machine.execTrap c s
  | .eret => Sys2Proof.Machine.execEret s
  | .brk c => Sys2Proof.Machine.execBrk c s
  | .crd sc n => Sys2Proof.Machine.execCrd sc n s
  | .cwr sc n => Sys2Proof.Machine.execCwr sc n s
  | .cwrCtxbase sc => Sys2Proof.Machine.execCwrCtxbase sc s
  | .cwrTimecmp sc => Sys2Proof.Machine.execCwrTimecmp sc s
  | .cwrPtbase sc => Sys2Proof.Machine.execCwrPtbase sc s
  | .cwrSpillp sc => Sys2Proof.Machine.execCwrSpillp sc s
  | .cwrSlots sc => Sys2Proof.Machine.execCwrSlots sc s
  | .cwrLend sc => Sys2Proof.Machine.execCwrLend sc s
  | .cwrVflags sc => Sys2Proof.Machine.execCwrVflags sc s
  | .cwrMshape sc => Sys2Proof.Machine.execCwrMshape sc s
  | .cwrBndsize sc => Sys2Proof.Machine.execCwrBndsize sc s
  | .cwrBstat sc => Sys2Proof.Machine.execCwrBstat sc s
  | .cwrTraceRegs sc n => Sys2Proof.Machine.execCwrTraceRegs sc n s
  | .cwrWatchpoint sc n => Sys2Proof.Machine.execCwrWatchpoint sc n s
  | .vconf d a => Sys2Proof.Machine.execVconf d a s
  | .vsetl d a b => Sys2Proof.Machine.execVsetl d a b s
  | .part d a => Sys2Proof.Machine.execPart d a s
  | .qset a q => Sys2Proof.Machine.execQset a q s
  | .vld v q c p o => Sys2Proof.Machine.execVld v q c p o s
  | .vldx v q im c p o => Sys2Proof.Machine.execVldx v q im c p o s
  | .vldff v q c p => Sys2Proof.Machine.execVldff v q c p s
  | .vst v q c p o => Sys2Proof.Machine.execVst v q c p o s
  | .vstx v q im c p o => Sys2Proof.Machine.execVstx v q im c p o s
  | .vadd d a b m n p => Sys2Proof.Machine.execVadd d a b m n p s
  | .vsub d a b m n p => Sys2Proof.Machine.execVsub d a b m n p s
  | .vmul d a b m n p => Sys2Proof.Machine.execVmul d a b m n p s
  | .vdiv d a b m n p => Sys2Proof.Machine.execVdiv d a b m n p s
  | .vfma d a b m n p => Sys2Proof.Machine.execVfma d a b m n p s
  | .vmin d a b m n p => Sys2Proof.Machine.execVmin d a b m n p s
  | .vmax d a b m n p => Sys2Proof.Machine.execVmax d a b m n p s
  | .vdivU d a b m n p => Sys2Proof.Machine.execVdivU d a b m n p s
  | .vand d a b m n p => Sys2Proof.Machine.execVand d a b m n p s
  | .vor d a b m n p => Sys2Proof.Machine.execVor d a b m n p s
  | .vxor d a b m n p => Sys2Proof.Machine.execVxor d a b m n p s
  | .vshl d a b m n p => Sys2Proof.Machine.execVshl d a b m n p s
  | .vshr d a b m n p => Sys2Proof.Machine.execVshr d a b m n p s
  | .vsel d a b m n p => Sys2Proof.Machine.execVsel d a b m n p s
  | .vshrU d a b m n p => Sys2Proof.Machine.execVshrU d a b m n p s
  | .vabs d a m p => Sys2Proof.Machine.execVabs d a m p s
  | .vneg d a m p => Sys2Proof.Machine.execVneg d a m p s
  | .vsqrt d a m p => Sys2Proof.Machine.execVsqrt d a m p s
  | .vrsqrt d a m p => Sys2Proof.Machine.execVrsqrt d a m p s
  | .vrcp d a m p => Sys2Proof.Machine.execVrcp d a m p s
  | .vexp d a m p => Sys2Proof.Machine.execVexp d a m p s
  | .vlog d a m p => Sys2Proof.Machine.execVlog d a m p s
  | .vtanh d a m p => Sys2Proof.Machine.execVtanh d a m p s
  | .vcvt d a m u p r => Sys2Proof.Machine.execVcvt d a m u p r s
  | .vaddVs d a sc m p => Sys2Proof.Machine.execVaddVs d a sc m p s
  | .vsubVs d a sc m p => Sys2Proof.Machine.execVsubVs d a sc m p s
  | .vmulVs d a sc m p => Sys2Proof.Machine.execVmulVs d a sc m p s
  | .vdivVs d a sc m p => Sys2Proof.Machine.execVdivVs d a sc m p s
  | .vfmaVs d a sc m p => Sys2Proof.Machine.execVfmaVs d a sc m p s
  | .vminVs d a sc m p => Sys2Proof.Machine.execVminVs d a sc m p s
  | .vmaxVs d a sc m p => Sys2Proof.Machine.execVmaxVs d a sc m p s
  | .vdivUVs d a sc m p => Sys2Proof.Machine.execVdivUVs d a sc m p s
  | .vandVs d a sc m p => Sys2Proof.Machine.execVandVs d a sc m p s
  | .vorVs d a sc m p => Sys2Proof.Machine.execVorVs d a sc m p s
  | .vxorVs d a sc m p => Sys2Proof.Machine.execVxorVs d a sc m p s
  | .vshlVs d a sc m p => Sys2Proof.Machine.execVshlVs d a sc m p s
  | .vshrVs d a sc m p => Sys2Proof.Machine.execVshrVs d a sc m p s
  | .vshrUVs d a sc m p => Sys2Proof.Machine.execVshrUVs d a sc m p s
  | .vsplat d sc p => Sys2Proof.Machine.execVsplat d sc p s
  | .viota d sc p => Sys2Proof.Machine.execViota d sc p s
  | .vcmp u k a b m n p r => Sys2Proof.Machine.execVcmp u k a b m n p r s
  | .kand d a b => Sys2Proof.Machine.execKand d a b s
  | .kor d a b => Sys2Proof.Machine.execKor d a b s
  | .kxor d a b => Sys2Proof.Machine.execKxor d a b s
  | .knot d a => Sys2Proof.Machine.execKnot d a s
  | .ksbf d a => Sys2Proof.Machine.execKsbf d a s
  | .ksif d a => Sys2Proof.Machine.execKsif d a s
  | .kpop a sc => Sys2Proof.Machine.execKpop a sc s
  | .kfirst a sc => Sys2Proof.Machine.execKfirst a sc s
  | .ktail a sc => Sys2Proof.Machine.execKtail a sc s
  | .kld d sc => Sys2Proof.Machine.execKld d sc s
  | .kst a sc => Sys2Proof.Machine.execKst a sc s
  | .vred sc a o m p => Sys2Proof.Machine.execVred sc a o m p s
  | .vscan d a o m p => Sys2Proof.Machine.execVscan d a o m p s
  | .vcomp d a m p => Sys2Proof.Machine.execVcomp d a m p s
  | .vexpd d a m p => Sys2Proof.Machine.execVexpd d a m p s
  | .vperm d a b m n p => Sys2Proof.Machine.execVperm d a b m n p s
  | .vforce => Sys2Proof.Machine.execVforce s
  | .vdrop d a => Sys2Proof.Machine.execVdrop d a s
  | .mmodeOn n => Sys2Proof.Machine.execMmodeOn n s
  | .mmodeOff => Sys2Proof.Machine.execMmodeOff s
  | .mmodeOffRel => Sys2Proof.Machine.execMmodeOffRel s
  | .tileGrant core => Sys2Proof.Machine.execTileGrant core s
  | .mshape m n => Sys2Proof.Machine.execMshape m n s
  | .zzero z => Sys2Proof.Machine.execZzero z s
  | .mma z a b m n c => Sys2Proof.Machine.execMma z a b m n c s
  | .mmas z a b k m n c => Sys2Proof.Machine.execMmas z a b k m n c s
  | .zld z a b => Sys2Proof.Machine.execZld z a b s
  | .zst z a b => Sys2Proof.Machine.execZst z a b s
  | .bdim a r => Sys2Proof.Machine.execBdim a r s
  | .bcon a k => Sys2Proof.Machine.execBcon a k s
  | .brun a => Sys2Proof.Machine.execBrun a s
  | .bondStep => Sys2Proof.Machine.execBondStep s
  | .bld a b => Sys2Proof.Machine.execBld a b s
  | .bst a b => Sys2Proof.Machine.execBst a b s
  | .cpy a b c => Sys2Proof.Machine.execCpy a b c s
  | .cpyComplete im => Sys2Proof.Machine.execCpyComplete im s
  | .launch a => Sys2Proof.Machine.execLaunch a s
  | .launchP a => Sys2Proof.Machine.execLaunchP a s
  | .shape a b => Sys2Proof.Machine.execShape a b s
  | .trig => Sys2Proof.Machine.execTrig s
  | .wpred => Sys2Proof.Machine.execWpred s
  | .bar => Sys2Proof.Machine.execBar s
  | .endI => Sys2Proof.Machine.execEndI s
  | .spawn a b c => Sys2Proof.Machine.execSpawn a b c s
  | .dqpush a b => Sys2Proof.Machine.execDqpush a b s
  | .dqpop a b => Sys2Proof.Machine.execDqpop a b s
  | .dqsteal a b c => Sys2Proof.Machine.execDqsteal a b c s
  | .fwait a b => Sys2Proof.Machine.execFwait a b s
  | .fput a b => Sys2Proof.Machine.execFput a b s
  | .yield => Sys2Proof.Machine.execYield s
  | .yieldPauseEnd => Sys2Proof.Machine.execYieldPauseEnd s
  | .trace a c => Sys2Proof.Machine.execTrace a c s
  | .traceRecordWrite core => Sys2Proof.Machine.execTraceRecordWrite core s
  | .vtag d a t => Sys2Proof.Machine.execVtag d a t s
  | .tok w x sc y => Sys2Proof.Machine.execTok w x sc y s
  | .ext v => Sys2Proof.Machine.execExt v s
  | .passStrip => Sys2Proof.Machine.execPassStrip s
  | .passElementStop e => Sys2Proof.Machine.execPassElementStop e s
  | .spadReadRequest => Sys2Proof.Machine.execSpadReadRequest s
  | .spadReadReply => Sys2Proof.Machine.execSpadReadReply s
  | .spadWrite => Sys2Proof.Machine.execSpadWrite s
  | .spadWriteAck => Sys2Proof.Machine.execSpadWriteAck s
  | .hartStart gang j => Sys2Proof.Machine.execHartStart gang j s
  | .shapePublication => Sys2Proof.Machine.execShapePublication s
  | .hartConfirm => Sys2Proof.Machine.execHartConfirm s
  | .hartSquash => Sys2Proof.Machine.execHartSquash s
  | .timer => Sys2Proof.Machine.execTimer s
  | .watchRecord => Sys2Proof.Machine.execWatchRecord s
  | .watchimp => Sys2Proof.Machine.execWatchimp s
  | .machine => Sys2Proof.Machine.execMachine s
  | .remoteAccessTimeout => Sys2Proof.Machine.execRemoteAccessTimeout s
  | .packageReset b => Sys2Proof.Machine.execPackageReset b s
  | .healthReport => Sys2Proof.Machine.execHealthReport s
  | .healthTimeout b => Sys2Proof.Machine.execHealthTimeout b s
  | .firmwareUpdate u => Sys2Proof.Machine.execFirmwareUpdate u s
  | .mbxCoreDump => Sys2Proof.Machine.execMbxCoreDump s
  | .mbxMigratePage => Sys2Proof.Machine.execMbxMigratePage s
  | .mbxReadSensors => Sys2Proof.Machine.execMbxReadSensors s
  | .mbxAttestation => Sys2Proof.Machine.execMbxAttestation s
  | .mbxReadEventLog => Sys2Proof.Machine.execMbxReadEventLog s
  | .migrationChunkCopied im => Sys2Proof.Machine.execMigrationChunkCopied im s
  | .linkRetrain a b ok => Sys2Proof.Machine.execLinkRetrain a b ok s
  | .powerLimitThrottle => Sys2Proof.Machine.execPowerLimitThrottle s
  | .powerLimitRecover => Sys2Proof.Machine.execPowerLimitRecover s
  | .thermalThrottle cluster => Sys2Proof.Machine.execThermalThrottle cluster s
  | .thermalShutdown => Sys2Proof.Machine.execThermalShutdown s
  | .laneRemapWrite core assigned lmod => Sys2Proof.Machine.execLaneRemapWrite core assigned lmod s
  | .remoteDeviceAccess r => Sys2Proof.Machine.execRemoteDeviceAccess r s
  | .illegalEncoding => Sys2Proof.Machine.execIllegalEncoding s
  | .fetchFault => Sys2Proof.Machine.execFetchFault s

end Sys2Proof.Machine
end

