-- ==== Sys2Proof/Machine/Turn.lean ====
section
/-! DEFINITION. A hart's turn: what it executes next (03_formats.md R33, R59; 14_traps.md R209), and the agenda of the
package (log 5). -/

namespace Sys2Proof.Machine

/-- The interrupt that the hart takes at its next boundary, MACHINE before WATCHIMP before TIMER (R209); a unit whose pass has
just completed is tried once first. -/
def State.interruptDue (s : State) : Option Instr :=
  if !esIe s.me.cr.estatus || s.me.fresh then none
  else if !s.me.machine.isEmpty then some .machine
  else if s.oldestWatch.isSome then some .watchimp
  else if s.timerDue then some .timer
  else none

/-- What a hart's turn comes to: nothing beyond a state, or an instruction or event that it executes. -/
inductive Pick where
  | idle (s : State)
  | run (i : Instr) (s : State)

/-- The word is a prefix (R40, R44). -/
def isPrefix (w : Nat) : Bool := fld w 26 6 == 0x30 || fld w 26 6 == 0x31

/-- The instruction at the pc, a prefix word included; a token word that R41 forbids is latched as it is (R59). -/
def State.fetch (s : State) : Pick :=
  match s.locate s.me.pc .fetch with
  | .error _ => .run .fetchFault s
  | .ok (s1, loc) =>
    if s1.heldByOther loc 4 then .idle s1
    else
      let (s2, bs) := s1.readLoc loc 4
      let w := leNat bs
      match decode w with
      | some i => .run i s2
      | none =>
        if fld w 26 6 = 0x30 && s2.me.prefixes == 0 then
          .idle { s2 with
            me := { s2.me with tok := some (BitVec.ofNat 32 w), pc := s2.me.pc + 4 }
            agenda := .hart s2.me.num :: s2.agenda }
        else .run .illegalEncoding s2

/-- A TRACE of the hart that waits for room has not issued: executed again it issues afresh (15_debug.md R219; R209). -/
def State.untrace (s : State) : State :=
  let c := s.myCore
  if c.traceWait.any fun r => r.owner == s.me.num then
    s.setCore { c with traceWait := c.traceWait.filter fun r => r.owner != s.me.num }
  else s

/-- The hart as it takes an interrupt: its pass stops at the strip boundary, an order program stops, a wait for tiles or for
room of the trace FIFO and the pause of a YIELD end (R209; 12_launch.md R186). -/
def State.readyToTrap (s : State) : State :=
  let s1 := match s.me.vec.pass with
    | some p => if p.suspended then s else s.stopPass p p.progress []
    | none => s
  ({ s1 with me := { s1.me with brun := none, pause := false } } : State).withdraw.untrace

/-- How far a hart's pass has come: what a strip that is not held back changes. -/
def Hart.passKey (h : Hart) : Option (Nat × Nat × Nat × Bool × List Nat × List (List (Option (Nat × Int)))) :=
  h.vec.pass.map fun p => (p.progress, p.saved, p.outstanding, p.suspended, p.commits, p.taken)

/-- A unit has retired or taken an exception, or the hart has stopped. -/
def Hart.movedFrom (h h0 : Hart) : Bool :=
  h.pc != h0.pc || h.cr.lc != h0.cr.lc || h.level != h0.level || h.status != h0.status

/-- A strip of the hart's pass goes on: nothing of it waits (08_faults.md R117; 12_launch.md R176, R177; log 34). -/
def State.stripMoves (s : State) : Bool :=
  let t := settle .v s (s.passTurn none)
  t.me.passKey != s.me.passKey || t.me.movedFrom s.me

/-- Two harts are of one lane group of one core. -/
def State.sameGroup (s : State) (a b : Hart) : Bool :=
  a.core == b.core && (s.coreAt a.core).group a.slot == (s.coreAt a.core).group b.slot

/-- A strip of a hart's pass is under way: it has sent requests to the cluster window and has not gone on with what they brought
(07_streams.md R110). -/
def State.midStrip (s : State) (h : Hart) : Bool :=
  (h.vec.pass.map fun p => !p.suspended
    && (!p.got.isEmpty || s.packets.any fun q => decide (q.kind < 2) && q.requester == h.num)).getD false

/-- The pass unit of a hart's lane group holds a strip of another hart, until that has committed (06_forme.md R102). -/
def State.unitHeld (s : State) (h : Hart) : Bool :=
  s.harts.any fun x => x.num != h.num && x.resident && s.sameGroup h x && s.midStrip x

/-- A hart of the state has a pass that its pass unit could run now: the unit holds no other hart's strip, it waits for no packet,
no copy and no room, its stores do not drain, no interrupt stops it, and it has not yielded (06_forme.md R102; 12_launch.md R170,
R178, R186). -/
def State.stripReady (s : State) (h : Hart) : Bool :=
  let t := s.select h.num
  h.status == .running && h.yieldTurns == 0 && !h.draining && t.interruptDue.isNone
    && (h.vec.pass.map fun p => !p.suspended && p.outstanding == 0).getD false && !s.unitHeld h && t.stripMoves

/-- Another hart of a hart's lane group could run a strip now. -/
def State.otherReady (s : State) (h : Hart) : Bool :=
  s.harts.any fun x => x.num != h.num && s.sameGroup h x && s.stripReady x

/-- The wait of a yielded hart's pass-unit slots ends when no other hart of its group is ready (12_launch.md R186). -/
def State.endYield (s : State) (h : Hart) : Hart :=
  if h.yieldTurns = 0 || s.otherReady h then h else { h with yieldTurns := 0 }

/-- Every such wait that ends. -/
def State.endYields (s : State) : State := { s with me := s.endYield s.me, others := s.others.map s.endYield }

/-- A hart of the same group sees a strip turn of the hart whose turn it is go by. -/
def State.countTurn (s : State) (h : Hart) : Hart :=
  if s.sameGroup s.me h then { h with yieldTurns := h.yieldTurns - 1 } else h

/-- A strip turn: it counts for the yielded harts of the group (12_launch.md R186); a strip that goes on after its replies is in the
turn that it has begun. -/
def State.stripTurn (s : State) : Pick :=
  if !s.stripReady s.me then .idle s
  else .run .passStrip (if s.midStrip s.me then s else { s with others := s.others.map s.countTurn })

/-- What a running hart executes: its pass or order program until an interrupt stops it, an interrupt, or the word at
its pc; nothing while its buffered stores still drain (12_launch.md R178), or while its pass waits for packets. -/
def State.pickRunning (s : State) : Pick :=
  match s.me.vec.pass.filter fun p => !p.suspended with
  | some p =>
    match s.interruptDue with
    | some i => if p.outstanding = 0 then .run i s.readyToTrap else .idle s
    | none => s.stripTurn
  | none =>
    match s.interruptDue with
    | some i => .run i s.readyToTrap
    | none =>
      let s1 : State := { s with me := { s.me with fresh := false } }
      if s.me.pause || s.me.draining then .idle s
      else if s.me.brun.isSome then .run .bondStep s1
      else s1.fetch

/-- The turn of the hart that has been selected. A parked hart leaves its cell's queue for an interrupt. -/
def State.pick (s : State) : Pick :=
  match s.me.status with
  | .running => s.pickRunning
  | .parked _ _ =>
    match s.interruptDue with
    | some i => .run i { s.readyToTrap with me := { s.readyToTrap.me with status := .running } }
    | none => .idle s
  | _ => .idle s

/-- The rows of the table that are events of the package's engines, of its management and of the outside, which the
agenda may name; every other row runs only as a hart's fetched unit or as its own turn (log 5). -/
def agendaEvent (i : Instr) : Bool :=
  match i with
  | .tileGrant _ | .cpyComplete _ | .yieldPauseEnd | .traceRecordWrite _ | .passElementStop _ | .spadReadRequest
  | .spadReadReply | .spadWrite | .spadWriteAck | .hartStart _ _ | .shapePublication | .hartConfirm | .hartSquash
  | .watchRecord | .remoteAccessTimeout | .packageReset _ | .healthReport | .healthTimeout _ | .firmwareUpdate _
  | .mbxCoreDump | .mbxMigratePage | .mbxReadSensors | .mbxAttestation | .mbxReadEventLog | .migrationChunkCopied _
  | .linkRetrain _ _ _ | .powerLimitThrottle | .powerLimitRecover | .thermalThrottle _ | .thermalShutdown
  | .laneRemapWrite _ _ _ | .remoteDeviceAccess _ => true
  | _ => false

/-- What the outside, and the free order of the agents, put before the round that begins in a step (log 5). -/
opaque Config.outside : Nat → List Turn

/-- The events of a hart's engines that are enabled. -/
def Hart.events (h : Hart) : List Turn :=
  (if h.copies.isEmpty then [] else [.event h.num (.cpyComplete 0)])
    ++ (if h.pause then [.event h.num .yieldPauseEnd] else [])
    ++ (if h.draining then [.event h.num .hartConfirm] else [])

/-- The events of a core that are enabled. -/
def Core.events (c : Core) (n : Nat) : List Turn :=
  (if c.tileQueue.any fun r => !r.granted then [.event n (.tileGrant c.num)] else [])
    ++ (if c.traceFifo.isEmpty then [] else [.event n (.traceRecordWrite c.num)])

/-- A running image has not reported healthy within 60 s of the reset (16_system.md R234). -/
def State.healthDue (s : State) : Bool :=
  !s.recovery && decide (60000000000 ≤ s.time.toNat) && (s.mgmt.unhealthy || s.millerFw.unhealthy)

/-- The events of the package that are enabled. -/
def State.events (s : State) : List Turn :=
  let n := s.me.num
  s.harts.flatMap Hart.events ++ s.cores.flatMap (fun c => c.events n)
    ++ s.waiting.map (fun w => .event n (.hartStart w.2.2.1 w.2.2.2))
    ++ (if s.watchFlight.isEmpty then [] else [.event n .watchRecord])
    ++ (if s.packets.isEmpty then []
      else [.event n .spadReadRequest, .event n .spadReadReply, .event n .spadWrite, .event n .spadWriteAck])
    ++ (List.range s.migrations.length).map (fun i => .event n (.migrationChunkCopied i))
    ++ (if s.posted.isNone then []
      else [.event n .mbxCoreDump, .event n .mbxMigratePage, .event n .mbxReadSensors, .event n .mbxAttestation,
        .event n .mbxReadEventLog])
    ++ (if s.healthDue then [.event n (.healthTimeout (Config.bootInputs s.resets))] else [])

/-- One fair round of every agent after what the outside and the free order put before it, when nothing is left on the
agenda; before the first package reset, that reset (log 5, log 4). -/
def State.refill (s : State) : State :=
  { s with agenda := Config.outside s.stepNo ++
    (if s.booted then (s.harts.filter Hart.resident).map (fun h => .hart h.num) ++ s.events
    else [.event s.me.num (.packageReset (Config.bootInputs s.resets))]) }

/-- TIME moves on by the ticks of the step (01_device.md R21; log 6). -/
def State.tick (s : State) : State :=
  { s with time := s.time + BitVec.ofNat 64 (Config.ticks s.stepNo), stepNo := s.stepNo + 1 }

/-- The word at a hart's pc, as the hart would fetch it; none where the fetch faults. -/
def State.wordOf (s : State) (h : Hart) : Option Nat :=
  match ({ s with me := h } : State).locate h.pc .fetch with
  | .error _ => none
  | .ok (t, loc) => some (leNat (t.readLoc loc 4).2)

/-- A word is a BCON or a BRUN, whose steps run on the matrix array (11_bond.md R159, R164). -/
def isStep (w : Nat) : Bool := fld w 26 6 == 0x27 && (fld w 6 5 == 1 || fld w 6 5 == 2)

/-- Word k of entry j of the pair table (15_debug.md R225). -/
def CtrlRegs.pairAt (c : CtrlRegs) (j : Fin 16) (k : Fin 4) : Word := c.pairw[4 * j.val + k.val]

/-- The entry with the fewest lost cycles, the lowest index among ties. -/
def CtrlRegs.pairLeast (c : CtrlRegs) : Fin 16 :=
  (List.finRange 16).foldl (fun b j => if (c.pairAt j 2).toNat < (c.pairAt b 2).toNat then j else b) 0

/-- The entry that a pair of pcs uses, and whether it holds that pair already (15_debug.md R225). -/
def CtrlRegs.pairEntry (c : CtrlRegs) (p q : Word) : Fin 16 × Bool :=
  match (List.finRange 16).find? fun j => c.pairAt j 0 == (p ||| 1) && c.pairAt j 1 == q with
  | some j => (j, true)
  | none => (((List.finRange 16).find? fun j => !(c.pairAt j 0).getLsbD 0).getD c.pairLeast, false)

/-- A wait episode of some cycles is charged to a pair; its lag counts where it is the greatest (15_debug.md R225). -/
def CtrlRegs.chargePair (c : CtrlRegs) (producer consumer : Word) (cycles lag : Nat) : CtrlRegs :=
  let p := keepBits producer 55 2
  let q := keepBits consumer 55 2
  let (j, same) := c.pairEntry p q
  let old (k : Fin 4) : Nat := if same then (c.pairAt j k).toNat else 0
  let episodes := min (old 3 / 2 ^ 40 + 1) (2 ^ 24 - 1)
  let most := max (old 3 % 2 ^ 40) (min lag (2 ^ 40 - 1))
  let w := c.pairw
  let w0 := w.set (4 * j.val) (p ||| 1)
  let w1 := w0.set (4 * j.val + 1) q
  let w2 := w1.set (4 * j.val + 2) (BitVec.ofNat 64 (old 2 + cycles))
  { c with pairw := w2.set (4 * j.val + 3) (BitVec.ofNat 64 (episodes * 2 ^ 40 + most)) }

/-- A producer and a consumer of a chain wait in the hart's pass: the nodes of an edge that it reaches, or a node and the sink that
takes its elements. -/
def Hart.chains (h : Hart) : List (Word × Word) :=
  let blame (n : Nat) : List Word := ((findNode h.vec.forme n).map (·.blame)).toList
  (reachedNodes h.vec).flatMap (fun n => n.uses.flatMap fun m => (blame m).map fun w => (w, n.blame))
    ++ h.vec.galley.flatMap fun g => g.seeds.flatMap fun m => (blame m).map fun w => (w, g.pc)

/-- The unit whose token a unit of a queue takes, where it waits on queue x: the one that gave the FIFO's first token, or else the
first that will give it one, which owes it or whose sink or copy has yet to complete. -/
def Hart.tokenGivers (h : Hart) (x : Nat) (q : Queue) : List Word :=
  match h.givers.get (fifo x q.num) with
  | g :: _ => g.toList
  | [] =>
    (((h.owed.filter fun o => o.1.num == x && o.2.1 == q).map fun o => o.2.2)
      ++ ((h.vec.galley.filter fun g => g.signal == some q && x == 1).map (·.pc))
      ++ ((h.copies.filter fun c => c.signal == some q && x == 4).map (·.pc))).take 1

/-- The scalars that the fields of a word name (03_formats.md R35, R52, R54, R55); a field that an instruction leaves unused holds
s0. -/
def namedScalars (w : Nat) : List SReg :=
  let at' (lo : Nat) : SReg := BitVec.ofNat 5 (fld w lo 5)
  match fld w 26 6 with
  | 0x01 | 0x0A | 0x0D | 0x18 | 0x19 | 0x27 | 0x28 | 0x29 | 0x2A | 0x2B | 0x2C => [at' 21, at' 16, at' 11]
  | 0x02 | 0x03 | 0x04 | 0x05 | 0x06 | 0x07 | 0x09 | 0x0B | 0x0C => [at' 21, at' 16]
  | 0x08 | 0x14 | 0x16 | 0x17 => [at' 21]
  | 0x10 => [at' 18, at' 13]
  | 0x13 => [at' 16]
  | 0x1F | 0x21 => [at' 9]
  | 0x22 => if fld w 0 3 = 0 then [at' 20] else []
  | 0x24 => if fld w 3 2 = 1 then [at' 18, at' 12] else []
  | 0x26 => [at' 18, at' 12]
  | _ => []

/-- The registers that the fields of a word of the matrix queue name (03_formats.md R35, R53 to R55), numbered as their writers are
noted. -/
def namedMatrix (w : Nat) : List (Fin 88) :=
  let v (i : Nat) : Fin 88 := matV (BitVec.ofNat 6 i)
  let k (lo : Nat) : List (Fin 88) := if fld w lo 4 = 0 then [] else [matK (BitVec.ofNat 4 (fld w lo 4))]
  let z : List (Fin 88) := [matZ (BitVec.ofNat 3 (fld w 23 3))]
  match fld w 26 6 with
  | 0x1A | 0x1B => v (fld w 20 6) :: (if fld w 6 3 = 0 then [] else [matK (BitVec.ofNat 4 (fld w 6 3))])
  | 0x21 => k 22 ++ k 18 ++ k 14
  | 0x24 => if fld w 3 2 = 2 then z else []
  | 0x25 => z ++ [v (fld w 17 6)] ++ (List.range (if fld w 7 4 = 0 then 8 else 16)).map (fun i => v (fld w 11 6 + i)) ++ k 7
  | 0x26 => z
  | _ => []

/-- The last writers of the registers that a word names, the sinks that have yet to write a pending scalar among them. -/
def Hart.registerWriters (h : Hart) (w : Nat) : List Word :=
  (namedScalars w).flatMap (fun r =>
      (h.writers.get (h.phys r)).toList ++ (h.vec.galley.filter fun g => r != 0 && g.scalar == some (h.phys r)).map (·.pc))
    ++ (if h.vec.matrix then (namedMatrix w).flatMap fun i => (h.matWriters.get i).toList else [])

/-- The leaves and sinks of a running pass that wait for a copy in flight, with the copy (08_faults.md R117). -/
def Hart.passHolders (h : Hart) : List (Word × Word) :=
  match h.vec.pass with
  | none => []
  | some p => h.copies.flatMap fun c =>
      (p.leaves.filterMap fun l =>
        if decide (l.lo ≤ l.hi) && (Range.mk l.lo l.hi).meets (rangeOf c.dst c.count) then
          (findNode h.vec.forme l.node).map fun n => (c.pc, n.blame)
        else none)
      ++ h.vec.galley.filterMap fun g => (sinkRange h.vec g).bind fun r =>
        if r.meets (rangeOf c.dst c.count) || r.meets (rangeOf c.src c.count) then some (c.pc, g.pc) else none

/-- The pairs of a producer and a consumer that a wait of a kind can be charged to (15_debug.md R225): the unit at the hart's pc and
what it waits for, or the parts of a pass. -/
def State.waitPairs (s : State) (h : Hart) (k : PairWait) : List (Word × Word) :=
  let unit (ps : List Word) : List (Word × Word) := ps.map fun p => (p, h.unitPc)
  let word := (s.wordOf h).filter fun w => !isPrefix w
  match k with
  | .token =>
    match word, h.tok.bind tokWait with
    | some w, some x => unit (h.tokenGivers x (queueOf (wordQueue h.vec.matrix w)))
    | _, _ => []
  | .interlock => unit h.holders ++ h.passHolders
  | .scoreboard => unit ((word.map h.registerWriters).getD [])
  | .chain => if h.vec.pass.isSome then h.chains else []

/-- The rule of R225 holds for a wait: the pair is one that the hart waits on in that way, and there is a lag only for a chain
wait. -/
def State.pairFits (s : State) (h : Hart) (k : PairWait) (producer consumer : Word) (lag : Nat) : Bool :=
  let same (a b : Word) : Bool := keepBits a 55 2 == keepBits b 55 2
  (k == .chain || lag == 0) && (s.waitPairs h k).any fun x => same x.1 producer && same x.2 consumer

/-- The word of the hart's next unit, where it is one of engine e's queue and waits before the engine accepts it. -/
def State.engineNext (s : State) (h : Hart) (e : Nat) : Option Nat :=
  (if h.status == .running && !h.pause then s.wordOf h else none).filter fun w =>
    !isPrefix w && wordQueue h.vec.matrix w == e + 1

/-- The hart's next unit is a step that its next turn would bring to the matrix array. -/
def State.stepNext (s : State) (h : Hart) : Bool := h.brun.isSome || (s.engineNext h 2).any isStep

/-- Engine e of a core has work from a hart: what the engine does for it already, or the hart's next unit, which waits before the
engine accepts it (15_debug.md R224); bond steps are work of the matrix array too (01_device.md R13). -/
def State.engineWork (s : State) (h : Hart) (e : Nat) : Bool :=
  (match e with
    | 0 => (h.vec.pass.map fun p => !p.suspended).getD false
    | 1 => s.stepNext h
    | 2 => h.brun.isSome
    | _ => !h.copies.isEmpty)
  || (s.engineNext h e).isSome

/-- The engine's work for a hart reads memory: a pass with a leaf, VLD or ZLD, a bond step or BLD and BST, or a copy. -/
def State.engineReads (s : State) (h : Hart) (e : Nat) : Bool :=
  match e with
  | 0 => (h.vec.pass.map fun p => !p.suspended).getD false && (reachedNodes h.vec).any Node.isLeaf
  | 1 => s.stepNext h || (s.engineNext h 1).any fun w => fld w 26 6 == 0x1A || fld w 26 6 == 0x21 || fld w 26 6 == 0x26
  | 2 => h.brun.isSome || (s.engineNext h 2).any fun w => fld w 6 5 != 0
  | _ => !h.copies.isEmpty || (s.engineNext h 3).isSome

/-- The same for writes: a store sink, VST or ZST, a bond step or BLD and BST, or a copy. -/
def State.engineWrites (s : State) (h : Hart) (e : Nat) : Bool :=
  match e with
  | 0 => (h.vec.pass.map fun p => !p.suspended).getD false && h.vec.galley.any fun g => (sinkRange h.vec g).isSome
  | 1 => s.stepNext h || (s.engineNext h 1).any fun w => fld w 26 6 == 0x1B || fld w 26 6 == 0x21 || fld w 26 6 == 0x26
  | 2 => h.brun.isSome || (s.engineNext h 2).any fun w => fld w 6 5 != 0
  | _ => !h.copies.isEmpty || (s.engineNext h 3).isSome

/-- Another hart of the core has work for an engine; for the pass units, one of the same lane group. -/
def State.contended (s : State) (h : Hart) (e : Nat) : Bool :=
  s.harts.any fun x => x.num != h.num && x.resident && x.core == h.core && (e != 0 || s.sameGroup h x) && s.engineWork x e

/-- The hart's work for engine e can wait for a cause (15_debug.md R224). That one of several such causes is charged comes with the
event (log 9). -/
def State.stallFits (s : State) (h : Hart) (e c : Nat) : Bool :=
  let next := s.engineNext h e
  let q := queueOf (e + 1)
  match c with
  | 0 => s.engineReads h e
  | 1 => s.engineReads h e || s.engineWrites h e
  | 2 => (next.isSome && !h.holders.isEmpty) || (e == 0 && !h.passHolders.isEmpty)
  | 3 => h.owes q || (next.isSome && (h.tokBlocked q || h.signalBlocked q))
  | 4 => (e == 0 && h.vec.pass.isSome && !h.chains.isEmpty) || next.any fun w => !(h.registerWriters w).isEmpty
  | 5 => s.contended h e
  | 6 => h.provisional || (s.coreAt h.core).tileQueue.any (·.hart == h.num) || s.engineReads h e || s.engineWrites h e
  | _ => s.engineWrites h e

/-- STALLi of a core counts cycles in which engine i div 8 has work and issues nothing, where cause i mod 8 is one that a hart's work
can wait for (15_debug.md R224; log 9). -/
def State.countStall (s : State) (core i cycles : Nat) : State :=
  if h : i < 32 then
    if s.harts.any fun x => x.core == core && x.resident && s.engineWork x (i / 8) && s.stallFits x (i / 8) (i % 8) then
      let c := s.coreAt core
      s.setCore { c with stall := c.stall.set i (c.stall[i] + BitVec.ofNat 64 cycles) }
    else s
  else s

/-- An effect of the outside, or of time, that has no row of its own (14_traps.md R207, R217; 15_debug.md R224, R225). -/
def State.envStep (s : State) (e : EnvEvent) : State :=
  match e with
  | .softError loc => { s with softErrors := loc :: s.softErrors }
  | .tlbEvict i => { s with tlb := s.tlb.eraseIdx i }
  | .report hart eva => s.updHart hart fun h => { h with machine := h.machine ++ [eva] }
  | .stall core i cycles => s.countStall core i cycles
  | .pair hart w p q cycles lag => s.updHart hart fun h =>
      if h.resident && s.pairFits h w p q lag then { h with cr := h.cr.chargePair p q cycles lag } else h

/-- The pc of a hart launched for a fetched word: the start of its core's scratchpad (log 4). -/
def launchPc : Word := 0x0070000000000000

/-- The hart is one that runs, started as a launch would where it was not. -/
def Hart.started (h : Hart) : Hart :=
  match h.status with
  | .running => h
  | _ => { h with
      status := .running
      level := .u
      pc := launchPc
      cr := { h.cr with estatus := esMake false false true false } }

end Sys2Proof.Machine
end

