-- ==== Sys2Proof/Machine/Ahead.lean ====
section
/-! DEFINITION. What a hart's other queues do while a push that finds its FIFO full holds one of them (01_device.md R14;
12_launch.md R171; 20_reference_t_z.md R302; log 15). Units take effect in program order, but those of the other queues issue
ahead: a trial run from the pc, whose effects are discarded, finds whether one of them takes a token of the full FIFO. -/

namespace Sys2Proof.Machine

/-- A trial run: its state, the tokens that are left, the queues that are held, how many units have taken a token of the full
FIFO, and whether a sink of a held queue has been appended, whose pass the trial cannot run. -/
structure Trial where
  s : State
  left : Vector Nat 25
  held : List Queue
  takes : Nat
  forced : Bool

/-- The hart of a trial has room and tokens in every FIFO: the trial itself keeps count of them. A trap would stop it. -/
def State.trial (s : State) : State :=
  { s with me := { s.me with
      tokens := Vector.replicate 25 8
      early := Vector.replicate 25 0
      owed := []
      cr := { s.me.cr with tvec := 0 } } }

/-- The trial has come to an end: the hart would leave the order of its units. -/
def Hart.trialEnds (h : Hart) : Bool := h.status != .running || h.pause || h.draining

/-- A scalar unit of control flow, of the control registers, or of the launch group: it may change what units of other queues do
(03_formats.md R44). -/
def holdsControl (w : Nat) : Bool :=
  let m := fld w 26 6
  (decide (0x10 ≤ m) && decide (m ≤ 0x15)) || m == 0x17 || m == 0x29

/-- A unit beyond which a trial does not go until it has retired: TRAP, ERET and BRK, and CWR CTXBASE (14_traps.md R210, R211), and
WPRED, behind which no unit of any queue issues (12_launch.md R174). -/
def leavesOrder (w : Nat) : Bool :=
  (fld w 26 6 == 0x15 && fld w 16 5 != 0) || (fld w 26 6 == 0x17 && fld w 0 16 == 0x309)
    || (fld w 26 6 == 0x29 && fld w 6 5 == 4)

/-- A unit of control flow: until it has issued, nothing says where the hart goes on (03_formats.md R44). -/
def isTransfer (w : Nat) : Bool := decide (0x10 ≤ fld w 26 6) && decide (fld w 26 6 ≤ 0x14)

/-- The scalars whose values a unit of a held queue would write are not known yet: they count as pending. -/
def Hart.unknown (h h0 : Hart) : Hart :=
  { h with
    regs := h0.regs
    pend := Vector.ofFn fun i : Fin 136 => h.pend.get i || h.regs.get i != h0.regs.get i }

/-- The scalars that a unit writes, now or when its pass completes (03_formats.md R35); a unit that is not named writes none. -/
def scalarDests : Instr → List SReg
  | .add d .. | .addImm d .. | .sub d .. | .mul d .. | .mulh d .. | .div d .. | .rem d .. | .and d .. | .andImm d ..
  | .or d .. | .orImm d .. | .xor d .. | .xorImm d .. | .shl d .. | .shr d .. | .sha d .. | .shlImm d .. | .shrImm d ..
  | .shaImm d .. | .min d .. | .max d .. | .slt d .. | .sltImm d .. | .sel d .. | .clz d .. | .ctz d .. | .popc d ..
  | .li d .. | .bfx d .. | .bfxS d .. | .bfi d .. | .fadd d .. | .fsub d .. | .fmul d .. | .fdiv d .. | .fma d ..
  | .fmin d .. | .fmax d .. | .fcmp d .. | .fcvt d .. | .ld d .. | .amoAdd d .. | .amoAnd d .. | .amoOr d ..
  | .amoXor d .. | .amoMin d .. | .amoMax d .. | .amoMinu d .. | .amoMaxu d .. | .amoSwap d .. | .amoCas d .. | .crd d ..
  | .vconf d .. | .vsetl d .. | .part d .. | .vred d .. | .fwait d .. => [d]
  | .kpop _ d | .kfirst _ d | .ktail _ d => [d]
  | .dqpop a b | .dqsteal a b _ => [a, b]
  | _ => []

/-- A scalar is not known yet. -/
def Hart.unknownScalar (h : Hart) (d : SReg) : Hart :=
  if d = 0 then h else { h with pend := h.pend.set (h.phys d) true }

/-- A held unit that waits: the trial goes on after it, its destination scalars unknown. -/
def Hart.skipUnit (h : Hart) (i : Instr) : Hart :=
  (scalarDests i).foldl Hart.unknownScalar (({ h with pc := h.pc + 4 } : Hart).loopTest h.unitWords).clearUnit

/-- Strips of the trial's pass until it is complete. -/
def State.trialPass : Nat → State → State
  | 0, s => s
  | fuel + 1, s =>
    match s.me.vec.pass with
    | none => s
    | some p =>
      if p.suspended then s
      else
        let s1 := State.finishPackets (s.packets.length + 1) s
        trialPass fuel (settle .v s1 (s1.passTurn none))

/-- A pass that the trial's unit has demanded has run, and the unit can be tried again. -/
def State.trialDemand (s : State) : Option State :=
  match s.me.vec.pass with
  | none => none
  | some p =>
    if p.suspended then none
    else
      let s1 := s.trialPass (2 * s.me.vec.forme.length + 4096)
      if s1.me.vec.pass.isNone then some s1 else none

/-- The unit of a held queue, which has not issued: what it would change is kept as far as units of other queues need it. -/
def Trial.heldUnit (t : Trial) (q : Queue) (w : Nat) (i : Instr) : Option Trial :=
  let skip : Trial := { t with s := { t.s with me := t.s.me.skipUnit i }, held := q :: t.held }
  if q == .s && !holdsControl w then some skip
  else if leavesOrder w then none
  else
    match exec i t.s.trial with
    | .next s1 =>
      if s1.me.trialEnds then none
      else if s1.me.movedFrom t.s.me then
        some { t with
          s := { s1 with me := s1.me.unknown t.s.me }
          held := q :: t.held
          forced := t.forced || decide (t.s.me.vec.galley.length < s1.me.vec.galley.length) }
      else if isTransfer w then none
      else some skip
    | _ => none

/-- A unit executed in a trial, after the pass that it demands: the state that it leaves. -/
def Trial.execute (t : Trial) (i : Instr) : Option State :=
  match exec i t.s.trial with
  | .next s1 =>
    if s1.me.movedFrom t.s.me then some s1
    else
      match (if t.forced then none else s1.trialDemand) with
      | none => some s1
      | some s2 =>
        match exec i s2.trial with
        | .next s3 => some s3
        | _ => none
  | _ => none

/-- A unit whose token, if it waits for one, is there; took is the trial with that token taken. It retires, or it has issued and
waits, or it stalls without the token (00_scope.md R7), and then its queue is held behind it. -/
def Trial.freeUnit (t took : Trial) (q : Queue) (w : Nat) (i : Instr) : Option Trial :=
  match t.execute i with
  | none => none
  | some s1 =>
    match s1.me.status with
    | .parked _ _ => took.heldUnit q w i
    | .running =>
      if s1.me.movedFrom t.s.me then (if s1.me.trialEnds then none else some { took with s := s1 })
      else (if s1.me.early == Vector.replicate 25 0 then t else took).heldUnit q w i
    | _ => none

/-- A unit of q takes a token of queue a; x and y name the full FIFO. -/
def Trial.take (t : Trial) (x y : Queue) (a : Nat) (q : Queue) : Trial :=
  { t with
    left := t.left.set (fifo a q.num) (t.left.get (fifo a q.num) - 1)
    takes := if a = x.num ∧ q = y then t.takes + 1 else t.takes }

/-- The word at the trial's pc. -/
def Trial.word (t : Trial) : Option Nat := t.s.wordOf t.s.me

/-- The next word of a trial: a prefix is latched, a unit of a free queue takes its token and issues, and one whose FIFO is empty
holds its queue. -/
def Trial.next (t : Trial) (x y : Queue) : Option Trial :=
  match t.word with
  | none => none
  | some w =>
    match decode w with
    | none => none
    | some i =>
      if isPrefix w then
        match exec i t.s.trial with
        | .next s1 => if s1.me.trialEnds then none else some { t with s := s1 }
        | _ => none
      else
        let q := queueOf (wordQueue t.s.me.vec.matrix w)
        if t.held.contains q then t.heldUnit q w i
        else
          match t.s.me.tok.bind tokWait with
          | none => t.freeUnit t q w i
          | some a =>
            if t.left.get (fifo a q.num) = 0 then t.heldUnit q w i else t.freeUnit (t.take x y a q) q w i

/-- The trial meets a unit of y that takes a further token of x: more than the n that have been taken already. -/
def Trial.finds (x y : Queue) (n : Nat) : Nat → Trial → Bool
  | 0, _ => false
  | fuel + 1, t =>
    if n < t.takes then true
    else
      match t.next x y with
      | none => false
      | some t1 => finds x y n fuel t1

/-- The queue of the unit whose instruction word is at the pc, where a full FIFO holds it at its signal, with that FIFO. -/
def State.heldSignal (s : State) : Option (Queue × Queue) :=
  match s.me.signal, s.wordOf s.me with
  | some y, some w =>
    let q := queueOf (wordQueue s.me.vec.matrix w)
    if isPrefix w || !s.me.signalBlocked q then none else some (q, y)
  | _, _ => none

/-- The FIFOs that are full at a push of the hart. -/
def State.fullFifos (s : State) : List (Queue × Queue) :=
  ((s.me.owed.map fun o => (o.1, o.2.1)) ++ s.heldSignal.toList).filter fun f =>
    decide (16 ≤ s.me.tokens.get (fifo f.1.num f.2.num))

/-- The trial run of a hart whose pushes into some FIFOs find them full; a parked hart's scalar queue is held at its FWAIT. -/
def State.beginTrial (s : State) (fs : List (Queue × Queue)) : Trial :=
  { s := { s with me := { s.me with status := .running } }
    left := s.me.allTokens
    held := fs.map (·.1) ++ (match s.me.status with
      | .parked _ _ => [.s]
      | _ => [])
    takes := 0
    forced := false }

/-- A unit of queue y that issues ahead takes a token of queue x, and the tokens that are owed are given as far as there is
room. -/
def State.takeAhead (s : State) (f : Queue × Queue) : State :=
  { s with me := (s.me.takeEarly f.1.num f.2).payAll }

/-- Before a hart's turn: units that issue ahead of a held queue take tokens of the full FIFOs (R14, R171). A trial that finds
none is made again at the hart's next turn, and looks further each time. -/
def State.lookAhead (s : State) : State :=
  let runs := !s.me.pause && !s.me.draining && (match s.me.status with
    | .running | .parked _ _ => true
    | _ => false)
  let fs := if runs then s.fullFifos else []
  match fs.find? fun f =>
      (s.beginTrial fs).finds f.1 f.2 (s.me.early.get (fifo f.1.num f.2.num)) (s.stepNo + 1024) with
  | none => s
  | some f => s.takeAhead f

end Sys2Proof.Machine
end

