-- ==== Sys2Proof/Machine/Units.lean ====
section
/-! DEFINITION. The turns of a core's units: the pass units, the matrix array, the bond sequencer and the copy engine, each with its
slot table (01_device.md R13; 06_forme.md R102; 10_matrix.md R154; 11_bond.md R164; 12_launch.md R170; log 34). -/

namespace Sys2Proof.Machine

/-- The unit of the core, numbered as in the slot tables, that an instruction of the hart issues to (R170): the pass unit of its
group, the matrix array, or the bond sequencer. A strip that goes on after its replies keeps the unit and takes no further turn
(06_forme.md R102). -/
def State.unitFor (s : State) (i : Instr) : Option (Fin 11) :=
  match i with
  | .passStrip => if s.midStrip s.me then none else some ⟨s.myCore.group s.me.slot % 8, by omega⟩
  | .mma .. | .mmas .. => some 8
  | .bcon .. | .bld .. | .bst .. | .bondStep => some 9
  | _ => none

/-- An instruction or strip that the hart executes goes on: nothing of it waits, and no pass runs before it. -/
def State.moves (s : State) (i : Instr) : Bool :=
  match exec i s with
  | .next t => t.me.movedFrom s.me || t.me.passKey != s.me.passKey && i == .passStrip || t.me.cr.bstat != s.me.cr.bstat
  | _ => true

/-- The unit whose turn the hart's instruction takes: none where it issues to none, or where it would wait (R170). -/
def State.comesTo (s : State) (i : Instr) : Option (Fin 11) := (s.unitFor i).filter fun _ => s.moves i

/-- The harts of the core whose next instruction satisfies a condition. -/
def State.hartsWith (s : State) (f : State → Instr → Bool) : List Nat :=
  (s.harts.filter fun h => h.core == s.me.core && h.status == .running && (match (s.select h.num).pick with
    | .run i t => f t i
    | .idle _ => false)).map (·.num)

/-- The harts of the core that have come to a unit and are ready. -/
def State.readyFor (s : State) (u : Fin 11) : List Nat := s.hartsWith fun t i => t.comesTo i == some u

/-- The hart that the bond sequencer's turn goes to, where its next work is a step, which runs on the matrix array (11_bond.md R159,
R164). -/
def State.stepHart (s : State) : Option Nat :=
  let ready := s.readyFor 9
  if ready.isEmpty then none
  else
    some (s.turnOf 9 ready) |>.filter (s.hartsWith fun _ i => match i with
      | .bcon .. | .bondStep => true
      | _ => false).contains

/-- The harts that are ready for the matrix array: those with an MMA or MMAS, and the one whose step the bond sequencer offers
(10_matrix.md R154; 11_bond.md R164). -/
def State.arrayHarts (s : State) : List Nat := s.readyFor 8 ++ s.stepHart.toList

/-- A turn of the matrix array, and of the bond sequencer too where it goes to a step. -/
def State.arrayTurn (s : State) : State :=
  let t := s.grant 8 s.arrayHarts
  if s.stepHart == some t.me.num then t.passTurnOf 9 (s.readyFor 9) else t

/-- A turn of a unit that a hart has come to: the hart that issues becomes the one whose turn it is. A step takes a turn of the bond
sequencer and one of the matrix array; one that the array's table puts off keeps the sequencer's turn. -/
def State.unitTurn (s : State) (u : Fin 11) : State :=
  if u = 8 || (u = 9 && s.stepHart.isSome) then s.arrayTurn else s.grant u (s.readyFor u)

/-- The harts of the core that have a copy ready to complete. -/
def State.copyHarts (s : State) : List Nat :=
  (s.harts.filter fun h => h.core == s.me.core && !h.copies.isEmpty && (s.select h.num).copyReady).map (·.num)

end Sys2Proof.Machine
end

