-- ==== Sys2Proof/Machine/Step.lean ====
section
/-! DEFINITION. One step of the package: the next turn of the agenda (log 5). -/

namespace Sys2Proof.Machine

/-- The outcome with the waits of YIELDs looked at and TIME moved on. -/
def tickOutcome : Host.Outcome State Fault Refusal → Host.Outcome State Fault Refusal
  | .next s => .next s.endYields.tick
  | .fault f => .fault f
  | .refused r => .refused r

/-- The turn of the hart whose turn it is. Where it comes to a unit of its core, the unit's slot table picks the hart that issues
(12_launch.md R170; 06_forme.md R102). -/
def hartTurn (s : State) : Host.Outcome State Fault Refusal :=
  let s1 := s.lookAhead
  match s1.pick with
  | .idle s' => .next s'
  | .run i s' =>
    match s'.comesTo i with
    | none => exec i s'
    | some u =>
      match (s1.unitTurn u).pick with
      | .idle s'' => .next s''
      | .run j s'' => exec j s''

/-- An event of a hart's engine: the oldest copy of a hart completes, at the hart that the copy engine's slot table picks (R170). -/
def hartEvent (i : Instr) (s : State) : Host.Outcome State Fault Refusal :=
  match i with
  | .cpyComplete n => exec i (if n = 0 && s.copyReady then s.grant 10 s.copyHarts else s)
  | _ => exec i s

/-- One turn of the agenda. -/
def runTurn (t : Turn) (s : State) : Host.Outcome State Fault Refusal :=
  match t with
  | .hart n => hartTurn (s.select n)
  | .event n i => if agendaEvent i then hartEvent i (s.select n) else .next s
  | .env e => .next (s.envStep e)

/-- The step of the package: what cannot wait, or else the next turn of the agenda, or a new round. -/
def step (s : State) : Host.Outcome State Fault Refusal :=
  if s.stopped then .fault .packageStopped
  else
    match s.urgent with
    | some t => tickOutcome (runTurn t s)
    | none =>
      match s.agenda with
      | [] => tickOutcome (.next s.refill)
      | t :: r => tickOutcome (runTurn t { s with agenda := r })

/-- The state with an instruction stored where the hart whose turn it is fetches next, and that hart's turn first on
the agenda; where the hart does not run, it is first launched at the start of its core's scratchpad (log 4). -/
def State.withFetchWord (s : State) (_nbits w : Nat) : State :=
  let h0 := s.me.started
  let h : Hart := { h0 with tok := none, ext := none, brun := none, vec := { h0.vec with pass := none } }
  let s1 : State := { s with me := h, agenda := [.hart h.num] }
  match s1.locate h.pc .fetch with
  | .error _ => s1
  | .ok (s2, loc) => { s2 with mem := memPut s2.mem loc (leBytes 4 w) }

end Sys2Proof.Machine
end

