-- ==== Sys2Proof/Safety.lean ====
section
/-! DEFINITION. What a run and a safe state are, and when an instruction executes, in the terms claims use. -/

namespace Sys2Proof

open Sys2Proof.Machine

/-- One step leads from a state to the next. -/
def Steps (s t : State) : Prop := step s = .next t

/-- A step from the state stops the model: only the manual's stopped package does. -/
def Stops (s : State) : Prop := ∀ t, step s ≠ .next t

/-- The hart whose turn it is has taken an exception from one state to another: the registers that an exception writes
name the unit and the cause, and the pc is TVEC (14_traps.md R208). -/
def Traps (s t : State) (c : Cause) (eva : Word) : Prop :=
  t.me.cr.epc = keepBits s.me.unitPc 55 2 ∧ t.me.cr.ecause = BitVec.ofNat 64 c.code ∧ t.me.cr.eva = eva
    ∧ t.me.level = .s ∧ t.me.pc = sx56 s.me.cr.tvec

/-- The token part of a unit lets the instruction issue: its TOK word is sound and does not name the receiving queue, and its
wait FIFO holds a token (03_formats.md R41; 12_launch.md R171; 20_reference_t_z.md R303). -/
def TokenReady (g : Gate) (h : Hart) : Prop :=
  h.tokUnsound = false ∧ h.tokBad g.queue = false ∧ h.tokBlocked g.queue = false

/-- No pass has to run or continue before the unit: it has not demanded the hart's suspended pass, a pass-queue
instruction in U finds none, and no scalar it names is pending outside a handler of a suspended pass (06_forme.md R93,
R94; 08_faults.md R127, R128). -/
def NoPassFirst (g : Gate) (s : State) : Prop :=
  s.demandsAgain = false
    ∧ (g.passQueue = false ∨ s.me.level = .s ∨ s.me.cr.fdemand.getLsbD 0 = false ∨ s.me.vec.pass.isSome = false)
    ∧ (s.handlerBypass = true ∨ ∀ r ∈ g.scalars, s.me.isPending r = false)

/-- Nothing that comes before an instruction's own effect stops it or holds it back (03_formats.md R34, R38, R40; 01_device.md
R12; 14_traps.md R206; 10_matrix.md R146; 08_faults.md R127): its queue, too, is not held by a token that waits for room (12_launch.md
R171). -/
def Issues (g : Gate) (s : State) : Prop :=
  TokenReady g s.me ∧ (s.me.ext.isSome = false ∨ g.ext = true) ∧ g.sound = true
    ∧ (s.me.miller = false ∨ g.miller = true) ∧ (g.supervisor = false ∨ s.me.level = .s)
    ∧ (g.mode = none ∨ g.mode = some s.me.vec.matrix)
    ∧ (g.passQueue = false ∨ s.handlerBypass = false) ∧ s.me.owes g.queue = false
    ∧ (∀ n ∈ g.vregs, n < s.me.cr.nv) ∧ NoPassFirst g s

/-- An instruction issues, and can retire once it is done: the FIFO of its signal part has room (12_launch.md R171). -/
def Ready (g : Gate) (s : State) : Prop := Issues g s ∧ s.me.signalBlocked g.queue = false

end Sys2Proof
end

