-- ==== Sys2Proof/Certificates/Slice0/Obligations.lean ====
section
/-! DEFINITION. The statements for the provers. Each says what an instruction or the machine does by the rules of the manual;
the helper definitions before them spell out results and conditions. A statement about an instruction holds for every
state whose unit issues (Issues, in Safety.lean) and, where it retires, has room for its signal (Ready), prefixes
included. -/

open Sys2Proof Sys2Proof.Machine

namespace Sys2Proof.Claims

/-- The unit retires after an effect, at its own queue (03_formats.md R42; 09_control.md R141). -/
def Retires (q : Queue) (i : Instr) (s u : State) : Prop := exec i s = .next (retire q s u true)

/-- The gate of a scalar-queue instruction that names some scalars. -/
def scalarGate (rs : List SReg) (ext : Bool) : Gate := { scalars := rs, ext := ext }

/-! ### Scalar integers -/

/-- A register read at a width, unsigned or in two's complement (18_reference_a_f.md R246). -/
def operand (h : Hart) (r : SReg) (n : Nat) (uns : Bool) : Int :=
  let x := (h.reg r).toNat % 2 ^ n
  if uns || decide (2 * x < 2 ^ n) then x else (x : Int) - 2 ^ n

/-- sext(wrap(res, n), n) as a 64-bit register (R246): the low n bits of an exact result, sign-extended. -/
def narrow (n : Nat) (res : Int) : Word := (BitVec.ofInt n res).signExtend 64

/-- The quotient rounded toward zero, −1 for a zero divisor (R246). -/
def quotient (x y : Int) : Int := if y = 0 then -1 else if (0 ≤ x) = (0 < y) then (x.natAbs / y.natAbs : Nat) else -(x.natAbs / y.natAbs : Nat)

/-- The immediate of a field of n bits below the EXT value, in two's complement (03_formats.md R38). -/
def signedImm (h : Hart) (f n : Nat) : Int :=
  match h.ext with
  | none => if 2 * f < 2 ^ n then f else (f : Int) - 2 ^ n
  | some e => if e.toNat < 2 ^ 25 then (e.toNat * 2 ^ n + f : Nat) else (e.toNat * 2 ^ n + f : Nat) - 2 ^ (n + 26)

/-- The same without a sign. -/
def plainImm (h : Hart) (f n : Nat) : Nat :=
  match h.ext with
  | none => f
  | some e => e.toNat * 2 ^ n + f

/-- The bits of a BF field: those at an offset, width of them, cut at bit 63 (09_control.md R142). -/
def fieldBit (o : BitVec 6) (w : BitVec 7) (i : Nat) : Bool :=
  decide (o.toNat ≤ i) && decide (i < o.toNat + w.toNat) && decide (i < 64)

/-- A word given bit by bit. -/
def ofBits (f : Nat → Bool) : Word := BitVec.ofNat 64 ((List.range 64).map fun i => (f i).toNat * 2 ^ i).sum

/-- The width that .W selects. -/
def nbits (w : Bool) : Nat := if w then 32 else 64

/-- What a scalar integer instruction writes: its destination, the scalars it names, whether it takes EXT, and the value
(18_reference_a_f.md R246, R247, R252; 19_reference_j_s.md R280, R283, R284; 20_reference_t_z.md R329; 09_control.md R142). -/
def aluSpec (i : Instr) (h : Hart) : Option (SReg × List SReg × Bool × Word) :=
  let x (r : SReg) (w uns : Bool) := operand h r (nbits w) uns
  let low (r : SReg) (w : Bool) : Nat := (h.reg r).toNat % 2 ^ nbits w
  let amount (r : SReg) (w : Bool) : Nat := low r w % nbits w
  match i with
  | .add d a b w => some (d, [d, a, b], false, narrow (nbits w) (x a w false + x b w false))
  | .sub d a b w => some (d, [d, a, b], false, narrow (nbits w) (x a w false - x b w false))
  | .mul d a b w => some (d, [d, a, b], false, narrow (nbits w) (x a w false * x b w false))
  | .mulh d a b w u => some (d, [d, a, b], false, narrow (nbits w) ((x a w u * x b w u).fdiv (2 ^ nbits w)))
  | .div d a b w u => some (d, [d, a, b], false, narrow (nbits w) (quotient (x a w u) (x b w u)))
  | .rem d a b w u => some (d, [d, a, b], false,
      narrow (nbits w) (if x b w u = 0 then x a w u else x a w u - x b w u * quotient (x a w u) (x b w u)))
  | .and d a b w => some (d, [d, a, b], false, narrow (nbits w) (low a w &&& low b w : Nat))
  | .or d a b w => some (d, [d, a, b], false, narrow (nbits w) (low a w ||| low b w : Nat))
  | .xor d a b w => some (d, [d, a, b], false, narrow (nbits w) (low a w ^^^ low b w : Nat))
  | .shl d a b w => some (d, [d, a, b], false, narrow (nbits w) (low a w * 2 ^ amount b w : Nat))
  | .shr d a b w => some (d, [d, a, b], false, narrow (nbits w) (low a w / 2 ^ amount b w : Nat))
  | .sha d a b w => some (d, [d, a, b], false, narrow (nbits w) ((x a w false).fdiv (2 ^ amount b w)))
  | .min d a b w u => some (d, [d, a, b], false, narrow (nbits w) (if x a w u ≤ x b w u then x a w u else x b w u))
  | .max d a b w u => some (d, [d, a, b], false, narrow (nbits w) (if x a w u ≤ x b w u then x b w u else x a w u))
  | .slt d a b w u => some (d, [d, a, b], false, if x a w u < x b w u then 1 else 0)
  | .sel d a b => some (d, [d, a, b], false, if h.reg d ≠ 0 then h.reg a else h.reg b)
  | .clz d a w => some (d, [d, a], false,
      BitVec.ofNat 64 (if low a w = 0 then nbits w else nbits w - 1 - Nat.log2 (low a w)))
  | .ctz d a w => some (d, [d, a], false,
      BitVec.ofNat 64 (((List.range (nbits w)).find? fun k => (low a w).testBit k).getD (nbits w)))
  | .popc d a w => some (d, [d, a], false,
      BitVec.ofNat 64 ((List.range (nbits w)).filter fun k => (low a w).testBit k).length)
  | .addImm d a i => some (d, [d, a], true, BitVec.ofInt 64 ((h.reg a).toNat + signedImm h i.toNat 16))
  | .andImm d a i => some (d, [d, a], true, BitVec.ofNat 64 ((h.reg a).toNat &&& plainImm h i.toNat 16))
  | .orImm d a i => some (d, [d, a], true, BitVec.ofNat 64 ((h.reg a).toNat ||| plainImm h i.toNat 16))
  | .xorImm d a i => some (d, [d, a], true, BitVec.ofNat 64 ((h.reg a).toNat ^^^ plainImm h i.toNat 16))
  | .sltImm d a i => some (d, [d, a], true, if operand h a 64 false < signedImm h i.toNat 16 then 1 else 0)
  | .shlImm d a n => some (d, [d, a], false, BitVec.ofNat 64 ((h.reg a).toNat * 2 ^ n.toNat))
  | .shrImm d a n => some (d, [d, a], false, BitVec.ofNat 64 ((h.reg a).toNat / 2 ^ n.toNat))
  | .shaImm d a n => some (d, [d, a], false, BitVec.ofInt 64 ((operand h a 64 false).fdiv (2 ^ n.toNat)))
  | .li d i => some (d, [d], true, BitVec.ofInt 64 (signedImm h i.toNat 21))
  | .bfx d a o w => some (d, [d, a], false, ofBits fun k =>
      fieldBit o w (o.toNat + k) && (h.reg a).getLsbD (o.toNat + k))
  | .bfxS d a o w => some (d, [d, a], false, ofBits fun k =>
      let top := min (o.toNat + w.toNat) 64 - 1
      w != 0 && (if fieldBit o w (o.toNat + k) then (h.reg a).getLsbD (o.toNat + k) else (h.reg a).getLsbD top))
  | .bfi d a o w => some (d, [d, a], false, ofBits fun k =>
      if fieldBit o w k then (h.reg a).getLsbD (k - o.toNat) else (h.reg d).getLsbD k)
  | _ => none

/-! ### Scalar floating point -/

/-- What a scalar floating-point instruction writes and the flags it sets, where R is the format of .D and X, Y, Z are
its operands' exact values: each rounds an exact result once (18_reference_a_f.md R263, R264; 05_numbers.md R71 to
R75). -/
def fpSpec (i : Instr) (s : State) : Option (SReg × List SReg × Nat × FlagSet) :=
  let mode := rmodeOf s.me.cr.frm
  let val (r : SReg) (p : Bool) : XVal :=
    if p then fmtF64.decode (s.me.reg r).toNat else fmtF32.decode ((s.me.reg r).toNat % 2 ^ 32)
  let once (d : SReg) (rs : List SReg) (p : Bool) (r : XVal × FlagSet) : Option (SReg × List SReg × Nat × FlagSet) :=
    let b := (if p then fmtF64 else fmtF32).round mode r.1
    some (d, rs, b.1, r.2 ||| b.2)
  match i with
  | .fadd d a b p => once d [d, a, b] p (xAdd mode (val a p) (val b p))
  | .fsub d a b p => once d [d, a, b] p (xAdd mode (val a p) (val b p).negate)
  | .fmul d a b p => once d [d, a, b] p (xMul (val a p) (val b p))
  | .fdiv d a b p => once d [d, a, b] p (xDiv (val a p) (val b p))
  | .fma d a b p => once d [d, a, b] p (xFma mode (val a p) (val b p) (val d p))
  | .fmin d a b p => once d [d, a, b] p (xMinMax false (val a p) (val b p))
  | .fmax d a b p => once d [d, a, b] p (xMinMax true (val a p) (val b p))
  | .fcmp d a b c p =>
    let holds := match c with
      | .eq => xEqual (val a p) (val b p)
      | .lt => xLess false (val a p) (val b p)
      | .le => xLess false (val a p) (val b p) || xEqual (val a p) (val b p)
      | .un => (val a p).isNan || (val b p).isNan
    some (d, [d, a, b], holds.toNat, sigFlag [val a p, val b p])
  | .fcvt d a c p =>
    let r := match c with
      | .sitof => (if p then fmtF64 else fmtF32).round mode (.ofInt (s.me.reg a).toInt)
      | .uitof => (if p then fmtF64 else fmtF32).round mode (.ofInt (s.me.reg a).toNat)
      | .ftosi => roundToInt mode 64 false (val a p)
      | .ftoui => roundToInt mode 64 true (val a p)
      | .stod => fmtF64.round mode (val a false)
      | .dtos => fmtF32.round mode (val a true)
    some (d, [d, a], r.1, r.2)
  | _ => none

/-- A state after flags have been ORed into VFLAGS (05_numbers.md R83). -/
def withFlags (s : State) (f : FlagSet) : State :=
  { s with me := { s.me with cr := { s.me.cr with vflags := s.me.cr.vflags ||| f } } }

end Sys2Proof.Claims

open Sys2Proof.Claims

/-- Each of the 31 scalar integer instructions writes the value of its rule to its destination, s0 discarding it, and
changes nothing else before it retires, but for the model's note of the register's last writer (log 9). -/
def Obligations.ScalarIntegerResult : Prop :=
  ∀ (i : Instr) (s : State) (d : SReg) (rs : List SReg) (ext : Bool) (v : Word), i.wf = true →
    aluSpec i s.me = some (d, rs, ext, v) → Ready (scalarGate rs ext) s →
    Retires .s i s (if d = 0 then s else { s with me := { s.me with
      regs := s.me.regs.set (s.me.phys d) v
      writers := s.me.writers.set (s.me.phys d) (some s.me.unitPc) } })

/-- Each of the nine scalar floating-point instructions writes its exact result rounded once, s0 discarding it, and ORs
its flags into VFLAGS bits 4:0. -/
def Obligations.ScalarFloatResult : Prop :=
  ∀ (i : Instr) (s : State) (d : SReg) (rs : List SReg) (b : Nat) (f : FlagSet),
    fpSpec i s = some (d, rs, b, f) → Ready (scalarGate rs false) s →
    Retires .s i s (withFlags (s.setReg d (BitVec.ofNat 64 b)) (f &&& 0x1F))

namespace Sys2Proof.Claims

/-! ### Memory -/

/-- The interlock table lets a read of the hart perform: it holds no sink and no copy's destination over the range
(08_faults.md R117). -/
def ReadFree (s : State) (r : Range) : Prop :=
  s.handlerBypass = true ∨ (meetsSink s.me.vec r = false ∧ s.me.copyWrites r = false)

/-- An access of n bytes at an address may read: it is located, no watchpoint of the hart stops it, the interlock table
lets it, and no other provisional hart owns the place (03_formats.md R58; 08_faults.md R117; 12_launch.md R176;
15_debug.md R228). -/
def ReadOpen (s : State) (va : Word) (n : Nat) (s1 : State) (loc : Nat) : Prop :=
  s.locate va .read = .ok (s1, loc) ∧ s1.watchOwn va.toNat n .read = [] ∧ ReadFree s1 (rangeOf va n)
    ∧ s1.heldByOther loc n = false

/-- The same of an access that is aligned to its size (R58). -/
def MayRead (s : State) (va : Word) (n : Nat) (s1 : State) (loc : Nat) : Prop := va.toNat % n = 0 ∧ ReadOpen s va n s1 loc

/-- The interlock table lets a write of the hart perform (R117, R121). -/
def WriteFree (s : State) (r : Range) : Prop :=
  s.handlerBypass = true
    ∨ (meetsSink s.me.vec r = false ∧ (∀ n ∈ leavesMet s.me.vec r, n ∉ galleyReach s.me.vec)
        ∧ s.me.copyWrites r = false ∧ s.me.copyReads r = false)

/-- An access of n bytes at an address may write. -/
def WriteOpen (s : State) (k : Kind) (va : Word) (n : Nat) (s1 : State) (loc : Nat) : Prop :=
  s.locate va k = .ok (s1, loc) ∧ s1.watchOwn va.toNat n k = [] ∧ WriteFree s1 (rangeOf va n)
    ∧ s1.heldByOther loc n = false

/-- The same of an access that is aligned to its size. -/
def MayWrite (s : State) (k : Kind) (va : Word) (n : Nat) (s1 : State) (loc : Nat) : Prop :=
  va.toNat % n = 0 ∧ WriteOpen s k va n s1 loc

/-- The value of bytes, lowest address first (00_scope.md R3). -/
def valueOf : List Byte → Nat
  | [] => 0
  | b :: r => b.toNat + 256 * valueOf r

/-- k doublewords from a location on, read in ascending order, each by an event of its own (19_reference_j_s.md R276, R293). That
they ascend is the model's choice (log 9). -/
def dwordReads : Nat → Nat → State → State × List Byte
  | 0, _, s => (s, [])
  | k + 1, loc, s =>
    let (s1, a) := s.readLoc loc 8
    let (s2, b) := dwordReads k (loc + 8) s1
    (s2, a ++ b)

/-- A value at n bytes as a register, sign-extended or zero-extended (19_reference_j_s.md R278). -/
def extended (n v : Nat) (signed : Bool) : Word :=
  if signed && decide (2 ^ (8 * n) ≤ 2 * v) then BitVec.ofInt 64 ((v : Int) - 2 ^ (8 * n)) else BitVec.ofNat 64 v

/-- The bytes of LD and ST's size field. -/
def bytesOf : MemSize → Nat
  | .b => 1
  | .h => 2
  | .w => 4
  | .d => 8

/-- The address of LD and ST: the base plus the signed offset, modulo 2^64 (R278, R299). -/
def address (h : Hart) (b : SReg) (o : BitVec 13) : Word :=
  BitVec.ofInt 64 ((h.reg b).toNat + signedImm h o.toNat 13)

/-- The operation, operands and width of an AMO. -/
def amoSpec (i : Instr) : Option (AmoOp × SReg × SReg × SReg × Nat) :=
  let n (z : Bool) : Nat := if z then 8 else 4
  match i with
  | .amoAdd d a b z _ _ => some (.add, d, a, b, n z)
  | .amoAnd d a b z _ _ => some (.and, d, a, b, n z)
  | .amoOr d a b z _ _ => some (.or, d, a, b, n z)
  | .amoXor d a b z _ _ => some (.xor, d, a, b, n z)
  | .amoMin d a b z _ _ => some (.min, d, a, b, n z)
  | .amoMax d a b z _ _ => some (.max, d, a, b, n z)
  | .amoMinu d a b z _ _ => some (.minu, d, a, b, n z)
  | .amoMaxu d a b z _ _ => some (.maxu, d, a, b, n z)
  | .amoSwap d a b z _ _ => some (.swap, d, a, b, n z)
  | .amoCas d a b z _ _ => some (.cas, d, a, b, n z)
  | _ => none

/-- What an AMO stores over an old value, for an operand and, with CAS, the value it expects; none where CAS does not
match (13_ordering.md R197). -/
def amoStores (op : AmoOp) (n old x e : Nat) : Option Nat :=
  let neg (v : Nat) : Int := if 2 ^ (8 * n) ≤ 2 * v then (v : Int) - 2 ^ (8 * n) else v
  match op with
  | .add => some ((old + x) % 2 ^ (8 * n))
  | .and => some (old &&& x)
  | .or => some (old ||| x)
  | .xor => some (old ^^^ x)
  | .min => some (if neg x < neg old then x else old)
  | .max => some (if neg old < neg x then x else old)
  | .minu => some (if x < old then x else old)
  | .maxu => some (if old < x then x else old)
  | .swap => some x
  | .cas => if old = e then some x else none

/-- The remote window answers no AMO but ADD and CAS of 8 bytes (16_system.md R239). -/
def RemoteRefuses (op : AmoOp) (n : Nat) : Prop := ¬ (n = 8 ∧ (op = .add ∨ op = .cas))

/-- Engine work of the hart is outstanding: a copy, or a trace record in its core's FIFO (18_reference_a_f.md R265). -/
def EngineWork (s : State) : Prop := s.me.copies ≠ [] ∨ ∃ r ∈ s.myCore.traceFifo, r.owner = s.me.num

/-- A copy or a pass of some hart, or a write that packets hold back, holds a pin on a page that TLBINVA names (07_streams.md
R114). -/
def Pinned (s : State) : Prop :=
  (∃ h ∈ s.harts, (∃ c ∈ h.copies, ∃ t ∈ c.pins, tlbNamed s.me.cr.tlbinva t = true)
      ∨ ∃ p, h.vec.pass = some p ∧ ∃ t ∈ p.pins, tlbNamed s.me.cr.tlbinva t.2 = true)
    ∨ ∃ q ∈ s.packets, ∃ t ∈ q.pins, tlbNamed s.me.cr.tlbinva t = true

/-- A plain fence of the hart's own accesses. -/
def plainFence : Instr → Bool
  | .fenceFull _ | .fenceRel _ | .fenceAcq _ | .fenceInst _ => true
  | _ => false

/-! ### Control -/

/-- The condition of BR (18_reference_a_f.md R253). -/
def taken (c : BrCond) (x y : Word) : Prop :=
  match c with
  | .eq => x = y
  | .ne => x ≠ y
  | .lt => x.toInt < y.toInt
  | .ge => y.toInt ≤ x.toInt
  | .ltu => x.toNat < y.toNat
  | .geu => y.toNat ≤ x.toNat
  | .always => True

/-- Bits 63:56 are copies of bit 55 (03_formats.md R32). -/
def copies55 (w : Word) : Prop := ∀ k, 56 ≤ k → k < 64 → w.getLsbD k = w.getLsbD 55

/-- p + 4 × offset for a field of n bits of the instruction word at p, modulo 2^64 (R39). -/
def wordTarget (h : Hart) (f n : Nat) : Word := BitVec.ofInt 64 (h.pc.toNat + 4 * signedImm h f n)

/-- A unit retires as a taken transfer with an effect: the pc is the target, and a target outside an armed loop disarms it
(R141). -/
def Jumps (i : Instr) (s u : State) (t : Word) : Prop :=
  exec i s = .next { u with
    me := ({ u.me with pc := t, cr := u.me.cr.leaveLoop t } : Hart).retireTokens .s true s.me.unitPc }

/-- A transfer to a target: PROT where it is not canonical, else the unit retires as a taken transfer (R32), once the FIFO of
its signal has room. -/
def Transfers (i : Instr) (s : State) (t : Word) : Prop :=
  (copies55 t → s.me.signalBlocked .s = false → Jumps i s s t)
    ∧ (¬ copies55 t → exec i s = .next (s.takeTrap s .prot t))

/-- The window and the return-address store take a call without a spill (09_control.md R137). -/
def CallFits (s : State) (f : Frame) : Prop :=
  s.me.rets.length < 32 ∧ s.me.wbase + frameRegs f + 24 ≤ s.me.wlo + 128

/-- The state in which a call transfers: the return entry pushed, the window slid by the frame (R137). -/
def called (s : State) (f : Frame) : State :=
  { s with me := { s.me with rets := (s.me.pc + 4, f) :: s.me.rets, wbase := s.me.wbase + frameRegs f } }

/-- The place of logical window register l among the physical scalars (R136). -/
def windowAt (l : Nat) : Fin 136 := ⟨8 + l % 128, by omega⟩

/-- The bytes that a spill of logical registers l to l + 7 writes (R137; 00_scope.md R3). -/
def groupBytes (h : Hart) (l : Nat) : List Byte :=
  (List.range 8).flatMap fun i => leBytes 8 (h.regs.get (windowAt (l + i))).toNat

/-- n bytes at an address lie in the hart's scratchpad allocation (12_launch.md R167). -/
def InOwn (h : Hart) (va : Word) (n : Nat) : Prop :=
  0x0070000000000000 + 65536 * h.slot ≤ va.toNat ∧ va.toNat + n ≤ 0x0070000000000000 + 65536 * h.slot + h.spad

/-- A spill write of the hart performs, and leaves u (R139). -/
def Stores (s : State) (va : Word) (bs : List Byte) (u : State) : Prop :=
  ∃ s1 loc, InOwn s.me va bs.length ∧ MayWrite s .write va bs.length s1 loc ∧ s1.provRoom loc bs.length = true
    ∧ u = ((s1.writeLoc loc bs).spoil (rangeOf va bs.length) s1.me.pc).watchNote .hart .write [(va.toNat, loc, bs.length)]

/-- A fill read of the hart performs, with a value, and leaves u (R139). -/
def Loads (s : State) (va : Word) (n v : Nat) (u : State) : Prop :=
  ∃ s1 loc, InOwn s.me va n ∧ MayRead s va n s1 loc ∧ v = valueOf (s1.readLoc loc n).2
    ∧ u = (s1.readLoc loc n).1.watchNote .hart .read [(va.toNat, loc, n)]

/-- The return-address store takes an entry: it is not full, or its oldest entry is written at RSP, which moves down by 8
(R137). -/
def ReturnRoom (s t : State) : Prop :=
  (s.me.rets.length < 32 ∧ t = s)
    ∨ ∃ rs a f u, s.me.rets.length = 32 ∧ s.me.rets = rs ++ [(a, f)]
      ∧ Stores s s.me.rsp (leBytes 8 ((keepBits a 55 2).toNat + f.code)) u
      ∧ t = { u with me := { u.me with rsp := u.me.rsp - 8, rets := rs } }

/-- k window spills lead from one state to another (R137): while the top lies more than 128 registers above the lowest
resident base, the eight lowest registers, none pending, are written at WSP, WSP moves up by 64 and the base by 8. -/
def Spills (top : Nat) : Nat → State → State → Prop
  | 0, s, t => t = s ∧ top ≤ s.me.wlo + 128
  | k + 1, s, t => s.me.wlo + 128 < top ∧ (∀ i, i < 8 → s.me.pend.get (windowAt (s.me.wlo + i)) = false)
    ∧ ∃ u, Stores s s.me.wsp (groupBytes s.me s.me.wlo) u
      ∧ Spills top k { u with me := { u.me with wsp := u.me.wsp + 64, wlo := u.me.wlo + 8 } } t

/-- The newest return entry and the state without it: from the store, or read back at RSP + 8 (R138). -/
def Pops (s t : State) (a : Word) (f : Frame) : Prop :=
  (∃ rs, s.me.rets = (a, f) :: rs ∧ t = { s with me := { s.me with rets := rs } })
    ∨ ∃ v u, s.me.rets = [] ∧ s.me.rsp ≠ sx56 s.me.cr.spillp - 8 ∧ Loads s (s.me.rsp + 8) 8 v u ∧ f.code = v % 4
      ∧ a = sx56 (keepBits (BitVec.ofNat 64 v) 55 2) ∧ t = { u with me := { u.me with rsp := u.me.rsp + 8 } }

/-- Logical registers l to l + 7 take the doublewords of a value, and no other changes (R138). -/
def Refilled (old new : Vector Word 136) (l v : Nat) : Prop :=
  (∀ i, i < 8 → new.get (windowAt (l + i)) = BitVec.ofNat 64 (v / 2 ^ (64 * i)))
    ∧ ∀ p, (∀ i, i < 8 → p ≠ windowAt (l + i)) → new.get p = old.get p

/-- k window fills lead from one state to another (R138): while the base lies below the lowest resident base, the eight
registers below that are read at WSP − 64, WSP moves down by 64 and the lowest resident base by 8. -/
def Fills : Nat → State → State → Prop
  | 0, s, t => t = s ∧ s.me.wlo ≤ s.me.wbase
  | k + 1, s, t => s.me.wbase < s.me.wlo
    ∧ (s.handlerBypass = true ∨ ∀ i, i < 8 → s.me.pend.get (windowAt (s.me.wlo - 8 + i)) = false)
    ∧ ∃ v u regs, Loads s (s.me.wsp - 64) 64 v u ∧ Refilled u.me.regs regs (u.me.wlo - 8) v
      ∧ Fills k { u with me := { u.me with regs := regs, wsp := u.me.wsp - 64, wlo := u.me.wlo - 8 } } t

/-- The base moves down by a frame, without limit: where it would fall below 0, base and lowest resident base count from 2^64
lower (R136; the model's way to hold them). -/
def slidBack (s : State) (f : Frame) : State :=
  let k := if s.me.wbase < frameRegs f then 2 ^ 64 else 0
  { s with me := { s.me with wbase := s.me.wbase + k - frameRegs f, wlo := s.me.wlo + k } }

end Sys2Proof.Claims

/-- The byte at the lowest address holds bits 7:0 of what a read returns, and byte k bits 8k+7:8k; a write stores them so. A
write to package memory changes the bytes it names and no other, and a provisional hart's write outside its allocation
changes no byte of memory before it drains. -/
def Obligations.MemoryBytes : Prop :=
  (∀ (s : State) (loc n k : Nat), s.place loc = .ram → s.hasError loc n = false → s.me.prov = [] → k < n →
      valueOf (s.readLoc loc n).2 / 2 ^ (8 * k) % 256 = (memGet s.mem (loc + k)).toNat)
    ∧ (∀ (s : State) (loc n v k : Nat), memWf s.mem = true → s.place loc = .ram → k < n →
      (memGet (s.performWrite loc (leBytes n v)).mem (loc + k)).toNat = v / 2 ^ (8 * k) % 256)
    ∧ (∀ (s : State) (loc : Nat) (bs : List Byte) (a : Nat), memWf s.mem = true →
      ¬ (loc ≤ a ∧ a < loc + bs.length) → memGet (s.performWrite loc bs).mem a = memGet s.mem a)
    ∧ (∀ (s : State) (loc : Nat) (bs : List Byte), s.me.cr.confirmed = false → bs ≠ [] →
      s.me.touches loc bs.length = false →
      (s.writeLoc loc bs).mem = s.mem ∧ (s.writeLoc loc bs).me.prov = s.me.prov ++ [{ loc := loc, bytes := bs, notes := [] }])
    ∧ (∀ (s : State) (loc : Nat) (bs : List Byte) (a : Nat), memWf s.mem = true → s.me.cr.confirmed = false →
      ¬ (s.me.allocBase ≤ a ∧ a < s.me.allocBase + s.me.spad) → memGet (s.writeLoc loc bs).mem a = memGet s.mem a)

/-- LD completes with the value at its address, of its size, zero-extended or sign-extended. ST completes with the low bytes of
its data register written at its address, and the registers that reach a leaf over them STALE. A scalar access that is not
aligned to its size raises MISALIGN at its address and changes nothing else. -/
def Obligations.LoadStoreResult : Prop :=
  (∀ (d b : SReg) (z : MemSize) (x : Bool) (o : BitVec 13) (s s1 : State) (loc : Nat),
      let va := address s.me b o
      let n := bytesOf z
      Ready (scalarGate [d, b] true) s → MayRead s va n s1 loc →
      Retires .s (.ld d b z x o) s
        (((s1.readLoc loc n).1.watchNote .hart .read [(va.toNat, loc, n)]).setReg d
          (extended n (valueOf (s1.readLoc loc n).2) x)))
    ∧ (∀ (d b : SReg) (z : MemSize) (o : BitVec 13) (s s1 : State) (loc : Nat),
      let va := address s.me b o
      let n := bytesOf z
      Ready (scalarGate [d, b] true) s → MayWrite s .write va n s1 loc → s1.provRoom loc n = true →
      Retires .s (.st d b z o) s
        (((s1.writeLoc loc (leBytes n ((s.me.reg d).toNat % 2 ^ (8 * n)))).spoil (rangeOf va n) s1.me.pc).watchNote
          .hart .write [(va.toNat, loc, n)]))
    ∧ (∀ (d b : SReg) (z : MemSize) (x : Bool) (o : BitVec 13) (s : State), Issues (scalarGate [d, b] true) s →
      (address s.me b o).toNat % bytesOf z ≠ 0 →
      exec (.ld d b z x o) s = .next (s.takeTrap s .misalign (address s.me b o))
        ∧ exec (.st d b z o) s = .next (s.takeTrap s .misalign (address s.me b o)))
    ∧ (∀ (i : Instr) (op : AmoOp) (d a b : SReg) (n : Nat) (s : State), amoSpec i = some (op, d, a, b, n) →
      Issues (scalarGate [d, a, b] false) s → s.me.cr.confirmed = true → (s.me.reg a).toNat % n ≠ 0 →
      exec i s = .next (s.takeTrap s .misalign (s.me.reg a)))

/-- Each of the ten AMOs completes with the old value, sign-extended, in its destination, and stores what its operation
gives; a CAS that does not match stores nothing. In the remote window every AMO but ADD and CAS of 8 bytes raises PROT. While the
hart is provisional an AMO stalls before anything else of its own: it has not issued, and nothing changes. -/
def Obligations.AtomicResult : Prop :=
  (∀ (i : Instr) (op : AmoOp) (d a b : SReg) (n : Nat) (s s1 : State) (loc : Nat),
    amoSpec i = some (op, d, a, b, n) →
    let va := s.me.reg a
    let old := valueOf (s1.view loc n)
    Ready (scalarGate [d, a, b] false) s → s.wouldRun = false → s.me.cr.confirmed = true →
    MayWrite s .amo va n s1 loc → s1.place loc = .ram → s1.hasError loc n = false →
    let stored := match amoStores op n old ((s1.me.reg b).toNat % 2 ^ (8 * n)) ((s1.me.reg d).toNat % 2 ^ (8 * n)) with
      | none => s1
      | some v => (s1.store loc (leBytes n v)).spoil (rangeOf va n) s1.me.pc
    Retires .s i s ((stored.watchNote .hart .amo [(va.toNat, loc, n)]).setReg d (extended n old true)))
    ∧ (∀ (i : Instr) (op : AmoOp) (d a b : SReg) (n : Nat) (s s1 : State) (loc : Nat),
      amoSpec i = some (op, d, a, b, n) → Issues (scalarGate [d, a, b] false) s → s.wouldRun = false →
      s.me.cr.confirmed = true → (s.me.reg a).toNat % n = 0 → s.locate (s.me.reg a) .amo = .ok (s1, loc) →
      s1.place loc = .remote → RemoteRefuses op n → exec i s = .next (s.takeTrap s1 .prot (s.me.reg a)))
    ∧ (∀ (i : Instr) (op : AmoOp) (d a b : SReg) (n : Nat) (s : State), amoSpec i = some (op, d, a, b, n) →
      Issues (scalarGate [d, a, b] false) s → s.me.cr.confirmed = false → exec i s = .next s)

/-- NOP changes nothing and retires. A fence completes once no pass is due: FENCE.ENG also waits for the hart's copies and
trace records, and while it waits nothing but its token changes; FENCE.XLAT, at S, waits for the pins that copies and passes,
with their held writes, hold on the pages that TLBINVA names, then removes the translations that it names and clears TLBINVA. -/
def Obligations.FenceResult : Prop :=
  (∀ s : State, Ready {} s → Retires .s .nop s s)
    ∧ (∀ (i : Instr) (s : State), plainFence i = true → Ready {} s → s.wouldRun = false → Retires .s i s s)
    ∧ (∀ (sc : Scope) (s : State), Issues {} s → s.wouldRun = false →
        (¬ EngineWork s → s.me.signalBlocked .s = false → Retires .s (.fenceEng sc) s s)
          ∧ (EngineWork s → exec (.fenceEng sc) s = .next (s.takeIssued .s)))
    ∧ (∀ (sc : Scope) (s : State), Issues { supervisor := true } s → s.wouldRun = false →
        (¬ Pinned s → s.me.signalBlocked .s = false → Retires .s (.fenceXlat sc) s
          { s with
            tlb := s.tlb.filter fun e => !tlbNamed s.me.cr.tlbinva e.tr
            me := { s.me with cr := { s.me.cr with tlbinva := 0 } } })
          ∧ (Pinned s → exec (.fenceXlat sc) s = .next (s.takeIssued .s)))

/-- BR, JMP and JMPR: a taken BR and a JMP go to their word target, a BR not taken goes on, and JMPR goes to its register,
MISALIGN first. LOOP arms the loop with a nonzero count and goes on at the body; with a count of 0 it goes on after LEND,
leaves LC and arms nothing. -/
def Obligations.BranchAndLoopResult : Prop :=
  (∀ (c : BrCond) (a b : SReg) (o : BitVec 13) (s : State), Issues (scalarGate [a, b] true) s →
      (taken c (s.me.reg a) (s.me.reg b) → Transfers (.br c a b o) s (wordTarget s.me o.toNat 13))
        ∧ (¬ taken c (s.me.reg a) (s.me.reg b) → s.me.signalBlocked .s = false → Retires .s (.br c a b o) s s))
    ∧ (∀ (o : BitVec 26) (s : State), Issues (scalarGate [] true) s → Transfers (.jmp o) s (wordTarget s.me o.toNat 26))
    ∧ (∀ (r : SReg) (s : State), Issues (scalarGate [r] false) s →
      ((s.me.reg r).toNat % 4 = 0 → Transfers (.jmpr r) s (s.me.reg r))
        ∧ ((s.me.reg r).toNat % 4 ≠ 0 → exec (.jmpr r) s = .next (s.takeTrap s .misalign (s.me.reg r))))
    ∧ (∀ (c : SReg) (o : BitVec 21) (s : State),
      let off := plainImm s.me o.toNat 21
      let start := keepBits (s.me.pc + 4) 55 2
      let tail := keepBits (s.me.pc + BitVec.ofNat 64 (4 * off)) 55 2
      Ready (scalarGate [c] true) s → 1 ≤ off →
      (s.me.reg c ≠ 0 → exec (.loop c o) s = .next (settle .s s (.goto { s with me := { s.me with
          pc := s.me.pc + 4
          cr := { s.me.cr with lc := s.me.reg c, lstart := start, lend := tail ||| 1 } } })))
        ∧ (s.me.reg c = 0 → exec (.loop c o) s = .next (settle .s s (.goto { s with me := { s.me with
          pc := sx56 tail + 4
          cr := { s.me.cr with lstart := start, lend := tail } } }))))

/-- CALL and CALLR push the return entry, slide the window and transfer; RET pops the newest entry, slides the window back and
returns to it. A call whose window or return store overflows first writes the oldest return entry at RSP and groups of eight
registers at WSP, no more groups than the frame needs; a return whose store is empty reads the newest spilled entry back, and
one whose window underflows reads groups of eight registers back from WSP. A spill outside the hart's allocation is
SPILLFAULT at its address, a pending register that is to be spilled runs the pass first, and a return with no entry left is
RETEMPTY. -/
def Obligations.CallReturnResult : Prop :=
  (∀ (f : Frame) (o : BitVec 24) (s : State), Ready (scalarGate [] true) s → CallFits s f →
      copies55 (wordTarget s.me o.toNat 24) → Jumps (.call f o) s (called s f) (wordTarget s.me o.toNat 24))
    ∧ (∀ (r : SReg) (f : Frame) (s : State), Ready (scalarGate [r] false) s → CallFits s f →
      (s.me.reg r).toNat % 4 = 0 → copies55 (s.me.reg r) → Jumps (.callr r f) s (called s f) (s.me.reg r))
    ∧ (∀ (s : State) (a : Word) (f : Frame) (rs : List (Word × Frame)), Ready {} s → s.me.rets = (a, f) :: rs →
      s.me.wlo + frameRegs f ≤ s.me.wbase →
      Jumps .ret s { s with me := { s.me with rets := rs, wbase := s.me.wbase - frameRegs f } } a)
    ∧ (∀ (s s1 s2 : State) (f : Frame) (k : Nat), ReturnRoom s s1 →
      Spills (s1.me.wbase + frameRegs f + 24) k s1 s2 →
      let u : State := { s2 with me := { s2.me with
        rets := (s.me.pc + 4, f) :: s2.me.rets, wbase := s2.me.wbase + frameRegs f } }
      (∀ o : BitVec 24, Ready (scalarGate [] true) s → copies55 (wordTarget s.me o.toNat 24) →
          Jumps (.call f o) s u (wordTarget s.me o.toNat 24))
        ∧ (∀ r : SReg, Ready (scalarGate [r] false) s → (s.me.reg r).toNat % 4 = 0 → copies55 (s.me.reg r) →
          Jumps (.callr r f) s u (s.me.reg r)))
    ∧ (∀ (s s1 t : State) (a : Word) (f : Frame) (k : Nat), Ready {} s → Pops s s1 a f → Fills k (slidBack s1 f) t →
      Jumps .ret s t a)
    ∧ (∀ (f : Frame) (o : BitVec 24) (s : State), Issues (scalarGate [] true) s → copies55 (wordTarget s.me o.toNat 24) →
      s.me.rets.length < 32 → s.me.wlo + 128 < s.me.wbase + frameRegs f + 24 →
      let pending := ∃ i, i < 8 ∧ s.me.pend.get (windowAt (s.me.wlo + i)) = true
      (pending → s.handlerBypass = false → exec (.call f o) s = .next ((s.takeIssued .s).startPass false))
        ∧ (¬ pending → ¬ InOwn s.me s.me.wsp 64 → exec (.call f o) s = .next (s.takeTrap s .spillfault s.me.wsp)))
    ∧ (∀ s : State, Issues {} s → s.me.rets = [] → s.me.rsp = sx56 s.me.cr.spillp - 8 →
      exec .ret s = .next (s.takeTrap s .retempty 0))

/-- A word offset counts words from the instruction word: a taken BR, a JMP and a CALL at p go to p + 4 × offset, and LOOP
at p sets LSTART to p + 4 and LEND to p + 4 × offset. -/
def Obligations.WordOffsetTargets : Prop :=
  (∀ (c : BrCond) (a b : SReg) (o : BitVec 13) (s : State), Ready (scalarGate [a, b] true) s →
      taken c (s.me.reg a) (s.me.reg b) → copies55 (wordTarget s.me o.toNat 13) →
      ∃ t, exec (.br c a b o) s = .next t ∧ t.me.pc = wordTarget s.me o.toNat 13)
    ∧ (∀ (o : BitVec 26) (s : State), Ready (scalarGate [] true) s → copies55 (wordTarget s.me o.toNat 26) →
      ∃ t, exec (.jmp o) s = .next t ∧ t.me.pc = wordTarget s.me o.toNat 26)
    ∧ (∀ (f : Frame) (o : BitVec 24) (s : State), Ready (scalarGate [] true) s → CallFits s f →
      copies55 (wordTarget s.me o.toNat 24) →
      ∃ t, exec (.call f o) s = .next t ∧ t.me.pc = wordTarget s.me o.toNat 24)
    ∧ (∀ (c : SReg) (o : BitVec 21) (s : State), Ready (scalarGate [c] true) s → 1 ≤ plainImm s.me o.toNat 21 →
      ∃ t, exec (.loop c o) s = .next t ∧ t.me.cr.lstart = keepBits (s.me.pc + 4) 55 2
        ∧ keepBits t.me.cr.lend 55 2 = keepBits (s.me.pc + BitVec.ofNat 64 (4 * plainImm s.me o.toNat 21)) 55 2)

/-- What retiring leaves: the pc moves past the unit, or back to LSTART with LC counted down where the unit ends an armed
loop whose count is above 1, or past it with the loop disarmed where the count is 1 or 0; the prefixes are used up; and
nothing but the token FIFOs and what the list names changes. With no sinks' tokens owed, retiring takes one token from the
FIFO of the unit's wait part, unless the unit has taken it already, gives one to that of its signal part, and leaves every
other FIFO. A unit whose signal finds its FIFO full does not retire and has none of its effect but that, with no sinks'
tokens owed, it takes the token of its wait part where it has not yet; that a token taken ahead is counted until its unit
retires is the model's form of this (log 15). -/
def Obligations.Retirement : Prop :=
  (∀ (q : Queue) (s u : State), s.me.signalBlocked q = false →
      let t := settle q s (.done u)
      let ends := u.me.cr.lend.getLsbD 0 = true
        ∧ ∃ w ∈ s.me.unitWords, keepBits w 55 2 = keepBits u.me.cr.lend 55 2
      (¬ ends → t.me.pc = u.me.pc + 4 ∧ t.me.cr = u.me.cr)
        ∧ (ends → 1 < u.me.cr.lc.toNat → t.me.pc = sx56 u.me.cr.lstart ∧ t.me.cr = { u.me.cr with lc := u.me.cr.lc - 1 })
        ∧ (ends → u.me.cr.lc.toNat ≤ 1 →
          t.me.pc = u.me.pc + 4 ∧ t.me.cr = { u.me.cr with lc := 0, lend := u.me.cr.lend &&& ~~~(1 : Word) })
        ∧ t.me.tok = none ∧ t.me.ext = none ∧ t.me.regs = u.me.regs ∧ t.me.vec = u.me.vec ∧ t.me.level = u.me.level
        ∧ t.me.prov = u.me.prov ∧ t.me.copies = u.me.copies ∧ t.mem = u.mem ∧ t.others = u.others ∧ t.cores = u.cores)
    ∧ (∀ (q : Queue) (s u : State) (w : BitVec 32) (x y : Nat), s.me.signalBlocked q = false → u.me.tok = some w →
      u.me.owed = [] → tokWait w = some x → tokSignal w = some y → x < 5 → y < 5 → x ≠ q.num → y ≠ q.num →
      let t := settle q s (.done u)
      let n (h : Hart) (i j : Nat) : Nat := h.tokens.get (fifo i j)
      n t.me x q.num = (if u.me.tookEarly x q = true then n u.me x q.num else n u.me x q.num - 1)
        ∧ n t.me q.num y = n u.me q.num y + 1
        ∧ ∀ i j, i < 5 → j < 5 → (i, j) ≠ (x, q.num) → (i, j) ≠ (q.num, y) → n t.me i j = n u.me i j)
    ∧ (∀ (q : Queue) (s u : State), s.me.signalBlocked q = true → settle q s (.done u) = s.takeIssued q)
    ∧ (∀ (q : Queue) (s : State) (w : BitVec 32) (x : Nat), s.me.tok = some w → tokWait w = some x → x < 5 →
      (s.me.tookEarly x q = true → s.takeIssued q = s)
        ∧ (s.me.tookEarly x q = false → s.me.tokens.get (fifo x q.num) ≠ 0 → s.me.owed = [] →
          s.takeIssued q = { s with me := { s.me with
            early := s.me.early.set (fifo x q.num) (s.me.early.get (fifo x q.num) + 1)
            tokens := s.me.tokens.set (fifo x q.num) (s.me.tokens.get (fifo x q.num) - 1) } }))
    ∧ (∀ (q : Queue) (s : State), s.me.tok.bind tokWait = none → s.takeIssued q = s)

namespace Sys2Proof.Claims

/-! ### Exceptions -/

/-- Nothing holds an exception of the hart back, and it has a handler: no copy is in flight and TVEC is not 0 (14_traps.md
R208). -/
def TrapReady (s : State) : Prop := s.me.copies = [] ∧ s.me.cr.tvec ≠ 0

/-- An instruction answers with an exception of a cause and value (R208). -/
def Raises (i : Instr) (s : State) (c : Cause) (eva : Word) : Prop :=
  ∃ t, exec i s = .next t ∧ Traps s t c eva ∧ t.mem = s.mem ∧ t.me.regs = s.me.regs ∧ t.me.vec = s.me.vec

/-- No copy of any hart into the hart's scratchpad allocation is in flight (12_launch.md R186). -/
def NoCopyInto (s : State) : Prop := ∀ h ∈ s.harts, ∀ c ∈ h.copies, c.targets h.core s.me = false

/-- FELEM at WATCHIMP: ID in bits 15:0, KIND in 34:32, WP in 36:35, SRC in 38:37, LOST in 39, zeros elsewhere (15_debug.md
R229). -/
def FelemIs (w : Word) (r : WatchRecord) : Prop :=
  w.toNat % 2 ^ 16 = r.id.toNat ∧ w.toNat / 2 ^ 16 % 2 ^ 16 = 0 ∧ w.toNat / 2 ^ 32 % 8 = r.kind.toNat
    ∧ w.toNat / 2 ^ 35 % 4 = r.wp % 4 ∧ w.toNat / 2 ^ 37 % 4 = r.src % 4 ∧ w.toNat / 2 ^ 39 = r.lost.toNat

/-- The instructions that need S: ERET, FENCE.XLAT, and CRD and CWR of the registers that U-mode may not name (R206;
04_registers.md R70). -/
def needsS : Instr → Bool
  | .eret | .fenceXlat _ | .cwrCtxbase _ | .cwrTimecmp _ | .cwrPtbase _ | .cwrSpillp _ | .cwrWatchpoint _ _ => true
  | .crd _ n | .cwr _ n =>
    let k := n.toNat
    (0x300 ≤ k && k ≤ 0x309) || (0x401 ≤ k && k ≤ 0x404) || (0x410 ≤ k && k ≤ 0x41B)
  | .cwrTraceRegs _ n => n != 0
  | _ => false

/-- Bit j of ESTATUS (R70): 0 PPRIV, 1 IE, 2 PIE, 3 PSUSP. -/
def estatusBit (s : State) (j : Nat) : Bool := s.me.cr.estatus.getLsbD j

/-! ### Control registers -/

/-- Bits hi down to lo. -/
def span (hi lo : Nat) : Word := BitVec.ofNat 64 (2 ^ (hi + 1) - 2 ^ lo)

/-- The bits of a control register that CWR writes, for the registers whose write has no further effect (R70). -/
def writableU : Nat → Word
  | 0x006 => span 1 0
  | 0x007 => span 0 0
  | 0x009 => span 63 0
  | 0x00A => span 55 2
  | 0x501 => span 55 6
  | _ => 0

/-- The same at S. -/
def writableS (n : Nat) : Word :=
  if 0x110 ≤ n ∧ n ≤ 0x11F then span 63 0
  else
    match n with
    | 0x101 => span 55 2
    | 0x102 => span 39 0
    | 0x103 => span 55 2
    | 0x300 => span 55 2
    | 0x301 => span 4 0
    | 0x302 => span 63 0
    | 0x303 => span 3 0
    | 0x304 => span 55 2
    | 0x307 => span 55 18 ||| span 1 0
    | 0x404 => span 31 0
    | n =>
      if 0x420 ≤ n ∧ n ≤ 0x43F then span 63 0
      else if 0x440 ≤ n ∧ n ≤ 0x47F then
        (if n % 4 = 0 then span 55 2 ||| span 0 0 else if n % 4 = 1 then span 55 2 else span 63 0)
      else writableU n

/-- The registers that CWR never writes with the value that each holds (R70, R66 to R68); a hart's PARTN and LMOD are its
core's. -/
def fixedReads (s : State) : List (Nat × Word) :=
  let r := s.me.cr
  let c := s.myCore
  [(0x000, BitVec.ofNat 64 r.vl), (0x001, BitVec.ofNat 64 r.sl), (0x002, BitVec.ofNat 64 r.slmax), (0x003, BitVec.ofNat 64 r.nv),
    (0x004, BitVec.ofNat 64 c.lmod), (0x005, BitVec.ofNat 64 c.partn), (0x100, r.passp), (0x200, BitVec.ofNat 64 r.hx),
    (0x201, BitVec.ofNat 64 r.gn), (0x202, BitVec.ofNat 64 s.me.core), (0x204, if r.confirmed then 1 else 0), (0x205, r.complp),
    (0x400, s.time), (0xF00, s.capBase.setWidth 64 &&& ~~~(15 : Word)), (0xF01, BitVec.ofNat 64 Config.partId)]

/-- LREMAPj: bits 15:0 mark the assigned lanes among 16j to 16j + 15, and bits 23:16 count those below (R68). -/
def RemapIs (c : Core) (j : Nat) (w : Word) : Prop :=
  (∀ k, k < 16 → w.getLsbD k = c.assigned.getLsbD (16 * j + k))
    ∧ w.toNat / 2 ^ 16 = ((List.range (16 * j)).filter fun l => c.assigned.getLsbD l).length

/-- The strip-length limit (R65), for NV, the group count and LMOD. -/
def slmaxRule (nv n lmod : Nat) : Nat :=
  let w := lmod / n
  w * (262144 / n / (8 / n) / (nv * 4) / w)

/-- The hart after VCONF or PART: every vector register and k1 to k15 EMPTY, SLMAX and SL by R65, SLMAX in sd (R66). -/
def configured (s : State) (d : SReg) : State :=
  let m := slmaxRule s.me.cr.nv s.myCore.partn s.myCore.lmod
  ({ s with me := { s.me with
    vec := collect { s.me.vec with
      v := s.me.vec.v.map fun r => { r with state := .empty }
      k := Vector.replicate 16 .empty }
    cr := { s.me.cr with slmax := m, sl := m } } } : State).setReg d (BitVec.ofNat 64 m)

/-- The strip length that VSETL grants (R67). -/
def slGranted (request slmax w : Nat) : Nat :=
  let r := if request = 0 ∨ slmax < request then slmax else request
  if r < w then w else r - r % w

/-- The free positions of a unit's slot table below n (12_launch.md R170). -/
def freeBelow (c : Core) (unit n : Nat) : Nat :=
  (List.range n).countP fun p => !c.slots.any fun e => e.unit == unit && e.pos == p

/-- The positions below n of a unit's slot table that a hart holds (R170). -/
def heldBelow (c : Core) (unit hart n : Nat) : Nat :=
  (List.range n).countP fun p => c.slots.any fun e => e.unit == unit && e.pos == p && e.hart == hart

/-- The hart's weight rises to f as far as its four tables have room: the pass unit of its lane group, the matrix array, the bond
sequencer and the copy engine each give it k further positions, the lowest free ones first (R170). -/
def SlotsRise (s : State) (f k : Nat) (c : Core) : Prop :=
  let tables := [s.myCore.group s.me.slot, 8, 9, 10]
  (∀ u ∈ tables, k ≤ freeBelow s.myCore u 32) ∧ k ≤ f - s.me.cr.slots
    ∧ (k = f - s.me.cr.slots ∨ ∃ u ∈ tables, k = freeBelow s.myCore u 32)
    ∧ c = { s.myCore with slots := c.slots }
    ∧ ∀ e, e ∈ c.slots ↔ e ∈ s.myCore.slots
      ∨ (e.hart = s.me.num ∧ e.unit ∈ tables ∧ e.pos < 32 ∧ freeBelow s.myCore e.unit e.pos < k
        ∧ ∀ o ∈ s.myCore.slots, ¬ (o.unit = e.unit ∧ o.pos = e.pos))

/-- The hart's highest positions of each table are freed until it holds f (R170). -/
def SlotsFall (s : State) (f : Nat) (c : Core) : Prop :=
  c = { s.myCore with slots := c.slots }
    ∧ ∀ e, e ∈ c.slots ↔ e ∈ s.myCore.slots
      ∧ (e.hart = s.me.num → e.pos < 32 ∧ heldBelow s.myCore e.unit s.me.num e.pos < f)

/-- The token counts after the tokens of units that have not retired have gone back to their FIFOs (03_formats.md R42). -/
def returned (h : Hart) : Vector Nat 25 := Vector.ofFn fun i => h.tokens.get i + h.early.get i

end Sys2Proof.Claims

/-- Taking an exception: it waits for the hart's copies; with a handler it saves the unit's address, the cause, the value
and the status, and goes on at TVEC in S with interrupts off; with TVEC = 0 the hart stops and management is told. It
changes nothing else but the used-up prefixes of the unit, and the tokens that units have taken which have not retired go back
(the model's form of their cancelling, log 15). -/
def Obligations.TrapEntry : Prop :=
  ∀ (s u : State) (c : Cause) (eva : Word),
    (s.me.copies ≠ [] → s.takeTrap u c eva = s)
      ∧ (s.me.copies = [] → u.me.cr.tvec ≠ 0 →
        ∃ es : Word, es.getLsbD 0 = (u.me.level == .s) ∧ es.getLsbD 1 = false ∧ es.getLsbD 2 = u.me.cr.estatus.getLsbD 1
          ∧ es.getLsbD 3 = u.me.cr.fdemand.getLsbD 0 ∧ (∀ j, 4 ≤ j → es.getLsbD j = false)
          ∧ s.takeTrap u c eva = { u with me := { u.me with
              tok := none, ext := none, checked := none, met := [], brun := none, holders := [], woke := none
              early := Vector.replicate 25 0
              tokens := returned u.me
              level := .s
              pc := sx56 u.me.cr.tvec
              cr := { u.me.cr with
                epc := keepBits (u.me.pc - BitVec.ofNat 64 (4 * u.me.prefixes)) 55 2
                ecause := BitVec.ofNat 64 c.code
                eva := eva
                estatus := es } } })
      ∧ (s.me.copies = [] → u.me.cr.tvec = 0 →
        (s.takeTrap u c eva).me.status = .halted ∧ (s.takeTrap u c eva).log = u.log ++ [.hartStopped u.me.num]
          ∧ (s.takeTrap u c eva).me.cr = u.me.cr ∧ (s.takeTrap u c eva).me.pc = u.me.pc)

/-- TRAP and BRK, an encoding that is not allocated and a failed fetch take their exceptions: EPC names their own unit. ERET
at S returns: the level is PPRIV, IE becomes PIE, PSUSP and PPRIV become 0, and the pc is EPC; the hardware loop is neither
tested nor disarmed. An enabled interrupt that is pending is taken: TIMER when TIME has reached TIMECMP; WATCHIMP with the
hart's oldest record in EVA and FELEM, which leaves its core's queue, the other records staying; MACHINE with the oldest
record's EVA. Disabled, not pending, or while a copy of the hart or into its allocation is in flight, nothing happens. -/
def Obligations.TrapsAndReturn : Prop :=
  (∀ (code : BitVec 16) (s : State), Issues {} s → TrapReady s →
      Raises (.trap code) s .trapinst (code.setWidth 64) ∧ Raises (.brk code) s .brk (code.setWidth 64))
    ∧ (∀ s : State, TrapReady s → Raises .illegalEncoding s .illegal 0)
    ∧ (∀ (s : State) (c : Cause), TrapReady s → s.locate s.me.pc .fetch = .error c → Raises .fetchFault s c s.me.pc)
    ∧ (∀ (s s1 : State) (loc : Nat), s.locate s.me.pc .fetch = .ok (s1, loc) → exec .fetchFault s = .next s)
    ∧ (∀ s : State, Ready { supervisor := true } s →
      ∃ t, exec .eret s = .next t ∧ t.me.level = (if estatusBit s 0 then .s else .u) ∧ estatusBit t 1 = estatusBit s 2
        ∧ estatusBit t 0 = false ∧ estatusBit t 3 = false ∧ t.me.pc = sx56 s.me.cr.epc
        ∧ t.me.cr = { s.me.cr with estatus := t.me.cr.estatus } ∧ t.me.regs = s.me.regs ∧ t.me.vec = s.me.vec
        ∧ t.mem = s.mem ∧ t.me.tok = none ∧ t.me.ext = none)
    ∧ (∀ s : State, TrapReady s → NoCopyInto s → estatusBit s 1 = true →
      (s.me.cr.timecmp.toNat ≤ s.time.toNat → Raises .timer s .timer 0)
        ∧ (∀ (r : WatchRecord) (before after : List WatchRecord), s.myCore.watchQueue = before ++ r :: after →
          (∀ x ∈ before, x.owner ≠ s.me.num) → r.owner = s.me.num →
          ∃ t, exec .watchimp s = .next t ∧ Traps s t .watchimp r.eva ∧ t.myCore.watchQueue = before ++ after
            ∧ t.me.cr.fblame = 0 ∧ FelemIs t.me.cr.felem r ∧ t.mem = s.mem ∧ t.me.regs = s.me.regs)
        ∧ (∀ eva rest, s.me.machine = eva :: rest → ∃ t, exec .machine s = .next t ∧ Traps s t .machine eva
          ∧ t.me.machine = rest ∧ t.mem = s.mem ∧ t.me.regs = s.me.regs))
    ∧ (∀ s : State,
      (estatusBit s 1 = false ∨ s.me.copies ≠ [] ∨ ¬ NoCopyInto s →
          exec .timer s = .next s ∧ exec .watchimp s = .next s ∧ exec .machine s = .next s)
        ∧ (s.time.toNat < s.me.cr.timecmp.toNat → exec .timer s = .next s)
        ∧ ((∀ r ∈ s.myCore.watchQueue, r.owner ≠ s.me.num) → exec .watchimp s = .next s)
        ∧ (s.me.machine = [] → exec .machine s = .next s))

/-- Every instruction that needs S raises PRIV in U, where nothing of its encoding is wrong, and has no effect. -/
def Obligations.PrivilegeRule : Prop :=
  ∀ (i : Instr) (s : State), needsS i = true → s.me.level = .u → s.me.tokUnsound = false →
    s.me.tokBad .s = false → s.me.ext = none → exec i s = .next (s.takeTrap s .priv 0)

/-- Of several causes the first in R34's order is reported: the encoding with its prefixes, the group that a miller core
lacks, PRIV, MODE, and a vector register number of NV or more, each before the instruction's own effect and before its token is
taken. After the first four a unit waits whose queue's token waits for room; a pass that must run first runs before the
instruction issues; then a unit whose wait FIFO is empty waits; and an exception of the instruction's own is raised whether or
not the FIFO of its signal part has room. The place of the two waits is the model's choice (log 15). -/
def Obligations.IssueOrder : Prop :=
  ∀ (g : Gate) (s : State) (body : Res State),
    let encoding := s.me.tokUnsound = true ∨ (s.me.ext.isSome = true ∧ g.ext = false) ∨ g.sound = false
      ∨ (g.tokAtIssue = false ∧ s.me.tokBad g.queue = true)
    let lacks := s.me.miller = true ∧ g.miller = false
    let priv := g.supervisor = true ∧ s.me.level = .u
    let mode := (∃ m, g.mode = some m ∧ s.me.vec.matrix ≠ m) ∨ (g.passQueue = true ∧ s.handlerBypass = true)
    let token := g.tokAtIssue = true ∧ s.me.tokBad g.queue = true
    let stalled := s.me.owes g.queue = true
    let blocked := s.me.tokBlocked g.queue = true
    let number := ∃ n ∈ g.vregs, s.me.cr.nv ≤ n
    (encoding → unit g s body = .next (s.takeTrap s .illegal 0))
      ∧ (¬ encoding → lacks → unit g s body = .next (s.takeTrap s .illegal 0))
      ∧ (¬ encoding → ¬ lacks → priv → unit g s body = .next (s.takeTrap s .priv 0))
      ∧ (¬ encoding → ¬ lacks → ¬ priv → mode → unit g s body = .next (s.takeTrap s .mode 0))
      ∧ (¬ encoding → ¬ lacks → ¬ priv → ¬ mode → token → unit g s body = .next (s.takeTrap s .illegal 0))
      ∧ (¬ encoding → ¬ lacks → ¬ priv → ¬ mode → ¬ token → stalled → unit g s body = .next s)
      ∧ (¬ encoding → ¬ lacks → ¬ priv → ¬ mode → ¬ token → ¬ stalled → ¬ NoPassFirst g s →
        unit g s body = .next (s.startPass false))
      ∧ (¬ encoding → ¬ lacks → ¬ priv → ¬ mode → ¬ token → ¬ stalled → NoPassFirst g s → blocked →
        unit g s body = .next s)
      ∧ (¬ encoding → ¬ lacks → ¬ priv → ¬ mode → ¬ token → ¬ stalled → NoPassFirst g s → ¬ blocked → number →
        unit g s body = .next (s.takeTrap s .illegal 0))
      ∧ (Issues g s → ∀ u c eva, body = .error (.trap u c eva) → unit g s body = .next (s.takeTrap u c eva))

namespace Sys2Proof.Claims

/-- The running hart, which nothing holds back, fetches the word at its pc, which decodes to an instruction, and comes to run it
in a state. -/
def Fetches (s : State) (i : Instr) (t : State) : Prop :=
  s.me.status = .running ∧ (∀ p, s.me.vec.pass = some p → p.suspended = true) ∧ s.interruptDue = none
    ∧ s.me.pause = false ∧ s.me.draining = false ∧ s.me.brun = none
    ∧ ∃ s1 loc, ({ s with me := { s.me with fresh := false } } : State).locate s.me.pc .fetch = .ok (s1, loc)
      ∧ s1.heldByOther loc 4 = false ∧ decodeBytes (s1.readLoc loc 4).2 = some i
      ∧ t = (s1.readLoc loc 4).1

/-- The outcome of a step: the waits of YIELDs that are over end, and TIME and the count of the steps move on (01_device.md R21;
12_launch.md R186; log 6). -/
def ticked : Host.Outcome State Fault Refusal → Host.Outcome State Fault Refusal
  | .next t => .next { t.endYields with
    time := t.time + BitVec.ofNat 64 (Config.ticks t.stepNo), stepNo := t.stepNo + 1 }
  | .fault f => .fault f
  | .refused r => .refused r

end Sys2Proof.Claims

/-- The instruction at the pc runs: a step that begins a running hart's turn, with no running pass, pause, order program,
draining store, interrupt or change of state before it, fetches the word at the pc and runs the instruction it decodes to; then
the waits of YIELDs that are over end, and TIME moves on by a count that the manual leaves open. Before that, units that issue
ahead of a full FIFO may take a token; and an instruction that comes to the matrix array or the bond sequencer issues for the hart
that the unit's turn picks, whose instruction then runs. That one step fetches and runs one word, a
prefix word being a step of its own, and the agenda, the turn that is counted there and the ticks are the model's choice (logs 5,
6, 15, 19 and 34). -/
def Obligations.StepRunsInstruction : Prop :=
  ∀ (s t : State) (rest : List Turn) (i : Instr),
    s.stopped = false → s.urgent = none → s.agenda = .hart s.me.num :: rest →
    let u := ({ s with agenda := rest } : State).lookAhead
    Fetches u i t →
    (t.comesTo i = none → step s = ticked (exec i t))
      ∧ ∀ (k : Fin 11) (j : Instr) (w : State), t.comesTo i = some k → Fetches (u.unitTurn k) j w →
        step s = ticked (exec j w)

/-- A prefix completes by being latched: the pc moves to the next word, which the hart fetches in its next turn, put first on
the agenda, and nothing else changes; a second TOK, a TOK after an EXT and a second EXT are ILLEGAL. That a prefix runs as a
step of its own, and the agenda, are the model's choice (log 19). -/
def Obligations.PrefixesLatched : Prop :=
  (∀ (w g : Bool) (x y : BitVec 3) (s : State),
      (s.me.tok = none → s.me.ext = none → exec (.tok w x g y) s = .next { s with
          agenda := .hart s.me.num :: s.agenda
          me := { s.me with tok := some (BitVec.ofNat 32 (encode (.tok w x g y))), pc := s.me.pc + 4 } })
        ∧ (s.me.tok.isSome = true ∨ s.me.ext.isSome = true → exec (.tok w x g y) s = .next (s.takeTrap s .illegal 0)))
    ∧ (∀ (v : BitVec 26) (s : State),
      (s.me.ext = none → exec (.ext v) s = .next { s with
          agenda := .hart s.me.num :: s.agenda
          me := { s.me with ext := some v, pc := s.me.pc + 4 } })
        ∧ (s.me.ext.isSome = true → exec (.ext v) s = .next (s.takeTrap s .illegal 0)))

/-- CRD writes the register's value to its destination; a read-only register reads as the value it holds, among them LREMAP0 to
LREMAP8. CWR of a register with no further effect, the stall counters and the
words of the pair table among them, completes; the write, of LC and LSTART once the unit has retired, changes the register's
writable bits at the hart's level and no other register: the register then reads as written there, FDEMAND's valid bit as
before. -/
def Obligations.ControlRegisters : Prop :=
  (∀ (d : SReg) (n : BitVec 16) (s : State),
      Ready { scalars := [d], supervisor := needsS (.crd d n) } s →
      Retires .s (.crd d n) s (s.setReg d (s.crValue n.toNat)))
    ∧ (∀ s : State, (∀ x ∈ fixedReads s, s.crValue x.1 = x.2) ∧ ∀ j, j < 9 → RemapIs s.myCore j (s.crValue (0x010 + j)))
    ∧ (∀ (r : SReg) (n : BitVec 16) (s : State), (Instr.cwr r n).wf = true →
      Ready { scalars := [r], supervisor := needsS (.cwr r n) } s →
      let u (t : State) := t.crWrite n.toNat (s.me.reg r)
      let mask := if s.me.level = .s then writableS n.toNat else writableU n.toNat
      let stays : Word := if n.toNat = 0x103 then 1 else 0
      (n ≠ 0x009 → n ≠ 0x00A → Retires .s (.cwr r n) s (u s))
        ∧ ((n = 0x009 ∨ n = 0x00A) → exec (.cwr r n) s = .next (u (retire .s s s true)))
        ∧ ∀ t : State, t.me.level = s.me.level →
          (mask ≠ 0 → (u t).crValue n.toNat = (s.me.reg r &&& mask) ||| (t.crValue n.toNat &&& stays))
            ∧ (∀ m, (m ≠ n.toNat ∨ mask = 0) → (u t).crValue m = t.crValue m)
            ∧ (u t).mem = t.mem ∧ (u t).me.regs = t.me.regs ∧ (u t).me.pc = t.me.pc)

/-- The CWRs with a rule of their own: TIMECMP, PTBASE, SPILLP, SLOTS, LEND, whose write holds from the next unit, VFLAGS,
MSHAPE, BNDSIZE and BSTAT; each takes only the bits of its field. An increase of SLOTS takes the lowest free positions of the
hart's four slot tables, as many as all of them have; a decrease frees the highest. -/
def Obligations.CwrSpecial : Prop :=
  ∀ (r : SReg) (s : State),
    let v := s.me.reg r
    let sup : Gate := { scalars := [r], supervisor := true }
    (Ready sup s → Retires .s (.cwrTimecmp r) s (s.setCr fun c => { c with timecmp := v }))
      ∧ (Ready sup s → Retires .s (.cwrPtbase r) s (s.setCr fun c => { c with ptbase := v &&& span 51 12 }))
      ∧ (Ready sup s → s.me.wsp = sx56 s.me.cr.spillp → s.me.rsp = sx56 s.me.cr.spillp - 8 →
        Retires .s (.cwrSpillp r) s { s with me := { s.me with
          wsp := sx56 (v &&& span 55 6), rsp := sx56 (v &&& span 55 6) - 8
          cr := { s.me.cr with spillp := v &&& span 55 6 } } })
      ∧ (Issues sup s → (s.me.wsp ≠ sx56 s.me.cr.spillp ∨ s.me.rsp ≠ sx56 s.me.cr.spillp - 8) →
        exec (.cwrSpillp r) s = .next (s.takeTrap s .illegal 0))
      ∧ (Ready (scalarGate [r] false) s →
        let f := v.toNat % 64
        (s.me.level = .u → Retires .s (.cwrSlots r) s s)
          ∧ (s.me.level = .s → (f = 0 ∨ 32 < f) → Retires .s (.cwrSlots r) s (s.setCore s.myCore))
          ∧ (s.me.level = .s → s.me.cr.slots < f → f ≤ 32 → ∃ c k, SlotsRise s f k c
            ∧ Retires .s (.cwrSlots r) s ((s.setCore c).setCr fun x => { x with slots := s.me.cr.slots + k }))
          ∧ (s.me.level = .s → 1 ≤ f → f ≤ s.me.cr.slots → f ≤ 32 → ∃ c, SlotsFall s f c
            ∧ Retires .s (.cwrSlots r) s ((s.setCore c).setCr fun x => { x with slots := f })))
      ∧ (Ready (scalarGate [r] false) s → exec (.cwrLend r) s =
        .next ((retire .s s s true).setCr fun c => { c with lend := v &&& (span 55 2 ||| 1) }))
      ∧ (Ready (scalarGate [r] false) s → Retires .s (.cwrVflags r) s
        (s.setCr fun c => { c with vflags := c.vflags &&& ~~~(BitVec.ofNat 7 v.toNat) }))
      ∧ (Issues (scalarGate [r] false) s →
        let m := v.toNat % 32
        let n := v.toNat / 256 % 1024
        (1 ≤ m → m ≤ 16 → 1 ≤ n → n ≤ 256 → s.me.signalBlocked .s = false →
            Retires .s (.cwrMshape r) s (s.setCr fun c => { c with
              mshape := BitVec.ofNat 64 (256 * n + m), vl := if s.me.vec.matrix then n else c.vl }))
          ∧ ((m = 0 ∨ 16 < m ∨ n = 0 ∨ 256 < n) → exec (.cwrMshape r) s = .next (s.takeTrap s .illegal 0)))
      ∧ (Issues (scalarGate [r] false) s →
        let f := v &&& span 18 0
        (f.toNat % 64 = 0 → f.toNat ≤ 262144 → s.me.signalBlocked .s = false →
            Retires .s (.cwrBndsize r) s (s.setCr fun c => { c with bndsize := f }))
          ∧ ((f.toNat % 64 ≠ 0 ∨ 262144 < f.toNat) → exec (.cwrBndsize r) s = .next (s.takeTrap s .illegal 0)))
      ∧ (Ready (scalarGate [r] false) s → Retires .s (.cwrBstat r) s
        (s.setCr fun c => { c with bstat := v &&& span 16 0 }))

namespace Sys2Proof.Claims

/-- The places that a watchpoint's remote comparator watches: the granule's, or for a page in migration its place in both
frames (15_debug.md R227). -/
def Watched (s : State) (va : Word) (loc : Nat) (fs : List Nat) : Prop :=
  let frame (r i : Nat) : Nat := s.recordDword (r + i) / 2 ^ 18 % 2 ^ 34 * 2 ^ 18 + va.toNat % 2 ^ 18
  let moving (t : Translation) : Prop := t.large = false ∧ t.pte.getLsbD 8 = true
  (fs = [loc] ∧ ((windowLoc s.me.core va.toNat).isSome = true
      ∨ ∃ s1 t, s.translateAs s.me.cr.ptbase (s.me.level == .u) va.toNat .read = .ok (s1, t) ∧ ¬ moving t))
    ∨ ∃ s1 t, windowLoc s.me.core va.toNat = none
      ∧ s.translateAs s.me.cr.ptbase (s.me.level == .u) va.toNat .read = .ok (s1, t) ∧ moving t
      ∧ fs = [frame (pteAddr t.pte.toNat) 0, frame (pteAddr t.pte.toNat) 8]

/-- Doublewords 0 to 33 of the control block of a hart's image (14_traps.md R212). -/
def controlBlock (h : Hart) (c : Core) : List Nat :=
  let r := h.cr
  [r.epc.toNat, r.ecause.toNat, r.eva.toNat, r.estatus.toNat, r.tvec.toNat, r.spillp.toNat, r.ptbase.toNat, r.timecmp.toNat,
    r.vl, r.sl, r.nv, c.partn, r.frm.toNat, r.lam.toNat, r.vflags.toNat, r.lc.toNat, r.lstart.toNat, r.lend.toNat,
    r.passp.toNat, r.fblame.toNat, r.felem.toNat, r.fdemand.toNat, r.hx, r.gn, r.complp.toNat, r.mshape.toNat,
    r.bndbuf.toNat, r.bndsize.toNat, r.bstat.toNat, h.wbase, h.wlo, h.wsp.toNat, h.rsp.toNat, h.rets.length]

/-- Doubleword i of bytes. -/
def dwAt (bs : List Byte) (i : Nat) : Nat := valueOf ((bs.drop (8 * i)).take 8)

/-- The first sections of an image: the header of R213, the control block, s1 to s7, the window registers and the stream
registers (14_traps.md R212, R213). -/
def ImageIs (h : Hart) (c : Core) (secs : List (Nat × List Byte)) : Prop :=
  (∃ bs, (0, bs) ∈ secs ∧ bs.length = 64 ∧ (∀ i, 1 ≤ i → i < 8 → dwAt bs i = 0)
      ∧ (let w := dwAt bs 0
         w / 2 ^ 63 = 1 ∧ (w / 2 ^ 62 % 2 = 1 ↔ h.vec.pass ≠ none) ∧ (w / 2 ^ 61 % 2 = 1 ↔ h.vec.matrix = true)
          ∧ w / 2 ^ 60 % 2 = 0 ∧ w / 2 ^ 56 % 16 = h.vec.tileCount % 16 ∧ w / 2 ^ 48 % 256 = c.lmod % 256
          ∧ w / 2 ^ 44 % 16 = c.partn % 16 ∧ w / 2 ^ 37 % 128 = h.cr.nv % 128 ∧ w / 2 ^ 32 % 32 = 0
          ∧ w / 2 ^ 12 % 2 ^ 20 = Config.partId % 2 ^ 20 ∧ w % 2 ^ 12 = 0))
    ∧ (∃ bs, (0x40, bs) ∈ secs ∧ ∀ i, i < 34 → dwAt bs i = (controlBlock h c).getD i 0 % 2 ^ 64)
    ∧ (∃ bs, (0x240, bs) ∈ secs ∧ dwAt bs 0 = 0 ∧ ∀ i, 1 ≤ i → i < 8 → dwAt bs i = (h.regs.toList.getD i 0).toNat)
    ∧ (∃ bs, (0x280, bs) ∈ secs ∧ ∀ i, i < 128 → dwAt bs i = (h.regs.toList.getD (8 + i) 0).toNat)
    ∧ (∃ bs, (0x780, bs) ∈ secs ∧ ∀ i, i < 16 → ∀ k, k < 4 →
        dwAt bs (4 * i + k) = (h.vec.q.toList.getD i 0).toNat / 2 ^ (64 * k) % 2 ^ 64)

/-- The state in which CTXBASE is replaced: as it is where CTXBASE is 0, else after the save of a confirmed hart (R211). -/
def Saved (s : State) (old : Word) (t : State) : Prop :=
  (old = 0 ∧ t = s) ∨ (old ≠ 0 ∧ s.me.cr.confirmed = true ∧ s.saveContext old = .ok t)

/-- The STATUS of a refused load, in the order of R214; none where the load proceeds. -/
def refusedWith (c : Core) (header : List Byte) : Option Nat :=
  let w := dwAt header 0
  if w / 2 ^ 12 % 2 ^ 20 ≠ Config.partId % 2 ^ 20 then some 2
  else if w / 2 ^ 62 % 2 = 1 ∧ (w / 2 ^ 48 % 256 ≠ c.lmod ∨ w / 2 ^ 44 % 16 ≠ c.partn) then some 1
  else if w / 2 ^ 60 % 2 ≠ 0 ∨ w / 2 ^ 32 % 32 ≠ 0 ∨ w % 2 ^ 12 ≠ 0 ∨ 8 < w / 2 ^ 56 % 16 ∨ dwAt header 1 / 2 ^ 16 ≠ 0
      ∨ ∃ b ∈ header.drop 16, b ≠ 0 then some 3
  else none

end Sys2Proof.Claims

/-- The CWRs of trace registers, watchpoints and CTXBASE: a trace register takes its fields once the core's trace FIFO is
empty, TRBASE with the writer's PTBASE, and waits until then, holding its token; a watchpoint register takes its fields, WPCTL
the writer as its owner, and a watchpoint that watches other agents the physical address of its granule, in both frames of a
page in migration. CTXBASE written with its own value completes at once, and waits while a copy of the hart or into its
allocation is in flight; where it is not 0 it first saves the context in the image that it names; written with 0 the hart then
vacates its core; with an address whose image is not valid it takes the value and keeps the context; an image that R214
refuses gets its STATUS and changes nothing; and a valid image that is not refused replaces the context. The order in which
the grounds of a refusal are looked at, and the translation of a watched granule as one that is read, are the model's choices
(logs 12 and 23). That its opaque sections are found by a free handle, and that an image without one is malformed, is the
model's choice (log 12). -/
def Obligations.CwrTraceWatchContext : Prop :=
  (∀ (r : SReg) (n : BitVec 2) (s : State), Issues { scalars := [r], supervisor := n != 0 } s →
      let v := s.me.reg r
      let c := s.myCore
      let empty := c.traceFifo = [] ∧ c.traceWait = []
      (n = 0 ∨ empty → s.me.signalBlocked .s = false → Retires .s (.cwrTraceRegs r n) s (s.setCore (match n.toNat with
        | 1 => { c with trbase := v &&& span 55 18, trptbase := some s.me.cr.ptbase }
        | 2 => { c with trsize := if ∃ k, k < 23 ∧ v.toNat % 2 ^ 41 = 2 ^ (18 + k) then v &&& span 40 0 else 0 }
        | 3 => { c with trhead := v &&& span 40 0 }
        | _ => c)))
        ∧ (n ≠ 0 → ¬ empty → exec (.cwrTraceRegs r n) s = .next (s.takeIssued .s)))
    ∧ (∀ (r : SReg) (n : BitVec 4) (s : State), n.toNat < 12 → Issues { scalars := [r], supervisor := true } s →
      let v := s.me.reg r
      let w := n.toNat % 4
      let c := s.myCore
      let c1 : Core :=
        if n.toNat < 4 then { c with wpad := c.wpad.setIfInBounds w (v &&& span 55 4) }
        else if n.toNat < 8 then { c with wpmask := c.wpmask.setIfInBounds w (v &&& span 15 0) }
        else { c with
          wpctl := c.wpctl.setIfInBounds w (v &&& span 7 0)
          wowner := c.wowner.setIfInBounds w (some s.me.num) }
      let remote := (c1.wpctl.toList.getD w 0).getLsbD 3 && (c1.wpctl.toList.getD w 0).getLsbD 7
      let a := c1.wpad.toList.getD w 0
      (remote = false → s.me.signalBlocked .s = false → Retires .s (.cwrWatchpoint r n) s (s.setCore c1))
        ∧ (∀ s1 loc fs, remote = true → s.me.signalBlocked .s = false → s.locate (sx56 a) .read = .ok (s1, loc) →
          Watched s (sx56 a) loc fs →
          Retires .s (.cwrWatchpoint r n) s (s1.setCore { c1 with wloc := c1.wloc.setIfInBounds w fs }))
        ∧ (∀ e, remote = true → s.locate (sx56 a) .read = .error e →
          exec (.cwrWatchpoint r n) s = .next (s.takeTrap (s.missed (sx56 a) .read) e a)))
    ∧ (∀ (r : SReg) (s : State), Issues { scalars := [r], supervisor := true } s →
      let v := s.me.reg r &&& span 55 8
      let old := s.me.cr.ctxbase
      let still := s.me.copies = [] ∧ NoCopyInto s
      (v = old → s.me.signalBlocked .s = false → Retires .s (.cwrCtxbase r) s s)
        ∧ (v ≠ old → ¬ still → exec (.cwrCtxbase r) s = .next (s.takeIssued .s))
        ∧ (∀ s1, v = 0 → old ≠ 0 → still → s.me.cr.confirmed = true → s.saveContext old = .ok s1 →
          ∃ t, exec (.cwrCtxbase r) s = .next t ∧ t.me.status = .vacated ∧ t.me.cr.ctxbase = 0 ∧ t.mem = s1.mem
            ∧ t.gangs = s1.gangs ∧ ∀ e ∈ t.myCore.slots, e.hart ≠ s.me.num)
        ∧ (∀ saved s1 header, v ≠ old → v ≠ 0 → still → Saved s old saved →
          saved.readSpan (sx56 v) 64 = .ok (s1, header) →
          let valid := dwAt header 0 / 2 ^ 63 % 2 = 1
          let held := dwAt header 0 / 2 ^ 56 % 16
          (¬ valid → s.me.signalBlocked .s = false →
              Retires .s (.cwrCtxbase r) s (s1.setCr fun c => { c with ctxbase := v }))
            ∧ (∀ s2 st, valid → refusedWith s1.myCore header = some st →
              s1.writeSpan (sx56 v + 8) (leBytes 2 st) = .ok s2 → s.me.signalBlocked .s = false →
              Retires .s (.cwrCtxbase r) s (s2.setCr fun c => { c with ctxbase := old }))
            ∧ (∀ s2 s3 image x, valid → refusedWith s1.myCore header = none →
              (old = 0 → s.me.cr.confirmed = true ∧ s.doneHeld = false) →
              State.readImage s s1 v header = .ok (s2, image) → s2.findSections image.low = some x →
              held ≤ s2.me.vec.tileCount →
              s2.writeSpan (sx56 v + 7) (leBytes 1 (dwAt header 0 / 2 ^ 56 % 128)) = .ok s3 → s.me.signal = none →
              ∃ t, exec (.cwrCtxbase r) s = .next t ∧ t.me.cr.ctxbase = v ∧ (old ≠ 0 → t.mem = s3.mem)
                ∧ t.me.cr.epc = BitVec.ofNat 64 (dwAt image.low 0) &&& span 55 2
                ∧ t.me.cr.eva = BitVec.ofNat 64 (dwAt image.low 2)
                ∧ t.me.cr.estatus = BitVec.ofNat 64 (dwAt image.low 3) &&& span 3 0
                ∧ t.me.cr.hx = dwAt image.low 22 % 2 ^ 32 ∧ t.me.cr.gn = dwAt image.low 23 % 2 ^ 32
                ∧ (∀ i : Fin 136, t.me.regs.get i = BitVec.ofNat 64 (dwAt image.low (64 + i.val)))
                ∧ t.me.wsp = BitVec.ofNat 64 (dwAt image.low 31) ∧ t.me.rsp = BitVec.ofNat 64 (dwAt image.low 32)
                ∧ t.me.gang = x.gang ∧ t.me.vec.forme = x.forme ∧ t.me.vec.galley = x.galley ∧ t.me.vec.pass = x.pass
                ∧ t.me.core = s.me.core ∧ t.me.slot = s.me.slot ∧ t.me.level = s.me.level
                ∧ t.me.cr.slots = s.me.cr.slots)))
    ∧ (∀ (h : Hart) (c : Core) (n : Nat), ImageIs h c (imageSections h c n))
    ∧ (∀ (s : State) (old : Word), s.saveContext old = writeSections s (sx56 old)
      (imageSections s.me.asSaved s.myCore s.nextImage)
        { s with nextImage := s.nextImage + 1, saved := s.me.sections s.nextImage :: s.saved })

/-- VCONF and PART complete with the new configuration; VSETL with the granted VL and SL. A count that R66 does not list is
ILLEGAL, and a new group count on a core with another resident hart raises MODE. SLMAX is that of the formula, whose inner
term is 8,192 by NV whatever the partition; it is a multiple of the lane width and never below it. -/
def Obligations.ConfigurationResult : Prop :=
  (∀ (d a : SReg) (s : State), Issues (passGate [d, a] []) s →
      let x := (s.me.reg a).toNat
      (x ∈ [8, 16, 32, 64] → s.wouldRun = false → s.me.signalBlocked .v = false → s.myCore.partn ∈ [1, 2, 4, 8] → s.myCore.lmod ≤ 128 →
        Retires .v (.vconf d a) s (configured { s with me := { s.me with
          cr := { s.me.cr with nv := x }
          vec := { s.me.vec with v := s.me.vec.v.map fun r => { r with tag := .f32 } } } } d))
        ∧ (x ∉ [8, 16, 32, 64] → exec (.vconf d a) s = .next (s.takeTrap s .illegal 0)))
    ∧ (∀ (d a : SReg) (s : State), Issues (passGate [d, a] []) s →
      let x := (s.me.reg a).toNat
      let shared := ∃ h ∈ s.others, h.core = s.me.core ∧ h.resident = true
      (x ∈ [1, 2, 4, 8] → x = s.myCore.partn ∨ ¬ shared → s.wouldRun = false → s.me.signalBlocked .v = false → s.me.cr.nv ∈ [8, 16, 32, 64] →
        s.myCore.lmod ≤ 128 → ∃ c : Core, c.num = s.me.core ∧ c.partn = x ∧ c.lmod = s.myCore.lmod
          ∧ Retires .v (.part d a) s (configured (s.setCore c) d))
        ∧ (x ∈ [1, 2, 4, 8] → x ≠ s.myCore.partn → shared → exec (.part d a) s = .next (s.takeTrap s .mode 0))
        ∧ (x ∉ [1, 2, 4, 8] → exec (.part d a) s = .next (s.takeTrap s .illegal 0)))
    ∧ (∀ (d a b : SReg) (s : State), Ready (passGate [d, a, b] []) s → s.myCore.lanes ≠ 0 →
      let vl := min (s.me.reg a).toNat (2 ^ 40 - 1)
      Retires .v (.vsetl d a b) s (({ s with me := { s.me with cr := { s.me.cr with
        vl := vl, sl := slGranted (s.me.reg b).toNat s.me.cr.slmax s.myCore.lanes } } } : State).setReg d
          (BitVec.ofNat 64 vl)))
    ∧ (∀ nv n lmod : Nat, nv ∈ [8, 16, 32, 64] → n ∈ [1, 2, 4, 8] → 8 ≤ lmod → lmod ≤ 128 →
      slmaxOf nv (lmod / n) = slmaxRule nv n lmod ∧ lmod / n ≤ slmaxRule nv n lmod
        ∧ slmaxRule nv n lmod % (lmod / n) = 0 ∧ 262144 / n / (8 / n) / (nv * 4) = 8192 / nv)

namespace Sys2Proof.Claims

/-- Bits lo + n − 1 to lo of a descriptor, without a sign and in two's complement (07_streams.md R103). -/
def descBits (d : BitVec 256) (lo n : Nat) : Nat := d.toNat / 2 ^ lo % 2 ^ n
def descSigned (d : BitVec 256) (lo n : Nat) : Int :=
  if 2 ^ n ≤ 2 * descBits d lo n then (descBits d lo n : Int) - 2 ^ n else descBits d lo n

/-- The strides of a descriptor that its DIMS uses (R103). -/
def stridesUsed (d : BitVec 256) : List Int :=
  [descSigned d 128 30, descSigned d 192 30, descSigned d 222 30].take (descBits d 59 2 + 1)

/-- The bytes of an element by its format code (R106). -/
def formatBytes (f : Nat) : Int := [1, 2, 4, 8, 1, 1, 2, 4].getD f 1

/-- QSET's ILLEGAL (R106, over the fields of R103): a reserved bit or an unused stride field that is not zero, DIMS of 3, N0
of 0, N1 of 0 with three dimensions, and for D8S a first stride other than 1, or a base or further stride in use that is no
multiple of 32. -/
def RefusedDesc (d : BitVec 256) : Prop :=
  let dims := descBits d 59 2
  (descBits d 62 2 ≠ 0 ∨ descBits d 107 1 ≠ 0 ∨ descBits d 178 14 ≠ 0 ∨ descBits d 252 4 ≠ 0
      ∨ (dims < 1 ∧ descBits d 192 30 ≠ 0) ∨ (dims < 2 ∧ descBits d 222 30 ≠ 0))
    ∨ dims = 3 ∨ descBits d 108 20 = 0 ∨ (dims = 2 ∧ descBits d 158 20 = 0)
    ∨ (descBits d 56 3 = 5 ∧ (descSigned d 128 30 ≠ 1 ∨ descSigned d 0 56 % 32 ≠ 0 ∨ ∃ x ∈ (stridesUsed d).drop 1, x % 32 ≠ 0))

/-- QSET's MISALIGN (R106): of a format other than D8S, a base or a stride in use that is no multiple of the element's size. -/
def MisalignedDesc (d : BitVec 256) : Prop :=
  descBits d 56 3 ≠ 5 ∧ ∃ x ∈ descSigned d 0 56 :: stridesUsed d, x % formatBytes (descBits d 56 3) ≠ 0

end Sys2Proof.Claims

/-- QSET loads the descriptor at its address, by four doubleword reads, into the stream register and detaches the leaves and
sinks that named it; a descriptor that R106 refuses is ILLEGAL or MISALIGN at that address. Element i of a stream lies where
R104 says, by the fields of R103. VTAG gives the registers vd to va a tag and VDROP empties them, the nodes that nothing keeps
being collected. -/
def Obligations.StreamAndRegisters : Prop :=
  (∀ (a : SReg) (q : QReg) (s s1 : State) (loc : Nat),
      let va := s.me.reg a
      let u := (dwordReads 4 loc s1).1.watchNote .hart .read [(va.toNat, loc, 32)]
      let d := BitVec.ofNat 256 (valueOf (dwordReads 4 loc s1).2)
      Issues (passGate [a] []) s → MayRead s va 32 s1 loc →
      (¬ RefusedDesc d → ¬ MisalignedDesc d → s.me.signalBlocked .v = false → Retires .v (.qset a q) s (u.setVec { u.me.vec with
          q := u.me.vec.q.set q.toFin d
          forme := u.me.vec.forme.map fun n => n.detach q
          galley := u.me.vec.galley.map fun g => g.detach q }))
        ∧ (RefusedDesc d → exec (.qset a q) s = .next (s.takeTrap u .illegal va))
        ∧ (¬ RefusedDesc d → MisalignedDesc d → exec (.qset a q) s = .next (s.takeTrap u .misalign va)))
    ∧ (∀ (d : BitVec 256) (i : Nat),
      let bits (lo n : Nat) : Nat := d.toNat / 2 ^ lo % 2 ^ n
      let signed (lo n : Nat) : Int := if 2 ^ n ≤ 2 * bits lo n then (bits lo n : Int) - 2 ^ n else bits lo n
      let n0 := bits 108 20
      let n1 := bits 158 20
      let column (c : Nat) : Int := if bits 56 3 = 5 then 32 * (c / 31 : Nat) + 1 + (c % 31 : Nat) else c * signed 128 30
      streamAddr d i = signed 0 56 + (match bits 59 2 with
        | 0 => column i
        | 1 => column (i % n0) + (i / n0 : Nat) * signed 192 30
        | _ => column (i % n0) + (i / n0 % n1 : Nat) * signed 192 30 + (i / (n0 * n1) : Nat) * signed 222 30))
    ∧ (∀ (d a : VReg) (t : Tag) (s : State), Ready (passGate [] [a]) s →
      let within (f : VRegister → VRegister) : VecState :=
        { s.me.vec with v := s.me.vec.v.mapFinIdx fun i r _ => if d.toNat ≤ i ∧ i ≤ a.toNat then f r else r }
      Retires .v (.vtag d a t) s (s.setVec (within fun r => { r with tag := t }))
        ∧ Retires .v (.vdrop d a) s (s.setVec (collect (within fun r => { r with state := .empty }))))

/-- VFORCE is major 0x23, op 0, every other field reserved: its word is the only one, and a word of its major and op with any
other bit set is no instruction. In matrix mode it raises MODE; in pass mode it runs the pending pass, and retires at once when
the galley is empty. -/
def Obligations.VforceResult : Prop :=
  decode 0x8C000000 = some .vforce ∧ (∀ x, 0 < x → x < 2 ^ 23 → decode (0x8C000000 + 8 * x) = none)
    ∧ (∀ s : State, s.me.tokUnsound = false → s.me.tokBad .v = false → s.me.ext = none → s.me.miller = false →
      s.me.vec.matrix = true →
      exec .vforce s = .next (s.takeTrap s .mode 0))
    ∧ (∀ s : State, Issues (passGate [] []) s →
      (s.me.vec.galley = [] → s.me.signalBlocked .v = false → Retires .v .vforce s s)
        ∧ (s.me.vec.galley ≠ [] → exec .vforce s = .next ((s.takeIssued .v).startPass false)))

namespace Sys2Proof.Claims

/-! ### Nodes -/

/-- What an instruction appends (06_forme.md R88, R89): its destination, operation, element tag, vector sources with their
chain bits, predicate and scalar, the registers it names, and the source tags that it refuses. -/
structure NodeSpec where
  dst : Dest
  op : NodeOp
  tag : Option Tag
  srcs : List (VReg × Bool)
  pred : PReg
  scalar : Option SReg
  vregs : List VReg
  refused : List Tag → Bool

/-- An integer tag. -/
def isInt : Tag → Bool
  | .i8 | .i16 | .i32 | .i64 => true
  | _ => false

/-- No tag is refused. -/
def anyTags (_ : List Tag) : Bool := false

/-- A floating tag among the first n. -/
def someFloat (n : Nat) (ts : List Tag) : Bool := (ts.take n).any fun t => !isInt t

/-- An integer tag among the first n. -/
def someInt (n : Nat) (ts : List Tag) : Bool := (ts.take n).any isInt

/-- The operators of a reduction or scan that a floating tag refuses (03_formats.md R51). -/
def intOperator : RedOp → Bool
  | .sum | .min | .max => false
  | _ => true

/-- The node of each element-wise, comparing, scanning and permuting instruction, where tagOf gives a vector register's
tag (03_formats.md R49 to R52; 20_reference_t_z.md R307 to R316, R319 to R321, R324). -/
def nodeSpec (i : Instr) (tagOf : VReg → Tag) : Option NodeSpec :=
  let two (op : NodeOp) (d a b : VReg) (m n : Bool) (p : PReg) (bad : List Tag → Bool) : Option NodeSpec :=
    some ⟨.v d, op, some (tagOf d), [(a, m), (b, n)], p, none, [d, a, b], bad⟩
  let one (op : NodeOp) (d a : VReg) (m : Bool) (p : PReg) (bad : List Tag → Bool) : Option NodeSpec :=
    some ⟨.v d, op, some (tagOf d), [(a, m)], p, none, [d, a], bad⟩
  let vs (op : NodeOp) (d a : VReg) (b : SReg) (m : Bool) (p : PReg) (bad : List Tag → Bool) : Option NodeSpec :=
    some ⟨.v d, op, some (tagOf d), [(a, m)], p, some b, [d, a], bad⟩
  let logic2 (d : VReg) (ts : List Tag) : Bool := someFloat 2 ts || !isInt (tagOf d)
  let logic1 (d : VReg) (ts : List Tag) : Bool := someFloat 1 ts || !isInt (tagOf d)
  match i with
  | .vadd d a b m n p => two (.arith .add false) d a b m n p anyTags
  | .vsub d a b m n p => two (.arith .sub false) d a b m n p anyTags
  | .vmul d a b m n p => two (.arith .mul false) d a b m n p anyTags
  | .vdiv d a b m n p => two (.arith .div false) d a b m n p anyTags
  | .vmin d a b m n p => two (.arith .min false) d a b m n p anyTags
  | .vmax d a b m n p => two (.arith .max false) d a b m n p anyTags
  | .vdivU d a b m n p => two (.arith .div true) d a b m n p anyTags
  | .vfma d a b m n p =>
    some ⟨.v d, .arith .fma false, some (tagOf d), [(a, m), (b, n), (d, true)], p, none, [d, a, b], anyTags⟩
  | .vand d a b m n p => two (.logic .and) d a b m n p (logic2 d)
  | .vor d a b m n p => two (.logic .or) d a b m n p (logic2 d)
  | .vxor d a b m n p => two (.logic .xor) d a b m n p (logic2 d)
  | .vshl d a b m n p => two (.logic .shl) d a b m n p (logic2 d)
  | .vshr d a b m n p => two (.logic .shrArith) d a b m n p (logic2 d)
  | .vshrU d a b m n p => two (.logic .shrLogical) d a b m n p (logic2 d)
  | .vsel d a b m n p => two .sel d a b m n p anyTags
  | .vabs d a m p => one (.unary .abs) d a m p anyTags
  | .vneg d a m p => one (.unary .neg) d a m p anyTags
  | .vsqrt d a m p => one (.unary .sqrt) d a m p (someInt 1)
  | .vrsqrt d a m p => one (.unary .rsqrt) d a m p (someInt 1)
  | .vrcp d a m p => one (.unary .rcp) d a m p (someInt 1)
  | .vexp d a m p => one (.unary .exp) d a m p (someInt 1)
  | .vlog d a m p => one (.unary .log) d a m p (someInt 1)
  | .vtanh d a m p => one (.unary .tanh) d a m p (someInt 1)
  | .vcvt d a m u p r => one (.cvt u r) d a m p fun ts => u && someFloat 1 ts && !isInt (tagOf d)
  | .vaddVs d a b m p => vs (.arith .add false) d a b m p anyTags
  | .vsubVs d a b m p => vs (.arith .sub false) d a b m p anyTags
  | .vmulVs d a b m p => vs (.arith .mul false) d a b m p anyTags
  | .vdivVs d a b m p => vs (.arith .div false) d a b m p anyTags
  | .vminVs d a b m p => vs (.arith .min false) d a b m p anyTags
  | .vmaxVs d a b m p => vs (.arith .max false) d a b m p anyTags
  | .vdivUVs d a b m p => vs (.arith .div true) d a b m p anyTags
  | .vfmaVs d a b m p =>
    some ⟨.v d, .arith .fma false, some (tagOf d), [(a, m), (d, true)], p, some b, [d, a], anyTags⟩
  | .vandVs d a b m p => vs (.logic .and) d a b m p (logic1 d)
  | .vorVs d a b m p => vs (.logic .or) d a b m p (logic1 d)
  | .vxorVs d a b m p => vs (.logic .xor) d a b m p (logic1 d)
  | .vshlVs d a b m p => vs (.logic .shl) d a b m p (logic1 d)
  | .vshrVs d a b m p => vs (.logic .shrArith) d a b m p (logic1 d)
  | .vshrUVs d a b m p => vs (.logic .shrLogical) d a b m p (logic1 d)
  | .vsplat d b p => some ⟨.v d, .splat, some (tagOf d), [], p, some b, [d], anyTags⟩
  | .viota d b p => some ⟨.v d, .iota, some (tagOf d), [], p, some b, [d], anyTags⟩
  | .vcmp u k a b m n p r => some ⟨.k k, .cmp r u, none, [(a, m), (b, n)], p, none, [a, b],
      fun ts => u && someFloat 2 ts⟩
  | .vscan d a o m p => one (.scan o) d a m p fun ts => intOperator o && someFloat 1 ts
  | .vcomp d a m p => one .comp d a m p anyTags
  | .vexpd d a m p => one .expd d a m p anyTags
  | .vperm d a b m n p => two .perm d a b m n p fun ts => (ts.drop 1).any fun t => !isInt t
  | _ => none

/-- A predicate names a mask node, or k0, true everywhere, none (06_forme.md R88). -/
def PredicateIs (s : State) (p : PReg) (n : Option Nat) : Prop :=
  (p = 0 ∧ n = none) ∨ (p ≠ 0 ∧ ∃ x, n = some x ∧ s.me.vec.k.get (p.setWidth 4 : KReg).toFin = .node x)

/-- The node that is appended next, at the hart's VL and FRM and with the instruction as its blame (06_forme.md R88). -/
def newNode (s : State) (op : NodeOp) (tag : Option Tag) (srcs : List Edge) (pred : Option Nat) (scalar : Option Word)
    (pos : Nat) : Node where
  id := s.nextNode
  op := op
  tag := tag
  len := s.me.cr.vl
  srcs := srcs
  pred := pred.map fun n => { node := n, chain := true }
  frm := s.me.cr.frm
  scalar := scalar
  blame := s.me.pc
  pos := pos
  detached := false
  released := false
  seq := s.nextNode

/-- The vector state with a node appended and named by its destination, and every node that nothing keeps collected
(06_forme.md R99). -/
def appendedVec (v : VecState) (d : Dest) (n : Node) : VecState :=
  let w : VecState := { v with forme := v.forme ++ [n] }
  collect (match d with
    | .v r => { w with v := w.v.set r.toFin { (w.v.get r.toFin) with state := .node n.id } }
    | .k r => { w with k := w.k.set r.toFin (.node n.id) })

/-- The state after the append. -/
def appended (s : State) (d : Dest) (n : Node) : State :=
  { s with me := { s.me with vec := appendedVec s.me.vec d n }, nextNode := s.nextNode + 1 }

/-- The node fits: a leaf's range meets no pending sink and the interlock table has an entry for it, and the forme stays
within NV nodes (R99; 08_faults.md R117, R118). -/
def NodeFits (s : State) (d : Dest) (n : Node) : Prop :=
  (∀ r, leafRange s.me.vec n = some r → meetsSink s.me.vec r = false
      ∧ tableEntries (appendedVec s.me.vec d n) + 2 * s.me.copies.length ≤ 64)
    ∧ (appendedVec s.me.vec d n).forme.length ≤ s.me.cr.nv

/-! ### Sinks -/

/-- The sink that is appended next (R91). -/
def newSink (s : State) (op : SinkOp) (node : Nat) (chain : Bool) (pred : Option Nat) (pos : Nat) : Sink where
  op := op
  node := node
  chain := chain
  pred := pred
  pc := s.me.pc
  sl := s.me.cr.sl
  frm := s.me.cr.frm
  pos := pos
  detached := false
  seq := s.nextNode
  signal := (s.me.tok.bind tokSignal).map queueOf

/-- A sink may be appended: its nodes have its length, the galley has room, the table has an entry for a store, and its
range meets no leaf of the pass it joins (R92; 08_faults.md R118, R123). -/
def SinkFits (s : State) (g : Sink) : Prop :=
  (∀ n ∈ s.me.vec.forme, n.id ∈ reachFrom s.me.vec.forme g.seeds → n.len = sinkLen s.me.vec g)
    ∧ s.me.vec.galley.length < 8
    ∧ (∀ r, sinkRange s.me.vec g = some r → tableEntries s.me.vec + 2 * s.me.copies.length < 64
        ∧ ∀ n ∈ s.me.vec.forme, n.isLeaf = true → ∀ x, leafRange s.me.vec n = some x → r.meets x = false)

/-- The state with a sink appended, its destination pending. -/
def sunk (s : State) (g : Sink) (dst : Option (Fin 136)) : State :=
  { s with
    nextNode := s.nextNode + 1
    me := { s.me with
      vec := { s.me.vec with galley := s.me.vec.galley ++ [g] }
      pend := match dst with
        | none => s.me.pend
        | some p => s.me.pend.set p true } }

/-- The physical scalar of a sink's destination; s0 is discarded (R93). -/
def destination (h : Hart) (r : SReg) : Option (Fin 136) := if r = 0 then none else some (h.phys r)

/-- The gate of an instruction whose queue depends on the mode, in pass mode (03_formats.md R41, R44). -/
def passSide (scalars : List SReg) (vregs : List VReg) (mode : Option Bool) : Gate :=
  { queue := .v, miller := false, passQueue := true, tokAtIssue := true, mode := mode, scalars := scalars,
    vregs := vregs.map BitVec.toNat }

/-- The same in matrix mode. -/
def matrixSide (scalars : List SReg) (vregs : List VReg) : Gate :=
  { queue := .m, miller := false, tokAtIssue := true, scalars := scalars, vregs := vregs.map BitVec.toNat }

/-- The operation and registers of the mask instructions of two sources, or of one twice. -/
def maskSpec (i : Instr) : Option (MaskOp × KReg × List KReg) :=
  match i with
  | .kand d a b => some (.and, d, [a, b])
  | .kor d a b => some (.or, d, [a, b])
  | .kxor d a b => some (.xor, d, [a, b])
  | .knot d a => some (.not, d, [a])
  | .ksbf d a => some (.sbf, d, [a])
  | .ksif d a => some (.sif, d, [a])
  | _ => none

/-- The mask that a register holds in matrix mode: k0 is true everywhere (09_control.md R133). -/
def heldMask (s : State) (k : KReg) : Option (BitVec 2048) :=
  if k = 0 then some (BitVec.allOnes 2048)
  else
    match s.me.vec.k.get k.toFin with
    | .material m => some m
    | _ => none

/-- The smallest true position of a mask below n, or n (R130, R133). -/
def firstSet (m : BitVec 2048) (n : Nat) : Nat := ((List.range n).find? fun j => m.getLsbD j).getD n

/-- Position j of what a mask operation makes of whole masks (R130, R133). -/
def maskBit (op : MaskOp) (ms : List (BitVec 2048)) (j : Nat) : Bool :=
  let a := ms.getD 0 0
  let b := ms.getD 1 0
  match op with
  | .and => a.getLsbD j && b.getLsbD j
  | .or => a.getLsbD j || b.getLsbD j
  | .xor => a.getLsbD j != b.getLsbD j
  | .not => !a.getLsbD j
  | .sbf => decide (j < firstSet a 2048)
  | .sif => decide (j ≤ firstSet a 2048)

/-- The count of a mask over positions 0 to n − 1 (R131, R133). -/
def maskCount (op : CountOp) (m : BitVec 2048) (n : Nat) : Word :=
  match op with
  | .pop => BitVec.ofNat 64 ((List.range n).filter fun j => m.getLsbD j).length
  | .first => if firstSet m n = n then BitVec.allOnes 64 else BitVec.ofNat 64 (firstSet m n)
  | .tail => if n ≠ 0 ∧ m.getLsbD (n - 1) = true then 1 else 0

/-- The operation, mask and destination of a count. -/
def countSpec (i : Instr) : Option (CountOp × KReg × SReg) :=
  match i with
  | .kpop a d => some (.pop, a, d)
  | .kfirst a d => some (.first, a, d)
  | .ktail a d => some (.tail, a, d)
  | _ => none

/-- A sequence of bytes of the hart may be read at an address (08_faults.md R117; 14_traps.md R218). -/
def MayReadSpan (s : State) (va : Word) (n : Nat) (s1 : State) (ps : List Piece) : Prop :=
  s.pieces va n .read = .ok (s1, ps) ∧ s1.watchOwn va.toNat n .read = [] ∧ ReadFree s1 (rangeOf va n)
    ∧ s1.piecesHeld ps = false

/-- A sequence of bytes of the hart may be written at an address. -/
def MayWriteSpan (s : State) (va : Word) (n : Nat) (s1 : State) (ps : List Piece) : Prop :=
  s.pieces va n .write = .ok (s1, ps) ∧ s1.watchOwn va.toNat n .write = [] ∧ WriteFree s1 (rangeOf va n)
    ∧ s1.piecesHeld ps = false ∧ s1.piecesFit ps = true

/-- The mask that KST stores: k0's is all true, a register's its MATERIAL mask or the one that KLD gave its node
(09_control.md R132). -/
def StoredMask (s : State) (k : KReg) (m : BitVec 2048) : Prop :=
  (k = 0 ∧ m = BitVec.allOnes 2048)
    ∨ (k ≠ 0 ∧ (s.me.vec.k.get k.toFin = .material m
      ∨ ∃ n x, s.me.vec.k.get k.toFin = .node n ∧ findNode s.me.vec.forme n = some x ∧ x.op = .kld m))

end Sys2Proof.Claims

/-- The 45 instructions that append a node: with sources that name nodes, tags they accept and room for the node, each
appends its node, at the hart's VL, and names it in its destination. -/
def Obligations.NodeAppended : Prop :=
  ∀ (i : Instr) (s : State) (x : NodeSpec) (ns : List Nat) (pr : Option Nat),
    nodeSpec i s.regTag = some x → Ready (passGate x.scalar.toList x.vregs) s →
    x.srcs.map (fun y => (s.me.vec.v.get y.1.toFin).state) = ns.map RegState.node → PredicateIs s x.pred pr →
    x.refused (ns.map s.nodeTag) = false →
    let n := newNode s x.op x.tag ((x.srcs.zip ns).map fun y => { node := y.2, chain := y.1.2 }) pr (x.scalar.map s.me.reg) 0
    NodeFits s x.dst n → Retires .v i s (appended s x.dst n)

/-- The instructions that append a node raise TAGERR at the append where they refuse the tags of their sources, and change
nothing; a source register that is EMPTY makes them ILLEGAL, and one that is STALE raises STALE with EVA its number and FBLAME
the pc that made it so (04_registers.md R61; 08_faults.md R122), for the first source that does not name a node. A sink whose
nodes do not all have its length raises LENERR, and one that finds eight pending runs the pass first. -/
def Obligations.AppendErrors : Prop :=
  (∀ (i : Instr) (s : State) (x : NodeSpec) (ns : List Nat) (pr : Option Nat),
      nodeSpec i s.regTag = some x → Issues (passGate x.scalar.toList x.vregs) s →
      x.srcs.map (fun y => (s.me.vec.v.get y.1.toFin).state) = ns.map RegState.node → PredicateIs s x.pred pr →
      x.refused (ns.map s.nodeTag) = true → exec i s = .next (s.takeTrap s .tagerr 0))
    ∧ (∀ (i : Instr) (s : State) (x : NodeSpec) (y : VReg × Bool) (before rest : List (VReg × Bool)),
      nodeSpec i s.regTag = some x → Issues (passGate x.scalar.toList x.vregs) s → x.srcs = before ++ y :: rest →
      (∀ z ∈ before, ∃ n, (s.me.vec.v.get z.1.toFin).state = .node n) → s.me.passedChecks = false →
      ((s.me.vec.v.get y.1.toFin).state = .empty → exec i s = .next (s.takeTrap s .illegal 0))
        ∧ (∀ n w, (s.me.vec.v.get y.1.toFin).state = .stale n w → exec i s = .next (s.takeTrap
          (s.setCr fun c => { c with fblame := w &&& span 55 2, felem := 0 }) .stale (BitVec.ofNat 64 y.1.toNat))))
    ∧ (∀ (s : State) (g : Sink),
      ((∃ n ∈ s.me.vec.forme, n.id ∈ reachFrom s.me.vec.forme g.seeds ∧ n.len ≠ sinkLen s.me.vec g) →
          s.appendSink g = .error (.trap s .lenerr 0))
        ∧ ((∀ n ∈ s.me.vec.forme, n.id ∈ reachFrom s.me.vec.forme g.seeds → n.len = sinkLen s.me.vec g) →
          8 ≤ s.me.vec.galley.length → s.appendSink g = .error (.demandLate s)))

/-- VLD, VLDFF and VLDX in pass mode append a leaf on their stream from its START, with the descriptor as it is and the
effective order; VLDX with an index node of an integer tag on a one-dimensional stream. The mask instructions append a mask
node over the nodes of their sources, k0 giving none. -/
def Obligations.LeafAndMaskAppended : Prop :=
  (∀ (v : VReg) (q : QReg) (c o : Bool) (p : PReg) (s : State) (pr : Option Nat), s.me.vec.matrix = false →
      PredicateIs s p pr →
      let d := s.me.vec.q.get q.toFin
      let n (uno cuts : Bool) := newNode s (.leaf q d uno cuts) (some (s.regTag v)) [] pr none (dStart d)
      (Ready (passSide [] [v] none) s → NodeFits s (.v v) (n (dUno d || o) false) →
          Retires .v (.vld v q c p o) s (appended s (.v v) (n (dUno d || o) false)))
        ∧ (Ready (passSide [] [v] (some false)) s → NodeFits s (.v v) (n (dUno d) true) →
          Retires .v (.vldff v q c p) s (appended s (.v v) (n (dUno d) true))))
    ∧ (∀ (v : VReg) (q : QReg) (i : VReg) (c o : Bool) (p : PReg) (s : State) (pr : Option Nat) (x : Nat),
      s.me.vec.matrix = false → Ready (passSide [] [v, i] (some false)) s → PredicateIs s p pr →
      (s.me.vec.v.get i.toFin).state = .node x → isInt (s.nodeTag x) = true → dDims (s.me.vec.q.get q.toFin) = 0 →
      let d := s.me.vec.q.get q.toFin
      let n := newNode s (.leaf q d (dUno d || o) false) (some (s.regTag v)) [{ node := x, chain := c }] pr none (dStart d)
      NodeFits s (.v v) n → Retires .v (.vldx v q i c p o) s (appended s (.v v) n))
    ∧ (∀ (i : Instr) (op : MaskOp) (d : KReg) (ks : List KReg) (s : State) (ns : List Nat), maskSpec i = some (op, d, ks) →
      s.me.vec.matrix = false → Ready (passSide [] [] none) s →
      (ks.filter fun k => decide (k ≠ 0)).map (fun k => s.me.vec.k.get k.toFin) = ns.map RegState.node →
      let n := newNode s (.mask op) none (ns.map fun x => { node := x, chain := true }) none none 0
      NodeFits s (.k d) n → Retires .v i s (appended s (.k d) n))

/-- In matrix mode VCMP raises MODE; the mask instructions make kd MATERIAL over all 2,048 positions; the counts write s when
they retire, over positions 0 to VL − 1, and leave nothing pending; an EMPTY source raises ILLEGAL. -/
def Obligations.MatrixMasks : Prop :=
  (∀ (u m n : Bool) (k : KReg) (a b : VReg) (p : PReg) (r : VRel) (s : State), s.me.vec.matrix = true →
      s.me.miller = false → s.me.tokUnsound = false → s.me.tokBad .v = false → s.me.ext = none →
      exec (.vcmp u k a b m n p r) s = .next (s.takeTrap s .mode 0))
    ∧ (∀ (i : Instr) (op : MaskOp) (d : KReg) (ks : List KReg) (s : State), maskSpec i = some (op, d, ks) →
      s.me.vec.matrix = true → Issues (matrixSide [] []) s →
      (∀ ms : List (BitVec 2048), ks.map (heldMask s) = ms.map some → s.me.signalBlocked .m = false →
        ∃ m : BitVec 2048, (∀ j, j < 2048 → m.getLsbD j = maskBit op ms j)
          ∧ Retires .m i s ((s.setVec { s.me.vec with k := s.me.vec.k.set d.toFin (.material m) }).noteWriter (matK d)))
        ∧ ((∃ k ∈ ks, k ≠ 0 ∧ s.me.vec.k.get k.toFin = .empty) → (∀ k ∈ ks, heldMask s k = none → s.me.vec.k.get k.toFin = .empty) →
          exec i s = .next (s.takeTrap s .illegal 0)))
    ∧ (∀ (i : Instr) (op : CountOp) (k : KReg) (d : SReg) (s : State), countSpec i = some (op, k, d) →
      s.me.vec.matrix = true → Issues (matrixSide [d] []) s →
      (∀ m : BitVec 2048, heldMask s k = some m → s.me.signalBlocked .m = false → Retires .m i s (s.setReg d (maskCount op m s.me.cr.vl))
          ∧ (s.setReg d (maskCount op m s.me.cr.vl)).me.pend = s.me.pend)
        ∧ (k ≠ 0 → s.me.vec.k.get k.toFin = .empty → exec i s = .next (s.takeTrap s .illegal 0)))

/-- VST, VSTX, VRED and, on a mask node, KPOP, KFIRST and KTAIL append their sinks in pass mode; the unit retires and its
token is given later; the scalar of a reduction or count becomes pending, s0 discarding it. A count of k0 writes its
scalar at once. -/
def Obligations.SinkAppended : Prop :=
  (∀ (v : VReg) (q : QReg) (c o : Bool) (p : PReg) (s : State) (pr : Option Nat) (n : Nat), s.me.vec.matrix = false →
      PredicateIs s p pr → (s.me.vec.v.get v.toFin).state = .node n →
      let d := s.me.vec.q.get q.toFin
      let g := newSink s (.store q d (dUno d || o) none) n c pr (dStart d)
      Issues (passSide [] [v] none) s → (dFmt d = .d8s → dStart d % 31 = 0) → SinkFits s g →
      exec (.vst v q c p o) s = .next (retire .v s (sunk s g none) false))
    ∧ (∀ (v : VReg) (q : QReg) (i : VReg) (c o : Bool) (p : PReg) (s : State) (pr : Option Nat) (n x : Nat),
      s.me.vec.matrix = false → PredicateIs s p pr → (s.me.vec.v.get v.toFin).state = .node n →
      (s.me.vec.v.get i.toFin).state = .node x → isInt (s.nodeTag x) = true →
      let d := s.me.vec.q.get q.toFin
      let g := newSink s (.store q d (dUno d || o) (some x)) n c pr (dStart d)
      Issues (passSide [] [v, i] (some false)) s → dDims d = 0 → dFmt d ≠ .d8s → SinkFits s g →
      exec (.vstx v q i c p o) s = .next (retire .v s (sunk s g none) false))
    ∧ (∀ (d : SReg) (a : VReg) (op : RedOp) (m : Bool) (p : PReg) (s : State) (pr : Option Nat) (n : Nat),
      PredicateIs s p pr → (s.me.vec.v.get a.toFin).state = .node n → (intOperator op = true → isInt (s.nodeTag n) = true) →
      let g := newSink s (.red op s.me.cr.lam (destination s.me d)) n m pr 0
      Issues (passGate [d] [a]) s → SinkFits s g →
      exec (.vred d a op m p) s = .next (retire .v s (sunk s g (destination s.me d)) false))
    ∧ (∀ (i : Instr) (op : CountOp) (k : KReg) (d : SReg) (s : State), countSpec i = some (op, k, d) →
      s.me.vec.matrix = false →
      (∀ n, k ≠ 0 → s.me.vec.k.get k.toFin = .node n → Issues (passSide [d] [] none) s →
        let g := newSink s (.count op (destination s.me d)) n true none 0
        SinkFits s g → exec i s = .next (retire .v s (sunk s g (destination s.me d)) false))
        ∧ (k = 0 → Ready (passSide [d] [] none) s → Retires .v i s (s.setReg d (match op with
          | .pop => BitVec.ofNat 64 s.me.cr.vl
          | .first => if s.me.cr.vl = 0 then BitVec.allOnes 64 else 0
          | .tail => if s.me.cr.vl = 0 then 0 else 1))))

/-- KLD reads 256 bytes at its address, by aligned doublewords, into a mask: MATERIAL in matrix mode, a node in pass mode; KST
writes the bits of its mask at its address so too. Where the new node is one too many for the forme, the pass runs before
anything is read. Both need an address that is a multiple of 8. -/
def Obligations.MaskMemory : Prop :=
  (∀ (d : KReg) (b : SReg) (s s1 : State) (ps : List Piece),
      let va := s.me.reg b
      let u := (State.readPieces (dwordPieces ps) s1).1.watchNote .hart .read ps
      let m := BitVec.ofNat 2048 (valueOf (State.readPieces (dwordPieces ps) s1).2)
      va.toNat % 8 = 0 → MayReadSpan s va 256 s1 ps →
      (s.me.vec.matrix = true → Ready (matrixSide [b] []) s → u.me.vec.matrix = true →
          Retires .m (.kld d b) s ((u.setVec { u.me.vec with k := u.me.vec.k.set d.toFin (.material m) }).noteWriter (matK d)))
        ∧ (s.me.vec.matrix = false → Ready (passSide [b] [] none) s → u.me.vec.matrix = false →
          NodeFits u (.k d) (newNode u (.kld m) none [] none none 0) →
          Retires .v (.kld d b) s (appended u (.k d) (newNode u (.kld m) none [] none none 0)))
        ∧ (s.me.vec.matrix = false → Issues (passSide [b] [] none) s → s1.wouldRun = true →
          s1.me.cr.nv < (appendedVec s1.me.vec (.k d) (newNode s1 (.kld 0) none [] none none 0)).forme.length →
          exec (.kld d b) s = .next ((s.takeIssued .v).startPass true)))
    ∧ (∀ (a : KReg) (b : SReg) (s s1 s2 : State) (qs ps : List Piece) (m : BitVec 2048),
      let va := s.me.reg b
      let u := ((State.writePieces (dwordPieces ps) (leBytes 256 m.toNat) s2).spoil (rangeOf va 256) s2.me.pc).watchNote .hart .write ps
      va.toNat % 8 = 0 → s.pieces va 256 .write = .ok (s1, qs) → StoredMask s1 a m → MayWriteSpan s1 va 256 s2 ps →
      (s.me.vec.matrix = true → Ready (matrixSide [b] []) s → Retires .m (.kst a b) s u)
        ∧ (s.me.vec.matrix = false → Ready (passSide [b] [] none) s → Retires .v (.kst a b) s u))
    ∧ (∀ (d : KReg) (b : SReg) (s : State), (s.me.reg b).toNat % 8 ≠ 0 →
      (s.me.vec.matrix = true → Issues (matrixSide [b] []) s →
          exec (.kld d b) s = .next (s.takeTrap s .misalign (s.me.reg b))
            ∧ exec (.kst d b) s = .next (s.takeTrap s .misalign (s.me.reg b)))
        ∧ (s.me.vec.matrix = false → Issues (passSide [b] [] none) s →
          exec (.kld d b) s = .next (s.takeTrap s .misalign (s.me.reg b))
            ∧ exec (.kst d b) s = .next (s.takeTrap s .misalign (s.me.reg b))))

namespace Sys2Proof.Claims

/-! ### Matrix mode -/

/-- Every register EMPTY, and the nodes that nothing keeps collected (10_matrix.md R143, R144). -/
def emptyRegs (v : VecState) : VecState :=
  collect { v with v := v.v.map fun r => { r with state := .empty }, k := Vector.replicate 16 .empty }

/-- M and N of MSHAPE (04_registers.md R70). -/
def mOf (s : State) : Nat := s.me.cr.mshape.toNat % 32
def nOf (s : State) : Nat := s.me.cr.mshape.toNat / 256 % 1024

/-- The gate of a matrix-queue instruction. -/
def mGate (scalars : List SReg) (vregs : List Nat) (mode : Option Bool) : Gate :=
  { queue := .m, miller := false, mode := mode, scalars := scalars, vregs := vregs }

/-- The state in matrix mode with n tiles held (R143). -/
def inMatrix (s : State) (n : Nat) (tiles : List (Nat × BitVec 32)) : State :=
  { s with me := { s.me with
    vec := { emptyRegs s.me.vec with matrix := true, savedVl := s.me.cr.vl, tileCount := n, tiles := tiles }
    cr := { s.me.cr with vl := nOf s } } }

/-- The state after MMODE.OFF (R143, R144). -/
def outOfMatrix (s : State) : State :=
  { s with me := { s.me with
    vec := { emptyRegs s.me.vec with matrix := false }
    cr := { s.me.cr with vl := s.me.vec.savedVl } } }

/-- The pairs that output i, j of MMA sums, over the eight B registers from b on (R149). -/
def mmaTerms (s : State) (a : VReg) (b : Nat) (x : BitVec 2048) (ys : List (BitVec 2048)) (i j : Nat) : List (XVal × XVal) :=
  (List.range 8).map fun k =>
    ((packElem (s.regTag a) x (8 * i + k)).val false, (packElem (s.tagNum (b + k)) (ys.getD k 0) j).val false)

/-- An exact value that is finite. -/
def finite : XVal → Bool
  | .num .. => true
  | _ => false

/-- The pairs that output i, j of MMAS sums (R151, R152): the l-th set position p of the mask's row takes element l of row i
of A with B register p; a position that is not set adds zero times its finite element, which only the sign of a zero can
show, and nothing of one that is not finite; a row without a set position has no terms. -/
def mmasPairs (s : State) (a : VReg) (b : Nat) (x km : BitVec 2048) (ys : List (BitVec 2048)) (i j : Nat) :
    List (XVal × XVal) :=
  let set (p : Nat) : Bool := km.getLsbD (16 * i + p)
  let y (p : Nat) : XVal := (packElem (s.tagNum (b + p)) (ys.getD p 0) j).val false
  if (List.range 16).all fun p => !set p then []
  else (List.range 16).flatMap fun p =>
    if set p then [((packElem (s.regTag a) x (8 * i + (List.range p).countP set)).val false, y p)]
    else if finite (y p) then [(.num false 0 1, y p)]
    else []

/-- The exact sum of exact products, and the flags of invalid products and sums (R149). The order of the sum, which decides
the flags of an invalid one and the sign of a zero, is the model's choice (log 33). -/
def exactDot (mode : RMode) (x : XVal × XVal) (xs : List (XVal × XVal)) : XVal × FlagSet :=
  xs.foldl (fun a y => ((xAdd mode a.1 (xMul y.1 y.2).1).1,
    a.2 ||| (xMul y.1 y.2).2 ||| (xAdd mode a.1 (xMul y.1 y.2).1).2)) (xMul x.1 x.2)

/-- An output and its flags (R149, R152): the old value plus the sum, the sum, or the old value less the sum, exact and then
rounded once to F32; no terms give +0 or leave the old value. -/
def outputOf (mode : RMode) (how : MmaAcc) (z : BitVec 32) (terms : List (XVal × XVal)) : Nat × FlagSet :=
  match terms with
  | [] => (if how = .ovw then 0 else z.toNat, 0)
  | x :: xs =>
    let d := exactDot mode x xs
    let old := fmtF32.decode z.toNat
    let y : XVal × FlagSet := match how with
      | .acc => xAdd mode old d.1
      | .ovw => (d.1, 0)
      | .neg => xAdd mode old d.1.negate
    let r := fmtF32.round mode y.1
    (r.1, d.2 ||| y.2 ||| r.2)

/-- The output at row i and column j of tile z. -/
def outputAt (s : State) (z : Nat) (how : MmaAcc) (terms : Nat → Nat → List (XVal × XVal)) (i j : Nat) : Nat × FlagSet :=
  outputOf (rmodeOf s.me.cr.frm) how (tileGet s.me.vec.tiles (4096 * z + 256 * i + j)) (terms i j)

/-- A product's tiles: the corner M by N of tile z takes the outputs, every other position stays (R149, R151). -/
def CornerIs (s : State) (z : Nat) (how : MmaAcc) (terms : Nat → Nat → List (XVal × XVal)) (t : List (Nat × BitVec 32)) :
    Prop :=
  (∀ i j, i < mOf s → j < nOf s →
      tileGet t (4096 * z + 256 * i + j) = BitVec.ofNat 32 (outputAt s z how terms i j).1)
    ∧ (∀ k, (∀ i j, i < mOf s → j < nOf s → k ≠ 4096 * z + 256 * i + j) → tileGet t k = tileGet s.me.vec.tiles k)

/-- The flags of every output of the corner (R149). -/
def cornerFlags (s : State) (z : Nat) (how : MmaAcc) (terms : Nat → Nat → List (XVal × XVal)) : FlagSet :=
  ((List.range (mOf s)).flatMap fun i => (List.range (nOf s)).map fun j => (outputAt s z how terms i j).2).foldl
    (fun f g => f ||| g) 0

/-- The tiles are listed with rising keys. -/
def TilesRising (t : List (Nat × BitVec 32)) : Prop := t.Pairwise fun a b => a.1 < b.1

/-- The shape registers hold a shape that R147 allows. -/
def ShapeFits (s : State) : Prop := 1 ≤ mOf s ∧ mOf s ≤ 16 ∧ 1 ≤ nOf s ∧ nOf s ≤ 256

/-- The B registers from b on are MATERIAL with these data. -/
def Rows (s : State) (b n : Nat) (ys : List (BitVec 2048)) : Prop :=
  ys.length = n ∧ ∀ k, k < n → (s.me.vec.v.get (BitVec.ofNat 6 (b + k)).toFin).state = .material (ys.getD k 0)

/-- The tags that a product takes: A's BF16, D8 or F32 of at most 8 rows, B's floating with room for N (R149). -/
def TagsFit (s : State) (a : VReg) (b n : Nat) : Prop :=
  (s.regTag a = .bf16 ∨ s.regTag a = .d8 ∨ s.regTag a = .f32) ∧ (s.regTag a = .f32 → mOf s ≤ 8)
    ∧ ∀ k, k < n → isInt (s.tagNum (b + k)) = false ∧ nOf s ≤ capacity (s.tagNum (b + k))

/-- The addresses of the corner of a tile transfer with their keys (R153). -/
def cornerCells (s : State) (z : ZReg) (b st : Word) : List (Nat × Int) :=
  (List.range (mOf s)).flatMap fun m => (List.range (nOf s)).map fun n =>
    (4096 * z.toNat + 256 * m + n, (b + BitVec.ofNat 64 m * st + BitVec.ofNat 64 (4 * n)).toInt)

/-- No copy in flight of the hart meets the pieces (08_faults.md R117). -/
def CopiesApart (s : State) (ps : List Piece) (write : Bool) : Prop :=
  ∀ p ∈ ps, s.me.copyWrites (rangeOf (BitVec.ofNat 64 p.1) p.2.2) = false
    ∧ (write = true → s.me.copyReads (rangeOf (BitVec.ofNat 64 p.1) p.2.2) = false)

/-- The mask of a matrix-mode access: k0 is all true, and another names a MATERIAL mask (R148). -/
def MatrixMask (s : State) (p : PReg) (m : BitVec 2048) : Prop :=
  (p = 0 ∧ m = BitVec.allOnes 2048) ∨ (p ≠ 0 ∧ s.me.vec.k.get (p.setWidth 4 : KReg).toFin = .material m)

/-- No watchpoint of the hart stops an access of located elements, and no other provisional hart owns a place of it. -/
def ElementsFree (s : State) (ps : List (Option (List Piece))) (k : Kind) : Prop :=
  (∀ x ∈ flatPieces ps, s.watchOwn x.1 x.2.2 k = []) ∧ s.piecesHeld (flatPieces ps) = false

/-- Element j of a register of a tag other than D8S (R148). -/
def elementBits (t : Tag) (x : BitVec 2048) (j : Nat) : Nat := x.toNat / 2 ^ (8 * tagBytes t * j) % 2 ^ (8 * tagBytes t)

/-- The element that the bytes of a position of a stream hold: a D8S one's scale lies above its code (R79). -/
def streamElem (f : Tag) (c : Nat) : Elem :=
  if f = .d8s then ⟨f, c % 256, (BitVec.ofNat 8 (c / 256)).toInt⟩ else ⟨f, c % 2 ^ (8 * tagBytes f), 0⟩

/-- The integer that an element holds, unsigned or in two's complement, at the width of its own tag (04_registers.md R58). -/
def elemInt (a : Elem) (uns : Bool) : Int :=
  let w := 8 * tagBytes a.tag
  let x := a.bits % 2 ^ w
  if uns || decide (2 * x < 2 ^ w) then x else (x : Int) - 2 ^ w

/-- The bits and flags of an element that a load or a store converts into a tag other than D8S (R105, R62, R74, R75):
between integers the low bits, integer overflow where the value changes; from a float to an integer rounded and saturated;
into a float rounded once. -/
def converted (t : Tag) (mode : RMode) (a : Elem) : Nat × FlagSet :=
  match t with
  | .f32 => fmtF32.round mode (a.val false)
  | .bf16 => fmtBf16.round mode (a.val false)
  | .d8 | .d8s => d8Encode mode (a.val false)
  | t =>
    if isInt a.tag then
      let b := (elemInt a false % 2 ^ (8 * tagBytes t)).toNat
      (b, if elemInt ⟨t, b, 0⟩ false = elemInt a false then 0 else fIntOverflow)
    else roundToInt mode (8 * tagBytes t) false (a.val false)

/-- The code of an element in a D8S block, and its flags: its own where it moves unchanged, else its value over the block's
scale encoded (R79, R80). -/
def blockCode (keep : Bool) (mode : RMode) (scale : Int) (a : Elem) : Nat × FlagSet :=
  if keep then (a.bits, 0) else d8Encode mode (xScale10 (-scale) (a.val false))

/-- The flags of elements. -/
def orFlags (fs : List FlagSet) : FlagSet := fs.foldl (fun f g => f ||| g) 0

/-- Byte i of a register. -/
def byteOf (x : BitVec 2048) (i : Nat) : Nat := x.toNat / 2 ^ (8 * i) % 256

/-- A register of a tag holds elements, absent positions as zeros: conversions into the tag, or D8S blocks of 31 with their
scale bytes, which keep the stream's codes and the first element's scale where the stream is D8S too (R148, R80; log 27). -/
def Loaded (t : Tag) (keep : Bool) (mode : RMode) (es : List (Option Elem)) (x : BitVec 2048) (f : FlagSet) : Prop :=
  (t ≠ .d8s → (∀ j, j < capacity t → elementBits t x j = (((es.getD j none).map fun a => (converted t mode a).1).getD 0))
      ∧ f = orFlags (es.map fun e => (e.map fun a => (converted t mode a).2).getD 0))
    ∧ (t = .d8s →
      let scale (b : Nat) : Int :=
        let vs := ((es.drop (31 * b)).take 31).filterMap id
        if keep then (vs.head?.map Elem.scale).getD 0 else blockScale (vs.map fun a => a.val false)
      (∀ b, b < 8 → byteOf x (32 * b) = (BitVec.ofInt 8 (scale b)).toNat)
        ∧ (∀ j, j < 248 → byteOf x (32 * (j / 31) + 1 + j % 31)
          = (((es.getD j none).map fun a => (blockCode keep mode (scale (j / 31)) a).1).getD 0))
        ∧ f = orFlags (es.mapIdx fun j e => (e.map fun a => (blockCode keep mode (scale (j / 31)) a).2).getD 0))

/-- The items and bytes that a store writes to a stream other than D8S, and its flags (R148, R105). -/
def PlainStores (d : BitVec 256) (mode : RMode) (es : List (Option Elem))
    (ws : List (Option ((Int × Nat) × List Byte))) (f : FlagSet) : Prop :=
  let n := tagBytes (dFmt d)
  ws = es.mapIdx (fun j e => e.map fun a =>
      ((streamAddr d ((dStart d + j) % 2 ^ 40), n), leBytes n (converted (dFmt d) mode a).1))
    ∧ f = orFlags (es.map fun e => (e.map fun a => (converted (dFmt d) mode a).2).getD 0)

/-- The 32-byte blocks that a store writes to a D8S stream, and its flags (R148, R79, R80): one for each run of positions of
one block; a position of the block outside the run, or inactive, has the code 0x00 (log 27). A D8S register's codes move
unchanged with the scale of its own block. -/
def BlockStores (d : BitVec 256) (mode : RMode) (t : Tag) (x : BitVec 2048) (es : List (Option Elem))
    (ws : List (Option ((Int × Nat) × List Byte))) (f : FlagSet) : Prop :=
  let runs := blockRuns d (es.length + 1) 0 es.length
  let scale (r : Nat × Nat) : Int :=
    if t = .d8s then (BitVec.ofNat 8 (byteOf x (32 * (r.1 / 31)))).toInt
    else blockScale ((((es.drop r.1).take r.2).filterMap id).map fun a => a.val false)
  let code (r : Nat × Nat) (e : Option Elem) : Nat × FlagSet :=
    (e.map (blockCode (t == .d8s) mode (scale r))).getD (0, 0)
  ws = runs.map (fun r =>
      let p := (dStart d + r.1) % 2 ^ 40
      some ((scaleAddr d p, 32), BitVec.ofInt 8 (scale r) :: (List.range 31).map fun k =>
        let o := colOf d p % 31
        BitVec.ofNat 8 (if o ≤ k ∧ k < o + r.2 then (code r (es.getD (r.1 + (k - o)) none)).1 else 0)))
    ∧ f = orFlags (runs.flatMap fun r => ((es.drop r.1).take r.2).map fun e => (code r e).2)

/-! ### Engines -/

/-- The gate of a bond instruction (11_bond.md R157). -/
def bGate (scalars : List SReg) : Gate := { queue := .b, miller := false, mode := some false, scalars := scalars }

/-- The boundary buffer lies inside the local scratchpad window (R159). -/
def BufferInside (s : State) : Prop :=
  0x0070000000000000 ≤ s.me.cr.bndbuf.toNat ∧ s.me.cr.bndbuf.toNat + s.me.cr.bndsize.toNat ≤ 0x0070000000080000

/-- The interlock table has room for k entries (08_faults.md R118). -/
def EntriesFit (s : State) (k : Nat) : Prop := tableEntries s.me.vec + 2 * s.me.copies.length + k ≤ 64

/-- The product of entries lo to hi, 1 where there are none (R155). -/
def prodOf (f : Nat → Nat) (lo hi : Nat) : Nat := ((List.range (hi + 1 - lo)).map fun i => f (lo + i)).prod

/-- The exact value of element i of a core image (R155, R159). -/
def coreValue (t : Tag) (bs : List Byte) (i : Nat) : XVal :=
  let byte (j : Nat) : Nat := (bs.getD j 0).toNat
  match t with
  | .bf16 => fmtBf16.decode (byte (2 * i) + 256 * byte (2 * i + 1))
  | .d8s =>
    let c := byte (32 * (i / 31))
    xScale10 (if c < 128 then c else (c : Int) - 256) (d8Decode (byte (32 * (i / 31) + 1 + i % 31)))
  | _ => d8Decode (byte i)

/-- The bytes of an image's elements, through the last element's (R155, R164). -/
def imageBytes (t : Tag) (n : Nat) : Nat :=
  match t with
  | .bf16 => 2 * n
  | .d8s => 32 * ((n - 1) / 31) + 1 + (n - 1) % 31 + 1
  | _ => n

/-- An element of the new boundary (R159): the exact products are added one at a time, each sum rounded to F32; with bf the
last is rounded to BF16. -/
def contracted (mode : RMode) (n ri : Nat) (bf : Bool) (start : XVal) (y g : Nat → Nat → XVal) : Nat × FlagSet :=
  let sum := (List.range n).foldl (fun a v => (List.range ri).foldl (fun a t =>
    let x := xMul (y v t) (g v t)
    let z := xAdd mode a.1 x.1
    let r := fmtF32.round mode z.1
    (fmtF32.decode r.1, a.2 ||| (x.2 ||| z.2 ||| r.2))) a) (start, (0 : FlagSet))
  if bf then ((fmtBf16.round mode sum.1).1 * 65536, sum.2 ||| (fmtBf16.round mode sum.1).2)
  else ((fmtF32.round mode sum.1).1, sum.2)

/-- One contraction completes (R159): its checks pass, the core and the boundary can be read, by aligned doublewords
(13_ordering.md R189), and the buffer written, and u is the state with region O and region I holding the new boundary, and its
flags ORed. -/
def Contracts (s : State) (hdr : Word) (k : Nat) (rev acc bf : Bool) (recs : List Piece) (u : State) : Prop :=
  let mm := dimAt s.me.vec.mm
  let mn := dimAt s.me.vec.mn
  let bd := dimAt s.me.vec.bd
  let d := mn 0
  let p := if rev then prodOf mn 1 (k - 1) else prodOf mm 1 (k - 1)
  let q := if rev then prodOf mm (k + 1) d else prodOf mn (k + 1) d
  let ri := if rev then bd k else bd (k - 1)
  let ro := if rev then bd (k - 1) else bd k
  let m := mm k
  let n := mn k
  let nin := mm 0 * p * n * q * ri
  let nout := mm 0 * p * m * q * ro
  let buf := s.me.cr.bndbuf
  let half := s.me.cr.bndsize.toNat / 2
  1 ≤ k ∧ k ≤ d ∧ d ≤ 15 ∧ BufferInside s ∧ hdr.toNat % 32 = 0 ∧ 4 * nin ≤ half ∧ 4 * nout ≤ half
    ∧ ∃ s1 hp t s4 cp s5 ip s6 op s7 jp, s.pieces hdr 32 .read = .ok (s1, hp) ∧ ReadFree s1 (rangeOf hdr 32)
      ∧ s1.piecesHeld hp = false
      ∧ (let s2 := (State.readPieces (dwordPieces hp) s1).1
         let h := (State.readPieces (dwordPieces hp) s1).2
         let bytes := imageBytes t (bd (k - 1) * m * n * bd k)
         ((h.getD 0 0 = 4 ∧ t = .d8) ∨ (h.getD 0 0 = 5 ∧ t = .d8s) ∨ (h.getD 0 0 = 6 ∧ t = .bf16))
           ∧ (h.getD 1 0).toNat = bd (k - 1) ∧ (h.getD 2 0).toNat = bd k ∧ valueOf ((h.drop 4).take 2) = m
           ∧ valueOf ((h.drop 6).take 2) = n ∧ ReadFree s2 (rangeOf hdr (32 + bytes))
           ∧ WriteFree s2 (rangeOf buf s.me.cr.bndsize.toNat) ∧ EntriesFit s2 (if recs = [] then 2 else 3)
           ∧ State.locatePieces hdr.toNat .read (bytes / 4096 + 2) (hdr + 32) bytes s2 = .ok (s4, cp))
      ∧ s4.pieces buf (4 * nin) .read = .ok (s5, ip)
      ∧ s5.pieces (buf + BitVec.ofNat 64 half) (4 * nout) .write = .ok (s6, op)
      ∧ s6.pieces buf (4 * nout) .write = .ok (s7, jp)
      ∧ s7.piecesHeld (cp ++ ip ++ op ++ jp) = false ∧ s7.piecesFit (op ++ jp) = true
      ∧ (let s8 := (State.readPieces (dwordPieces cp) s7).1
         let core := (State.readPieces (dwordPieces cp) s7).2
         let s9 := (State.readPieces (dwordPieces ip) s8).1
         let old := (State.readPieces (dwordPieces op) s9).2
         let value (bs : List Byte) (i : Nat) : XVal := fmtF32.decode (valueOf ((bs.drop (4 * i)).take 4))
         let g (a μ ν r : Nat) : XVal := coreValue t core (((a * m + μ) * n + ν) * bd k + r)
         let outs := (List.range nout).map fun i =>
           let o := i % ro
           let c := i / ro % q
           let μ := i / (ro * q) % m
           let bp := i / (ro * q * m)
           contracted (rmodeOf s.me.cr.frm) n ri bf (if acc then value old i else .num false 0 1)
             (fun ν e => value (State.readPieces (dwordPieces ip) s8).2 (((bp * n + ν) * q + c) * ri + e))
             (fun ν e => if rev then g o μ ν e else g e μ ν o)
         let bytes := outs.flatMap fun r => leBytes 4 r.1
         let s10 := if acc then (State.readPieces (dwordPieces op) s9).1 else s9
         u = withFlags (((State.writePieces jp bytes (State.writePieces op bytes s10)).spoil
             (rangeOf buf s.me.cr.bndsize.toNat) s.me.pc).watchTransfer .bond (recs ++ ip ++ op)
               (op ++ jp)) (outs.foldl (fun f r => f ||| r.2) 0))

/-- The step at which an order program goes on (R162). -/
def orderIndex (s : State) : Nat := if s.me.cr.bstat.getLsbD 16 then s.me.cr.bstat.toNat % 65536 else 0

/-- The state with BSTAT written. -/
def withBstat (s : State) (v : Nat) : State := s.setCr fun c => { c with bstat := BitVec.ofNat 64 v }

/-- The gate of a CPY (18_reference_a_f.md R256). -/
def cGate (scalars : List SReg) : Gate := { queue := .c, scalars := scalars }

end Sys2Proof.Claims

/-- MMODE.ON completes with tiles that the hart holds already, or that have been granted to it, zeroed; without a request it
joins the core's queue; MMODE.OFF and MMODE.OFF.REL leave matrix mode with every register EMPTY and the old VL, the second
without tiles. TILE_GRANT gives the oldest waiting request its tiles, whole, when the core has them free; a request that has
to wait holds every later one back. -/
def Obligations.MatrixMode : Prop :=
  (∀ (n : BitVec 6) (s : State), Issues { mGate [] [] (some false) with passQueue := true } s → s.wouldRun = false →
      (s.me.vec.tileCount = n.toNat → n ≠ 0 → s.me.signalBlocked .m = false →
          Retires .m (.mmodeOn n) s (inMatrix s n.toNat s.me.vec.tiles))
        ∧ (s.me.vec.tileCount ≠ 0 → s.me.vec.tileCount ≠ n.toNat → exec (.mmodeOn n) s = .next (s.takeTrap s .mode 0))
        ∧ (∀ r : TileRequest, s.me.vec.tileCount = 0 → s.me.signalBlocked .m = false → (s.myCore.tileQueue.find? fun x => x.hart == s.me.num) = some r →
          r.granted = true → r.count = n.toNat →
          Retires .m (.mmodeOn n) s (inMatrix (s.setCore { s.myCore with
            tileQueue := s.myCore.tileQueue.filter fun x => x.hart != s.me.num }) n.toNat []))
        ∧ (s.me.vec.tileCount = 0 → (∀ x ∈ s.myCore.tileQueue, x.hart ≠ s.me.num) →
          exec (.mmodeOn n) s = .next ((s.setCore { s.myCore with
            tileQueue := s.myCore.tileQueue ++ [{ hart := s.me.num, count := n.toNat, granted := false }] }).takeIssued .m)))
    ∧ (∀ s : State, Ready (mGate [] [] (some true)) s → Retires .m .mmodeOff s (outOfMatrix s))
    ∧ (∀ s : State, Ready (mGate [] [] none) s →
      Retires .m .mmodeOffRel s (if s.me.vec.matrix = true
        then (outOfMatrix s).setVec { (outOfMatrix s).me.vec with tileCount := 0, tiles := [] }
        else s.setVec { s.me.vec with tileCount := 0, tiles := [] }))
    ∧ (∀ (core : Nat) (s : State) (before after : List TileRequest) (r : TileRequest),
      (s.coreAt core).tileQueue = before ++ r :: after → (∀ x ∈ before, x.granted = true) → r.granted = false →
      (r.count ≤ s.freeTiles core → exec (.tileGrant core) s = .next (s.setCore { s.coreAt core with
          tileQueue := before ++ { r with granted := true } :: after }))
        ∧ (s.freeTiles core < r.count → exec (.tileGrant core) s = .next (s.setCore (s.coreAt core))))

/-- MSHAPE writes M and N, and in matrix mode VL becomes N; a shape outside 1 to 16 by 1 to 256 is ILLEGAL. ZZERO clears the
positions of its tile and no other. -/
def Obligations.ShapeAndZero : Prop :=
  (∀ (a b : SReg) (s : State), Issues (mGate [a, b] [] none) s →
      let m := (s.me.reg a).toNat
      let n := (s.me.reg b).toNat
      (1 ≤ m → m ≤ 16 → 1 ≤ n → n ≤ 256 → s.me.signalBlocked .m = false → Retires .m (.mshape a b) s (s.setCr fun c => { c with
          mshape := BitVec.ofNat 64 (256 * n + m), vl := if s.me.vec.matrix then n else c.vl }))
        ∧ ((m = 0 ∨ 16 < m ∨ n = 0 ∨ 256 < n) → exec (.mshape a b) s = .next (s.takeTrap s .illegal 0)))
    ∧ (∀ (z : ZReg) (s : State), Issues (mGate [] [] (some true)) s →
      (z.toNat < s.me.vec.tileCount → s.me.signalBlocked .m = false → ∃ t, Retires .m (.zzero z) s ((s.setVec { s.me.vec with tiles := t }).noteWriter (matZ z))
          ∧ ∀ k, tileGet t k = if k / 4096 = z.toNat then 0 else tileGet s.me.vec.tiles k)
        ∧ (s.me.vec.tileCount ≤ z.toNat → exec (.zzero z) s = .next (s.takeTrap s .mode 0)))

/-- MMA and MMAS complete: with MATERIAL sources of fitting tags the corner of the tile takes the outputs, each made of the
exact sum of exact products with one rounding, as ACC, OVW or NEG says, and the flags of all outputs are ORed; MMAS takes its
positions from a mask of at most 8 per row. A tile that is not held raises MODE, and tags or a mask that do not fit TAGERR.
The order of the terms in a sum with a NaN, opposite infinities or a zero result is the model's choice (log 33). -/
def Obligations.MatrixProduct : Prop :=
  (∀ (z : ZReg) (a b : VReg) (m n : Bool) (how : MmaAcc) (s : State) (x : BitVec 2048) (ys : List (BitVec 2048)),
      Ready (mGate [] [a.toNat, b.toNat + 7] (some true)) s → b.toNat + 7 < 64 → z.toNat < s.me.vec.tileCount → ShapeFits s →
      (s.me.vec.v.get a.toFin).state = .material x → Rows s b.toNat 8 ys → TagsFit s a b.toNat 8 →
      TilesRising s.me.vec.tiles →
      ∃ t, CornerIs s z.toNat how (mmaTerms s a b.toNat x ys) t
        ∧ Retires .m (.mma z a b m n how) s (withFlags ((s.setVec { s.me.vec with tiles := t }).noteWriter (matZ z))
          (cornerFlags s z.toNat how (mmaTerms s a b.toNat x ys))))
    ∧ (∀ (z : ZReg) (a b : VReg) (k : BitVec 3) (m n : Bool) (how : MmaAcc) (s : State) (x km : BitVec 2048)
        (ys : List (BitVec 2048)),
      Ready (mGate [] [a.toNat, b.toNat + 15] (some true)) s → b.toNat + 15 < 64 → z.toNat < s.me.vec.tileCount →
      ShapeFits s → (s.me.vec.v.get a.toFin).state = .material x → Rows s b.toNat 16 ys → TagsFit s a b.toNat 16 →
      s.me.vec.k.get (BitVec.ofNat 4 (8 + k.toNat)).toFin = .material km →
      (∀ i, i < mOf s → ((List.range 16).filter fun p => km.getLsbD (16 * i + p)).length ≤ 8) →
      TilesRising s.me.vec.tiles →
      ∃ t, CornerIs s z.toNat how (mmasPairs s a b.toNat x km ys) t
        ∧ Retires .m (.mmas z a b k m n how) s (withFlags ((s.setVec { s.me.vec with tiles := t }).noteWriter (matZ z))
          (cornerFlags s z.toNat how (mmasPairs s a b.toNat x km ys))))
    ∧ (∀ (z : ZReg) (a b : VReg) (k : BitVec 3) (m n : Bool) (how : MmaAcc) (s : State), s.me.vec.tileCount ≤ z.toNat →
      (Issues (mGate [] [a.toNat, b.toNat + 7] (some true)) s → exec (.mma z a b m n how) s = .next (s.takeTrap s .mode 0))
        ∧ (Issues (mGate [] [a.toNat, b.toNat + 15] (some true)) s →
          exec (.mmas z a b k m n how) s = .next (s.takeTrap s .mode 0)))
    ∧ (∀ (z : ZReg) (a b : VReg) (k : BitVec 3) (m n : Bool) (how : MmaAcc) (s : State) (x km : BitVec 2048)
        (ys : List (BitVec 2048)),
      z.toNat < s.me.vec.tileCount → (s.me.vec.v.get a.toFin).state = .material x →
      (Issues (mGate [] [a.toNat, b.toNat + 7] (some true)) s → b.toNat + 7 < 64 → Rows s b.toNat 8 ys →
          ¬ TagsFit s a b.toNat 8 → exec (.mma z a b m n how) s = .next (s.takeTrap s .tagerr 0))
        ∧ (Issues (mGate [] [a.toNat, b.toNat + 15] (some true)) s → b.toNat + 15 < 64 → Rows s b.toNat 16 ys →
          s.me.vec.k.get (BitVec.ofNat 4 (8 + k.toNat)).toFin = .material km →
          (¬ TagsFit s a b.toNat 16 ∨ ∃ i, i < mOf s ∧ 8 < ((List.range 16).filter fun p => km.getLsbD (16 * i + p)).length) →
          exec (.mmas z a b k m n how) s = .next (s.takeTrap s .tagerr 0)))

/-- ZLD reads the corner of its tile and ZST writes it, in ascending m, then n, at base + m × stride + 4n; a base or stride
that is not a multiple of 4 is MISALIGN, and a tile that the hart does not hold MODE. -/
def Obligations.TileTransfers : Prop :=
  (∀ (z : ZReg) (a b : SReg) (s s1 : State) (ps : List (Option (List Piece))),
      let base := s.me.reg a
      let st := s.me.reg b
      let cells := cornerCells s z base st
      Ready (mGate [a, b] [] (some true)) s → z.toNat < s.me.vec.tileCount → base.toNat % 4 = 0 → st.toNat % 4 = 0 →
      State.locateElems (some base.toInt) .read (cells.map fun c => some [(c.2, 4)]) s = (s1, ps, none) →
      (∀ p ∈ flatPieces ps, s1.watchOwn p.1 p.2.2 .read = []) → CopiesApart s1 (flatPieces ps) false →
      s1.piecesHeld (flatPieces ps) = false →
      Retires .m (.zld z a b) s ((((State.readElems ps s1).1.setVec { (State.readElems ps s1).1.me.vec with
        tiles := tilePut (State.readElems ps s1).1.me.vec.tiles (cells.map (·.1)) (State.readElems ps s1).2 }).noteWriter
          (matZ z)).watchNote .hart .read (flatPieces ps)))
    ∧ (∀ (z : ZReg) (a b : SReg) (s s1 : State) (ps : List (Option (List Piece))),
      let base := s.me.reg a
      let st := s.me.reg b
      let cells := cornerCells s z base st
      Ready (mGate [a, b] [] (some true)) s → z.toNat < s.me.vec.tileCount → base.toNat % 4 = 0 → st.toNat % 4 = 0 →
      State.locateElems (some base.toInt) .write (cells.map fun c => some [(c.2, 4)]) s = (s1, ps, none) →
      (∀ p ∈ flatPieces ps, s1.watchOwn p.1 p.2.2 .write = []) → CopiesApart s1 (flatPieces ps) true →
      s1.piecesHeld (flatPieces ps) = false → s1.piecesFit (flatPieces ps) = true →
      Retires .m (.zst z a b) s ((State.writeElems ps (cells.map fun c =>
        leBytes 4 (tileGet s.me.vec.tiles c.1).toNat) s1).watchNote .hart .write (flatPieces ps)))
    ∧ (∀ (z : ZReg) (a b : SReg) (s : State), Issues (mGate [a, b] [] (some true)) s →
      (s.me.vec.tileCount ≤ z.toNat → exec (.zld z a b) s = .next (s.takeTrap s .mode 0)
          ∧ exec (.zst z a b) s = .next (s.takeTrap s .mode 0))
        ∧ (z.toNat < s.me.vec.tileCount → ((s.me.reg a).toNat % 4 ≠ 0 ∨ (s.me.reg b).toNat % 4 ≠ 0) →
          exec (.zld z a b) s = .next (s.takeTrap s .misalign (s.me.reg a))
            ∧ exec (.zst z a b) s = .next (s.takeTrap s .misalign (s.me.reg a))))

/-- In matrix mode VLD makes its register MATERIAL with the elements of its stream from START, and VST writes its register's
elements there, VL of them, a position that the mask leaves out reading as zero or staying as it was; START moves on by VL, a
D8S stream's by whole blocks when it is written. Each element is converted as a VCVT under FRM converts it, and the flags of
the elements are ORed; D8S blocks are encoded with the decade of their largest magnitude, or keep the codes and the scale of
a D8S source. More positions than the register holds are TAGERR. The advance of START by whole blocks, the scale of a copied
block and the blocks of a short row are the model's choices (log 27). -/
def Obligations.MatrixLoadStore : Prop :=
  (∀ (v : VReg) (q : QReg) (c o : Bool) (p : PReg) (s s1 : State) (m : BitVec 2048) (ps : List (Option (List Piece))),
      let d := s.me.vec.q.get q.toFin
      let t := s.regTag v
      let vl := s.me.cr.vl
      let next (w : VecState) : Vector (BitVec 256) 16 := w.q.set q.toFin (dSetStart d ((dStart d + vl) % 2 ^ 40))
      let items := (List.range vl).map fun j => if m.getLsbD j then some (readItems d ((dStart d + j) % 2 ^ 40)) else none
      let s2 := (State.readElems ps s1).1
      s.me.vec.matrix = true → Ready (matrixSide [] [v]) s → MatrixMask s p m → vl ≤ capacity t →
      (dFmt d = .d8s → t = .d8s → dStart d % 31 = 0) →
      State.locateElems (some (streamAddr d (dStart d))) .read items s = (s1, ps, none) → ElementsFree s1 ps .read →
      ReadFree s1 (matRange d vl) →
      ∃ (x : BitVec 2048) (f : FlagSet),
        Loaded t (dFmt d == .d8s && t == .d8s) (rmodeOf s.me.cr.frm)
            ((State.readElems ps s1).2.map fun c => c.map (streamElem (dFmt d))) x f
          ∧ Retires .m (.vld v q c p o) s ((withFlags ((s2.setVec { s2.me.vec with
            v := s2.me.vec.v.set v.toFin { tag := t, state := .material x }
            q := next s2.me.vec }).noteWriter (matV v)) f).watchNote .hart .read (flatPieces ps)))
    ∧ (∀ (v : VReg) (q : QReg) (c o : Bool) (p : PReg) (s s1 : State) (x m : BitVec 2048) (ps : List (Option (List Piece)))
        (ws : List (Option ((Int × Nat) × List Byte))) (f : FlagSet),
      let d := s.me.vec.q.get q.toFin
      let t := s.regTag v
      let vl := s.me.cr.vl
      let es := (List.range vl).map fun j => if m.getLsbD j then some (packElem t x j) else none
      let next (w : VecState) : Vector (BitVec 256) 16 := w.q.set q.toFin
        (dSetStart d ((dStart d + (if dFmt d = .d8s then (vl + 30) / 31 * 31 else vl)) % 2 ^ 40))
      let u := ((State.writeElems ps (ws.map fun w => (w.map (·.2)).getD []) s1).spoil (matRange d vl) s1.me.pc).watchNote
        .hart .write (flatPieces ps)
      s.me.vec.matrix = true → Ready (matrixSide [] [v]) s → (s.me.vec.v.get v.toFin).state = .material x →
      MatrixMask s p m → vl ≤ capacity t → (dFmt d = .d8s → dStart d % 31 = 0) →
      (dFmt d ≠ .d8s → PlainStores d (rmodeOf s.me.cr.frm) es ws f) →
      (dFmt d = .d8s → BlockStores d (rmodeOf s.me.cr.frm) t x es ws f) →
      State.locateElems (some (streamAddr d (dStart d))) .write (ws.map fun w => w.map fun y => [y.1]) s = (s1, ps, none) →
      ElementsFree s1 ps .write → WriteFree s1 (matRange d vl) → s1.piecesFit (flatPieces ps) = true →
      Retires .m (.vst v q c p o) s (withFlags (u.setVec { u.me.vec with q := next u.me.vec }) f))
    ∧ (∀ (v : VReg) (q : QReg) (c o : Bool) (p : PReg) (s : State) (m : BitVec 2048), s.me.vec.matrix = true →
      Issues (matrixSide [] [v]) s → MatrixMask s p m → capacity (s.regTag v) < s.me.cr.vl →
      exec (.vld v q c p o) s = .next (s.takeTrap s .tagerr 0)
        ∧ (∀ x, (s.me.vec.v.get v.toFin).state = .material x → exec (.vst v q c p o) s = .next (s.takeTrap s .tagerr 0)))

/-- BDIM writes a bond or mode register within its limits, and is ILLEGAL outside them. BCON completes with its contraction;
a core that is not a multiple of 32 is MISALIGN, and k beyond the chain ILLEGAL. BRUN starts its order program at the step
that BSTAT holds, or at 0; each BOND_STEP does one step, and the last one retires the BRUN with BSTAT clear, while after another
one an interrupt can come. -/
def Obligations.BondResult : Prop :=
  (∀ (a : SReg) (r : BitVec 6) (s : State), Issues (bGate [a]) s → r.toNat < 48 →
      let v := (s.me.reg a).toNat
      let limit := if r.toNat < 16 then 255 else 4095
      (1 ≤ v → v ≤ limit → s.me.signalBlocked .b = false → ∃ t, Retires .b (.bdim a r) s (s.setVec t)
          ∧ (∀ i : Fin 16, t.bd.get i = if r.toNat = i.val then BitVec.ofNat 8 v else s.me.vec.bd.get i)
          ∧ (∀ i : Fin 16, t.mm.get i = if r.toNat = 16 + i.val then BitVec.ofNat 12 v else s.me.vec.mm.get i)
          ∧ (∀ i : Fin 16, t.mn.get i = if r.toNat = 32 + i.val then BitVec.ofNat 12 v else s.me.vec.mn.get i)
          ∧ t.forme = s.me.vec.forme ∧ t.v = s.me.vec.v ∧ t.q = s.me.vec.q ∧ t.tiles = s.me.vec.tiles)
        ∧ ((v = 0 ∨ limit < v) → exec (.bdim a r) s = .next (s.takeTrap s .illegal 0)))
    ∧ (∀ (a : SReg) (k : BitVec 6) (s : State), Issues (bGate [a]) s →
      let core := s.me.reg a
      let d := dimAt s.me.vec.mn 0
      (∀ u, Contracts s core k.toNat false false false [] u → s.me.signalBlocked .b = false → Retires .b (.bcon a k) s u)
        ∧ ((15 < d ∨ k = 0 ∨ d < k.toNat) → exec (.bcon a k) s = .next (s.takeTrap s .illegal 0))
        ∧ (¬ (15 < d ∨ k = 0 ∨ d < k.toNat) → ¬ BufferInside s →
          exec (.bcon a k) s = .next (s.takeTrap s .prot s.me.cr.bndbuf))
        ∧ (¬ (15 < d ∨ k = 0 ∨ d < k.toNat) → BufferInside s → core.toNat % 32 ≠ 0 →
          exec (.bcon a k) s = .next (s.takeTrap s .misalign core)))
    ∧ (∀ (a : SReg) (s : State), Issues (bGate [a]) s →
      ((s.me.reg a).toNat % 16 = 0 → exec (.brun a) s = .next
          ((withBstat { s with me := { s.me with brun := some (s.me.reg a) } } (65536 + orderIndex s)).takeIssued .b))
        ∧ ((s.me.reg a).toNat % 16 ≠ 0 → exec (.brun a) s = .next (s.takeTrap s .misalign (s.me.reg a))))
    ∧ (∀ (s s1 u : State) (p : Word) (rp : List Piece), s.me.brun = some p →
      let i := orderIndex s
      let a := p + BitVec.ofNat 64 (16 * i)
      let r := valueOf (State.readPieces (dwordPieces rp) s1).2
      let k := r / 2 ^ 64 % 16
      let last := r / 2 ^ 75 % 2 = 1
      s.pieces a 16 .read = .ok (s1, rp) → ReadFree s1 (rangeOf a 16) → s1.piecesHeld rp = false →
      r / 2 ^ 56 % 2 ^ 8 = 0 → r / 2 ^ 76 = 0 → r / 2 ^ 68 % 16 = 0 → k ≠ 0 → (last ∨ i < 65535) →
      Contracts (State.readPieces (dwordPieces rp) s1).1 (sx56 (BitVec.ofNat 64 (r % 2 ^ 56))) k (r / 2 ^ 72 % 2 == 1) (r / 2 ^ 73 % 2 == 1)
        (r / 2 ^ 74 % 2 == 1) rp u →
      (last → s.me.signalBlocked .b = false → exec .bondStep s = .next (retire .b s (withBstat u 0) true))
        ∧ (¬ last → exec .bondStep s
          = .next (withBstat { u with me := { u.me with checked := none, met := [] } } (65537 + i))))

/-- BLD copies bytes of memory into region I of the boundary buffer, and BST from it, by ascending doublewords; no bytes
move nothing. Addresses and counts that are not multiples of 4 are MISALIGN, a buffer outside the local window is PROT, and a
count over half the buffer BNDOVF with EVA the count. -/
def Obligations.BondCopies : Prop :=
  ∀ (a b : SReg) (s : State), Issues (bGate [a, b]) s →
    let va := s.me.reg a
    let n := (s.me.reg b).toNat
    let buf := s.me.cr.bndbuf
    let half := s.me.cr.bndsize.toNat / 2
    let sound := va.toNat % 4 = 0 ∧ n % 4 = 0 ∧ BufferInside s ∧ n ≤ half
    let room := s.me.signalBlocked .b = false
    (sound → n = 0 → room → Retires .b (.bld a b) s s ∧ Retires .b (.bst a b) s s)
      ∧ (∀ s1 s2 mp bp, sound → 1 ≤ n → room → WriteFree s (rangeOf buf n) → ReadFree s (rangeOf va n) → EntriesFit s 2 →
        s.pieces va n .read = .ok (s1, mp) → s1.pieces buf n .write = .ok (s2, bp) →
        s2.piecesHeld (mp ++ bp) = false → s2.piecesFit bp = true →
        Retires .b (.bld a b) s (((State.copyDwords (n / 8 + 2) buf.toNat (pieceLocs mp) (pieceLocs bp) s2).spoil
          (rangeOf buf n) s.me.pc).watchTransfer .bond mp bp))
      ∧ (∀ s1 s2 mp bp, sound → 1 ≤ n → room → WriteFree s (rangeOf va n) → ReadFree s (rangeOf buf n) → EntriesFit s 2 →
        s.pieces va n .write = .ok (s1, mp) → s1.pieces buf n .read = .ok (s2, bp) →
        s2.piecesHeld (bp ++ mp) = false → s2.piecesFit mp = true →
        Retires .b (.bst a b) s (((State.copyDwords (n / 8 + 2) va.toNat (pieceLocs bp) (pieceLocs mp) s2).spoil
          (rangeOf va n) s.me.pc).watchTransfer .bond bp mp))
      ∧ ((va.toNat % 4 ≠ 0 ∨ n % 4 ≠ 0) → exec (.bld a b) s = .next (s.takeTrap s .misalign va)
        ∧ exec (.bst a b) s = .next (s.takeTrap s .misalign va))
      ∧ (va.toNat % 4 = 0 → n % 4 = 0 → ¬ BufferInside s →
        exec (.bld a b) s = .next (s.takeTrap s .prot buf) ∧ exec (.bst a b) s = .next (s.takeTrap s .prot buf))
      ∧ (va.toNat % 4 = 0 → n % 4 = 0 → BufferInside s → half < n →
        exec (.bld a b) s = .next (s.takeTrap s .bndovf (BitVec.ofNat 64 n))
          ∧ exec (.bst a b) s = .next (s.takeTrap s .bndovf (BitVec.ofNat 64 n)))

/-- CPY of no bytes retires; over 2^30 bytes it is ILLEGAL, and with overlapping ranges SRCOVW at their lowest common byte;
else, once its ranges are located and free, it is accepted and goes on beside the program. CPY_COMPLETE moves the bytes of
the hart's oldest copy and retires it; a token whose FIFO is full is owed and given later. That a copy moves in one event, by
ascending doublewords, that leaves it meets go STALE at its acceptance and that its end is an event are the model's choices
(logs 20 and 9). -/
def Obligations.CopyEngine : Prop :=
  (∀ (a b c : SReg) (s : State), Issues (cGate [a, b, c]) s →
      let dst := s.me.reg a
      let src := s.me.reg b
      let n := (s.me.reg c).toNat
      let lo := max dst.toInt src.toInt
      let overlap := lo < min (dst.toInt + n) (src.toInt + n)
      (n = 0 → s.me.signalBlocked .c = false → Retires .c (.cpy a b c) s s)
        ∧ (2 ^ 30 < n → exec (.cpy a b c) s = .next (s.takeTrap s .illegal 0))
        ∧ (1 ≤ n → n ≤ 2 ^ 30 → overlap → exec (.cpy a b c) s = .next (s.takeTrap
          (s.setCr fun k => { k with fblame := s.me.pc &&& span 55 2, felem := 0 }) .srcovw (BitVec.ofInt 64 lo)))
        ∧ (∀ s1 s2 rp wp, 1 ≤ n → n ≤ 2 ^ 30 → ¬ overlap → s.piecesOr src n .read = .ok (s1, rp) →
          s1.piecesOr dst n .write = .ok (s2, wp) → (s2.me.cr.confirmed = true ∨ ∀ x ∈ wp, s2.me.owns x.2.1 x.2.2 = true) →
          WriteFree s2 (rangeOf dst n) → ReadFree s2 (rangeOf src n) → EntriesFit s2 2 →
          let u := s2.spoil (rangeOf dst n) s2.me.pc
          exec (.cpy a b c) s = .next (retire .c s ({ u with me := { u.me with copies := u.me.copies ++ [{
            dst := dst, src := src, count := n, pc := s2.me.pc, pins := s2.pinsOf (rp ++ wp), signal := s2.me.signal }] } }) false)))
    ∧ (∀ (s : State) (c : Copy) (rest : List Copy), s.me.copies = c :: rest → s.me.status = .running →
      let r := State.pinPieces c.pins (c.count / 4096 + 2) c.src.toNat c.count s
      let w := State.pinPieces c.pins (c.count / 4096 + 2) c.dst.toNat c.count r.1
      s.copyHeld c r.2 w.2 = false → (∀ h ∈ s.others, h.status ≠ .squashed) →
      ∃ t, exec (.cpyComplete 0) s = .next t ∧ t.me.copies = rest
        ∧ t.mem = (State.copyDwords (c.count / 8 + 2) c.dst.toNat (pieceLocs r.2) (pieceLocs w.2) w.1).mem
        ∧ t.me.regs = s.me.regs ∧ t.me.vec = s.me.vec ∧ t.me.pc = s.me.pc
        ∧ (s.me.owed = [] →
          let room (y : Queue) : Prop := s.me.tokens.get (fifo 4 y.num) < 16
          (c.signal = none → t.me.tokens = s.me.tokens ∧ t.me.owed = [])
            ∧ (∀ y, c.signal = some y → room y → t.me.owed = []
              ∧ t.me.tokens = s.me.tokens.set (fifo 4 y.num) (s.me.tokens.get (fifo 4 y.num) + 1))
            ∧ (∀ y, c.signal = some y → ¬ room y → t.me.owed = [(.c, y, c.pc)] ∧ t.me.tokens = s.me.tokens)))

namespace Sys2Proof.Claims

/-! ### The values of vector nodes -/

/-- Position e of a node is active, its sources holding the given elements there (06_forme.md R90). -/
def ActiveAt (env : Env) (n : Node) (bound e : Nat) (as : List Elem) : Prop :=
  e < bound ∧ n.srcs.map (fun x => (env.row x.node).ents[e]?.map (·.cell)) = as.map (fun a => some (.elem a))
    ∧ ∀ p, n.pred = some p → (env.row p.node).ents[e]?.map (·.cell) = some (.bit true)

/-- The operands of an arithmetic node: a vector-scalar form reads its scalar as an element of its source's tag (R64). -/
def operandsOf (n : Node) (as : List Elem) : List Elem :=
  match n.scalar, as with
  | some w, a :: r => a :: ⟨a.tag, w.toNat % 2 ^ (8 * tagBytes a.tag), 0⟩ :: r
  | _, r => r

/-- The exact integer of an arithmetic operation (20_reference_t_z.md R308). -/
def exactInt (op : ArithOp) (x y z : Int) : Int :=
  match op with
  | .add => x + y
  | .sub => x - y
  | .mul => x * y
  | .fma => x * y + z
  | .div => quotient x y
  | .min => if x ≤ y then x else y
  | .max => if x ≤ y then y else x

/-- The exact floating result of an arithmetic operation, before its one rounding (R308, R72, R73): a NaN operand of MIN or MAX
gives the NaN, and −0 counts below +0 there. -/
def exactFloat (op : ArithOp) (mode : RMode) (x y z : XVal) : XVal :=
  match op with
  | .add => (xAdd mode x y).1
  | .sub => (xAdd mode x y.negate).1
  | .mul => (xMul x y).1
  | .fma => (xAdd mode (xMul x y).1 z).1
  | .div => (xDiv x y).1
  | .min => if x.isNan || y.isNan then .nan false else if xLess true y x then y else x
  | .max => if x.isNan || y.isNan then .nan false else if xLess true x y then y else x

/-- The relation of two exact values: a NaN is unordered and unequal, and the zeros are equal (R129, R73). -/
def related (r : VRel) (x y : XVal) : Bool :=
  let ordered := !x.isNan && !y.isNan
  let less := xLess false x y
  let more := xLess false y x
  match r with
  | .eq => ordered && !less && !more
  | .ne => !(ordered && !less && !more)
  | .lt => less
  | .le => ordered && !more
  | .gt => more
  | .ge => ordered && !less

/-- The bits of an exact value in a tag other than D8S: rounded once into a floating tag, saturated into an integer tag
(R63). -/
def storedIn (t : Tag) (mode : RMode) (x : XVal) : Nat :=
  match t with
  | .f32 => (fmtF32.round mode x).1
  | .bf16 => (fmtBf16.round mode x).1
  | .d8 | .d8s => (d8Encode mode x).1
  | t => (roundToInt mode (8 * tagBytes t) false x).1

/-- The low bits of an integer. -/
def lowBits (w : Nat) (x : Int) : Nat := (x % 2 ^ w).toNat

/-- The bits of an integer in a tag other than D8S: wrapped into an integer tag, rounded once into a floating one (R63, R308,
R324). -/
def intInto (t : Tag) (mode : RMode) (x : Int) : Nat :=
  if isInt t then lowBits (8 * tagBytes t) x else storedIn t mode (.ofInt x)

/-- The bits of an element that is taken as it is into a tag other than D8S; ints says that its promoted type is an integer type
(R63, R308). -/
def movedInto (t : Tag) (ints : Bool) (mode : RMode) (a : Elem) : Nat :=
  if ints then intInto t mode (elemInt a false) else storedIn t mode (a.val false)

/-- P of a logic or shift operation at a width, before it is read as a number of that width (R310). -/
def logicP (op : LogicOp) (w : Nat) (x y : Int) : Int :=
  let k := lowBits w y % w
  match op with
  | .and => (lowBits w x &&& lowBits w y : Nat)
  | .or => (lowBits w x ||| lowBits w y : Nat)
  | .xor => (lowBits w x ^^^ lowBits w y : Nat)
  | .shl => x * 2 ^ k
  | .shrArith => x.fdiv (2 ^ k)
  | .shrLogical => (lowBits w x / 2 ^ k : Nat)

/-- The exact floating value of a unary operation; those of R73 are F32 values within 2 ulp, free between (R313; log 8). -/
def unaryFloat (op : UnaryOp) (x : XVal) : XVal :=
  match op with
  | .abs => (match x with
    | .nan s => .nan s
    | .inf _ => .inf false
    | .num _ m d => .num false m d)
  | .neg => x.negate
  | .sqrt => (xSqrt x).1
  | .rsqrt => fmtF32.decode (xRsqrt x).1
  | .rcp => fmtF32.decode (xRcp x).1
  | .exp => fmtF32.decode (xExp x).1
  | .log => fmtF32.decode (xLog x).1
  | .tanh => fmtF32.decode (xTanh x).1

/-- The results that R73 fixes exactly, as F32 patterns. -/
def exactAt (op : UnaryOp) (x : XVal) : Option Nat :=
  let signed (neg : Bool) (b : Nat) : Nat := b + if neg then 0x80000000 else 0
  match op, x with
  | .exp, .num _ 0 _ => some 0x3F800000
  | .exp, .inf neg => some (if neg then 0 else 0x7F800000)
  | .log, .num _ 0 _ => some 0xFF800000
  | .log, .num neg m d => if neg then some 0x7FC00000 else if m = d then some 0 else none
  | .log, .inf neg => some (if neg then 0x7FC00000 else 0x7F800000)
  | .tanh, .num neg 0 _ => some (signed neg 0)
  | .tanh, .inf neg => some (signed neg 0x3F800000)
  | .rcp, .num neg 0 _ => some (signed neg 0x7F800000)
  | .rcp, .inf neg => some (signed neg 0)
  | .rsqrt, .num neg 0 _ => some (signed neg 0x7F800000)
  | .rsqrt, .num true _ _ => some 0x7FC00000
  | .rsqrt, .inf neg => some (if neg then 0x7FC00000 else 0)
  | _, _ => none

/-- The mode of VCVT's rounding field (R314). -/
def cvtMode (r : VRound) (frm : BitVec 2) : RMode :=
  match r with
  | .frm => rmodeOf frm
  | .rne | .satRne => .rne
  | .rtz => .rtz
  | .rup => .rup
  | .rdn => .rdn

/-- The bits of VCVT's element in a tag other than D8S (R314, R72, R75, R78). -/
def cvtBits (t : Tag) (u : Bool) (r : VRound) (frm : BitVec 2) (a : Elem) : Nat :=
  let w := 8 * tagBytes t
  let v := elemInt a u
  if isInt a.tag && isInt t then
    lowBits w (if r = .satRne then
      (if u then max 0 (min (2 ^ w - 1) v) else max (-2 ^ (w - 1)) (min (2 ^ (w - 1) - 1) v)) else v)
  else if isInt t then (roundToInt (cvtMode r frm) w u (a.val u)).1
  else if r = .satRne then
    (match t with
    | .f32 => (fmtF32.roundSat (a.val u)).1
    | .bf16 => (fmtBf16.roundSat (a.val u)).1
    | _ => (d8EncodeSat (a.val u)).1)
  else storedIn t (cvtMode r frm) (a.val u)

/-- Two F32 values, either of which may be absent, combined with one rounding (R84, R85). -/
def joined (op : RedOp) (mode : RMode) (x y : Option XVal) : Option XVal :=
  match x, y with
  | some a, some b => some (match op with
    | .min => exactFloat .min mode a b b
    | .max => exactFloat .max mode a b b
    | _ => fmtF32.decode (fmtF32.round mode (xAdd mode a b).1).1)
  | none, b => b
  | a, none => a

/-- A floating element enters a reduction or scan as an F32 value (R84). -/
def entered (mode : RMode) (a : Elem) : XVal := fmtF32.decode (fmtF32.round mode (a.val false)).1

/-- The running value of present F32 values in order (R87), the identity where there are none. -/
def running (op : RedOp) (mode : RMode) (vs : List (Option XVal)) : Option XVal := vs.foldl (joined op mode) none
def orIdentity (op : RedOp) (x : Option XVal) : XVal :=
  x.getD (match op with
    | .min => .inf false
    | .max => .inf true
    | _ => .num false 0 1)

/-- Result i of level k of the tree of R85 over the members of level 0. -/
def treeAt (mode : RMode) (f : Nat → Option XVal) : Nat → Nat → Option XVal
  | 0, i => f i
  | k + 1, i => joined .sum mode (treeAt mode f k (2 * i)) (treeAt mode f k (2 * i + 1))

/-- The F32 value of a floating reduction of elements by position (R84 to R86): a SUM by blocks of 32, or lane by lane. -/
def floatReduced (op : RedOp) (lam : Bool) (mode : RMode) (lanes : Nat) (vs : List (Option XVal)) : XVal :=
  orIdentity op
    (if op ≠ .sum then running op mode vs
    else if lam then running op mode ((List.range ((vs.length + 31) / 32)).map (treeAt mode (fun j => vs.getD j none) 5))
    else treeAt mode (fun l => if l < lanes then
      running op mode ((List.range vs.length).map fun i => vs.getD (i * lanes + l) none) else none) 7 0)

/-- The exact integer of a reduction or scan over integer elements, from the identity at a width (R84, R87, R319). -/
def intReduced (op : RedOp) (w : Nat) (xs : List Elem) : Int :=
  let bits (f : BitVec 64 → BitVec 64 → BitVec 64) (i : BitVec 64) : Int :=
    (xs.foldl (fun m a => f m (BitVec.ofInt 64 (elemInt a false))) i).toInt
  match op with
  | .sum => (xs.map fun a => elemInt a false).sum
  | .min => xs.foldl (fun m a => min m (elemInt a false)) (2 ^ (w - 1) - 1)
  | .max => xs.foldl (fun m a => max m (elemInt a false)) (-2 ^ (w - 1))
  | .minu => xs.foldl (fun m a => min m (elemInt a true)) (2 ^ w - 1)
  | .maxu => xs.foldl (fun m a => max m (elemInt a true)) 0
  | .and => bits (· &&& ·) (BitVec.allOnes 64)
  | .or => bits (· ||| ·) 0
  | .xor => bits (· ^^^ ·) 0

/-- A position is selected by the predicate of a node, and the element that a row holds there (R90). -/
def selected (env : Env) (n : Node) (i : Nat) : Bool := (n.pred.map fun p => ((env.row p.node).get i).cell.isTrue).getD true
def elemAt (env : Env) (x : Edge) (i : Nat) : Option Elem := ((env.row x.node).get i).cell.elem?

/-- The predicate of a node is known at a position. -/
def PredKnown (env : Env) (n : Node) (e : Nat) : Prop := ∀ p, n.pred = some p → e < (env.row p.node).ents.length

/-- An element-wise operation: it computes at a position only where it is active. -/
def pointwise : NodeOp → Bool
  | .arith .. | .logic _ | .unary _ | .cvt .. | .splat | .iota => true
  | _ => false

/-- The elements that a reduction sink takes in below its length: those that an earlier stop has saved, then the active ones
(05_numbers.md R84; 08_faults.md R126). -/
def takesIn (env : Env) (t : Tag) (g : Sink) (saved : List (Option (Nat × Int))) (len : Nat) : List Elem :=
  ((saved.take len).filterMap fun x => x.map fun y => ⟨t, y.1, y.2⟩)
    ++ (List.range (len - saved.length)).filterMap fun i =>
      let e := saved.length + i
      if (g.pred.map fun p => ((env.row p).get e).cell.isTrue).getD true then ((env.row g.node).get e).cell.elem? else none

/-- The elements that a reduction takes in by position below its length, none where it takes none (R84; R126). -/
def cellsIn (env : Env) (t : Tag) (g : Sink) (saved : List (Option (Nat × Int))) (len : Nat) : List (Option Elem) :=
  (List.range len).map fun i => match saved[i]? with
    | some x => x.map fun y => ⟨t, y.1, y.2⟩
    | none => if (g.pred.map fun p => ((env.row p).get i).cell.isTrue).getD true then ((env.row g.node).get i).cell.elem? else none

/-- A row holds elements of a tag, or none (04_registers.md R61). -/
def RowOf (env : Env) (n : Nat) (t : Tag) : Prop :=
  ∀ e, ((env.row n).get e).cell = .off ∨ ∃ a : Elem, a.tag = t ∧ ((env.row n).get e).cell = .elem a

/-- The bit that a count takes in at a position: a saved one, or its mask's (09_control.md R131). -/
def countBit (env : Env) (g : Sink) (saved : List (Option (Nat × Int))) (i : Nat) : Bool :=
  match saved[i]? with
  | some x => x.isSome
  | none => ((env.row g.node).get i).cell.isTrue

end Sys2Proof.Claims

/-- The elements of vector nodes whose destination tag is not D8S. An integer arithmetic element is the exact result wrapped
to the promoted width and taken into the destination; a floating one the exact result rounded once into it; an inactive
position has none. Logic and shifts give P at the promoted width; VSEL the selected source; the unary operations their rule's
value, VCVT its conversion, VSPLAT and VIOTA the scalar, plus e. A VCMP element is the relation at an active position and false
elsewhere; the mask operations act bit by bit. VCOMP puts the selected elements first, VEXPD spreads them, VPERM selects within
windows of 256 (from a source that is not D8S), and VSCAN gives running values. A leaf converts what its stream holds. An integer
reduction combines exactly the active elements, those that an earlier stop of the pass has saved among them, from its identity; a
floating one in F32, its SUM by blocks of 32 or lane by lane with the tree; a length-agnostic one does not depend on the number
of lanes; KPOP, KFIRST and KTAIL count their mask. That VFMA promotes over its accumulator's own type beside the destination's
tag (log 14), the approximated functions within 2 ulp (log 8), and MINU and MAXU of a VSCAN read at the source's width (log 31)
are the model's choices. -/
def Obligations.VectorElements : Prop :=
  (∀ (ns : List Node) (env : Env) (vlen bound e : Nat) (cs : List (Option Nat)) (ps : List (Option (Nat × Int))) (n : Node),
      let at_ (i : Nat) : Cell := ((nodeRow ns env vlen bound cs ps n).get i).cell
      let mode := rmodeOf n.frm
      (∀ (op : ArithOp) (u : Bool) (t : Tag) (as : List Elem) (a b : Elem) (r : List Elem), n.op = .arith op u →
          n.tag = some t → t ≠ .d8s → ActiveAt env n bound e as → operandsOf n as = a :: b :: r →
          let c := r.headD a
          let tags := if op = .fma then [a.tag, b.tag, t, c.tag] else [a.tag, b.tag]
          (∀ x ∈ tags, isInt x = true) →
          let w := 8 * (tags.map tagBytes).foldl max 0
          let x := (BitVec.ofInt w (exactInt op (elemInt a u) (elemInt b u) (elemInt c u))).toInt
          at_ e = .elem ⟨t, intInto t mode x, 0⟩)
        ∧ (∀ (op : ArithOp) (u : Bool) (t : Tag) (as : List Elem) (a b : Elem) (r : List Elem), n.op = .arith op u →
          n.tag = some t → t ≠ .d8s → ActiveAt env n bound e as → operandsOf n as = a :: b :: r →
          let c := r.headD a
          (∃ x ∈ (if op = .fma then [a.tag, b.tag, t, c.tag] else [a.tag, b.tag]), isInt x = false) →
          at_ e = .elem ⟨t, storedIn t mode (exactFloat op mode (a.val u) (b.val u) (c.val u)), 0⟩)
        ∧ (∀ t : Tag, pointwise n.op = true → n.tag = some t → t ≠ .d8s →
          ((∃ x ∈ n.srcs, ((env.row x.node).get e).cell.elem? = none)
            ∨ (∃ p, n.pred = some p ∧ ((env.row p.node).get e).cell.isTrue = false) ∨ bound ≤ e) → at_ e = .off)
        ∧ (∀ (rel : VRel) (u : Bool) (x y : Edge), n.op = .cmp rel u → n.srcs = [x, y] →
          (∀ a b : Elem, ActiveAt env n bound e [a, b] →
              (isInt a.tag = false ∨ isInt b.tag = false → at_ e = .bit (related rel (a.val u) (b.val u)))
                ∧ (isInt a.tag = true → isInt b.tag = true → at_ e = .bit (match rel with
                  | .eq => elemInt a u == elemInt b u
                  | .ne => elemInt a u != elemInt b u
                  | .lt => decide (elemInt a u < elemInt b u)
                  | .le => decide (elemInt a u ≤ elemInt b u)
                  | .gt => decide (elemInt b u < elemInt a u)
                  | .ge => decide (elemInt b u ≤ elemInt a u))))
            ∧ (((env.row x.node).get e).cell.elem? = none ∨ ((env.row y.node).get e).cell.elem? = none
              ∨ (∃ p, n.pred = some p ∧ ((env.row p.node).get e).cell.isTrue = false) → (at_ e).isTrue = false))
        ∧ (∀ op : MaskOp, n.op = .mask op → n.pred = none → e < bound →
          (∀ z ∈ n.srcs, e < (env.row z.node).ents.length) →
          let a (i : Nat) : Bool := ((n.srcs[0]?).map fun x => ((env.row x.node).get i).cell.isTrue).getD true
          let b (i : Nat) : Bool := ((n.srcs[1]?).map fun x => ((env.row x.node).get i).cell.isTrue).getD true
          at_ e = .bit (match op with
            | .and => a e && b e
            | .or => a e || b e
            | .xor => a e != b e
            | .not => !a e
            | .sbf => (List.range (e + 1)).all fun i => !a i
            | .sif => (List.range e).all fun i => !a i))
        ∧ (∀ (t : Tag) (x : Edge), n.op = .comp → n.tag = some t → t ≠ .d8s → n.srcs = [x] → bound = vlen →
          vlen ≤ (env.row x.node).ents.length → (∀ p, n.pred = some p → vlen ≤ (env.row p.node).ents.length) →
          let xs := (List.range vlen).filterMap fun i => if selected env n i then elemAt env x i else none
          ∀ j, at_ j = ((xs[j]?).map fun a => Cell.elem ⟨t, movedInto t (isInt a.tag) mode a, 0⟩).getD .off)
        ∧ (∀ (op : LogicOp) (t : Tag) (as : List Elem) (a b : Elem) (r : List Elem), n.op = .logic op → n.tag = some t →
          isInt t = true → ActiveAt env n bound e as → operandsOf n as = a :: b :: r → isInt a.tag = true → isInt b.tag = true →
          let w := 8 * max (tagBytes a.tag) (tagBytes b.tag)
          at_ e = .elem ⟨t, lowBits (8 * tagBytes t)
            (BitVec.ofInt w (logicP op w (elemInt a (op == .shrLogical)) (elemInt b false))).toInt, 0⟩)
        ∧ (∀ (t : Tag) (x y p : Edge), n.op = .sel → n.tag = some t → t ≠ .d8s → n.srcs = [x, y] → n.pred = some p → e < bound →
          (∀ z ∈ [x, y, p], e < (env.row z.node).ents.length) →
          let z := if selected env n e then x else y
          (elemAt env z e = none → at_ e = .off)
            ∧ (∀ a, elemAt env z e = some a → a.tag = indexTag ns z.node → at_ e
              = .elem ⟨t, movedInto t (isInt (indexTag ns x.node) && isInt (indexTag ns y.node)) mode a, 0⟩))
        ∧ (∀ (op : UnaryOp) (t : Tag) (a : Elem), n.op = .unary op → n.tag = some t → t ≠ .d8s → ActiveAt env n bound e [a] →
          (isInt a.tag = true → op = .abs ∨ op = .neg → at_ e = .elem ⟨t, intInto t mode (BitVec.ofInt (8 * tagBytes a.tag)
              (if op = .abs then (elemInt a false).natAbs else -elemInt a false)).toInt, 0⟩)
            ∧ (isInt a.tag = false → at_ e = .elem ⟨t, storedIn t mode (unaryFloat op (a.val false)), 0⟩
              ∧ ∀ b, exactAt op (a.val false) = some b → at_ e = .elem ⟨t, storedIn t mode (fmtF32.decode b), 0⟩))
        ∧ (∀ (u : Bool) (r : VRound) (t : Tag) (a : Elem), n.op = .cvt u r → n.tag = some t → t ≠ .d8s →
          ActiveAt env n bound e [a] → at_ e = .elem ⟨t, cvtBits t u r n.frm a, 0⟩)
        ∧ (∀ (t : Tag) (w : Word), n.tag = some t → t ≠ .d8s → n.scalar = some w → ActiveAt env n bound e [] →
          (n.op = .splat → at_ e = .elem ⟨t, intInto t mode w.toInt, 0⟩)
            ∧ (n.op = .iota → at_ e = .elem ⟨t, intInto t mode (w.toInt + e), 0⟩))
        ∧ (∀ (op : RedOp) (t : Tag) (x : Edge), n.op = .scan op → n.tag = some t → t ≠ .d8s → n.srcs = [x] → e < bound →
          e < (env.row x.node).ents.length → PredKnown env n e →
          let st := indexTag ns x.node
          let w := 8 * tagBytes st
          let xs := (List.range (if selected env n e then e + 1 else e)).filterMap fun i =>
            if selected env n i then elemAt env x i else none
          RowOf env x.node st →
          (selected env n e = true → elemAt env x e = none → at_ e = .off)
            ∧ ((selected env n e = true → elemAt env x e ≠ none) →
              (isInt st = true → at_ e = .elem ⟨t, intInto t mode (BitVec.ofInt w (intReduced op w xs)).toInt, 0⟩)
                ∧ (isInt st = false → intOperator op = false →
                  at_ e = .elem ⟨t, storedIn t mode (orIdentity op (running op mode (xs.map fun a => some (entered mode a)))), 0⟩)))
        ∧ (∀ (t : Tag) (x : Edge), n.op = .expd → n.tag = some t → t ≠ .d8s → n.srcs = [x] → e < bound → PredKnown env n e →
          at_ e = (((if selected env n e then elemAt env x ((List.range e).countP (selected env n)) else none)).map fun a =>
            Cell.elem ⟨t, movedInto t (isInt a.tag) mode a, 0⟩).getD .off)
        ∧ (∀ (t : Tag) (x y : Edge), n.op = .perm → n.tag = some t → t ≠ .d8s → n.srcs = [x, y] → e < vlen →
          let st := indexTag ns x.node
          (∀ b sc, ps[e]? = some (some (b, sc)) → at_ e = .elem ⟨t, movedInto t (isInt st) mode ⟨st, b, sc⟩, 0⟩)
            ∧ (ps[e]? = some none → at_ e = .off))
        ∧ (∀ (t : Tag) (r : QReg) (d : BitVec 256) (uno cuts : Bool), n.op = .leaf r d uno cuts → n.tag = some t → t ≠ .d8s →
          e < vlen → (∀ c, cs[e]? = some (some c) → at_ e = .elem ⟨t, (converted t mode (streamElem (dFmt d) c)).1, 0⟩)
            ∧ (cs[e]? = some none → at_ e = .off))
        ∧ (∀ m : BitVec 2048, n.op = .kld m → n.srcs = [] → n.pred = none → e < bound → at_ e = .bit (m.getLsbD e)))
    ∧ (∀ (n : Node) (src : Tag) (vlen bound : Nat) (va ix : Row) (pred : Option Row) (faults : List Stop)
        (picked : List (Option (Nat × Int))) (e : Nat), src ≠ .d8s →
      let base := picked.length / 256 * 256
      let top := min (base + 256) vlen
      top ≤ va.ents.length → picked.length ≤ e → e < bound → e < top → e < ix.ents.length →
      (∀ r, pred = some r → e < r.ents.length) →
      (pickWindow n src vlen bound va (some ix) pred faults picked).picked[e]? = some
        (if (pred.map fun r => (r.get e).cell.isTrue).getD true then
          (ix.get e).cell.elem?.bind fun i =>
            let p := base + i.bits % 256
            if p < vlen then (va.get p).cell.elem?.map fun a => (a.bits, a.scale) else none
        else none))
    ∧ (∀ (v : VecState) (env : Env) (vlen lanes : Nat) (g : Sink) (saved : List (Option (Nat × Int))),
      let len := min vlen (sinkLen v g)
      let r := sinkResult v env vlen lanes g saved
      (∀ (op : RedOp) (lam : Bool) (d : Option (Fin 136)), g.op = .red op lam d →
          isInt (indexTag v.forme g.node) = true → RowOf env g.node (indexTag v.forme g.node) →
          let xs := (takesIn env (indexTag v.forme g.node) g saved len).map fun a => elemInt a false
          (op = .sum → r = BitVec.ofInt 64 xs.sum)
            ∧ (op = .min → xs ≠ [] → r.toInt ∈ xs ∧ ∀ x ∈ xs, r.toInt ≤ x)
            ∧ (op = .max → xs ≠ [] → r.toInt ∈ xs ∧ ∀ x ∈ xs, x ≤ r.toInt)
            ∧ r = BitVec.ofInt 64 (intReduced op 64 (takesIn env (indexTag v.forme g.node) g saved len)))
        ∧ (∀ (op : RedOp) (lam : Bool) (d : Option (Fin 136)), g.op = .red op lam d → intOperator op = false →
          isInt (indexTag v.forme g.node) = false → RowOf env g.node (indexTag v.forme g.node) → 1 ≤ lanes → lanes ≤ 128 →
          let mode := rmodeOf g.frm
          r = BitVec.ofNat 64 (fmtF32.round mode (floatReduced op lam mode lanes
            ((cellsIn env (indexTag v.forme g.node) g saved len).map fun x => x.map (entered mode)))).1)
        ∧ (∀ (op : RedOp) (d : Option (Fin 136)) (l : Nat), g.op = .red op true d → r = sinkResult v env vlen l g saved)
        ∧ (∀ (d : Option (Fin 136)), g.pred = none → (∀ e, ((env.row g.node).get e).cell.elem? = none) →
          let m := countBit env g saved
          (g.op = .count .pop d → r = BitVec.ofNat 64 ((List.range len).countP m))
            ∧ (g.op = .count .first d → (∀ j, j < len → m j = true → (∀ i, i < j → m i = false) → r = BitVec.ofNat 64 j)
              ∧ ((∀ j, j < len → m j = false) → r = BitVec.allOnes 64))
            ∧ (g.op = .count .tail d → r = if len ≠ 0 ∧ m (len - 1) = true then 1 else 0)))

namespace Sys2Proof.Claims

/-! ### Encodings and the whole machine -/

/-- Every byte of memory outside the n bytes at a location is as before. -/
def MemoryBut (s t : State) (loc n : Nat) : Prop :=
  ∀ a, ¬ (loc ≤ a ∧ a < loc + n) → memGet t.mem a = memGet s.mem a

/-- A demand point has begun or gone on with the hart's pass, for the unit: a new pass starts at element 0 with no sink
committed, and nothing else of the machine has changed, memory, cores, gangs, tiles and packets included; the leaves that a
write is found to meet move from the hart to its pass (06_forme.md R94, R95; 08_faults.md R121). -/
def PassBegins (s t : State) : Prop :=
  ∃ p : Pass, p.suspended = false ∧ p.demand = s.me.unitPc
    ∧ (s.me.vec.pass = none → p.progress = 0 ∧ p.saved = 0 ∧ p.cut = none ∧ p.outstanding = 0
      ∧ p.commits = s.me.vec.galley.map (fun _ => 0) ∧ p.taken = s.me.vec.galley.map fun _ => [])
    ∧ t = { s with me := { s.me with vec := { s.me.vec with pass := some p }, met := [] } }

/-- The instructions that are demand points by themselves, with their gates (R94). -/
def demandGate (i : Instr) : Option Gate :=
  match i with
  | .fenceFull _ | .fenceRel _ | .fenceAcq _ | .fenceInst _ | .fenceEng _ => some {}
  | .fenceXlat _ => some { supervisor := true }
  | .amoAdd d a b _ _ _ | .amoAnd d a b _ _ _ | .amoOr d a b _ _ _ | .amoXor d a b _ _ _ | .amoMin d a b _ _ _
  | .amoMax d a b _ _ _ | .amoMinu d a b _ _ _ | .amoMaxu d a b _ _ _ | .amoSwap d a b _ _ _ | .amoCas d a b _ _ _ =>
    some (scalarGate [d, a, b] false)
  | .mmodeOn _ => some { mGate [] [] (some false) with passQueue := true }
  | .bar => some {}
  | .endI => some {}
  | _ => none

/-- A copy in flight of the hart meets a leaf of the pass or a pending store sink, so that the pass waits (08_faults.md
R117). -/
def CopyMeetsPass (s : State) (p : Pass) : Prop :=
  (∃ l ∈ p.leaves, l.lo ≤ l.hi ∧ s.me.copyWrites ⟨l.lo, l.hi⟩ = true)
    ∨ ∃ g ∈ s.me.vec.galley, ∃ r, sinkRange s.me.vec g = some r ∧ (s.me.copyWrites r = true ∨ s.me.copyReads r = true)

/-- A pass that runs: not suspended, with no packet out and no copy in its way (R95, R117; 07_streams.md R110). -/
def PassRuns (s : State) (p : Pass) : Prop :=
  s.me.vec.pass = some p ∧ p.suspended = false ∧ p.outstanding = 0 ∧ ¬ CopyMeetsPass s p

/-- The length and the strip length of the pass over the galley (06_forme.md R91, R95; 07_streams.md R112); that sinks of
different lengths give the longest is the model's choice (log 33). -/
def lengthOf (v : VecState) (p : Pass) : Nat :=
  let n := (v.galley.map (sinkLen v)).foldl max 0
  (p.cut.map fun c => min c n).getD n
def stripOf (v : VecState) : Nat := max 1 ((v.galley.head?.map (·.sl)).getD 1)

/-- The end of the strip in which an element lies. -/
def stripEnd (v : VecState) (p : Pass) : Nat := min ((p.progress / stripOf v + 1) * stripOf v) (lengthOf v p)

/-- The scalar that a pending sink writes (06_forme.md R93). -/
def resultOf (g : Sink) : Option (Fin 136) :=
  match g.op with
  | .red _ _ d | .count _ d => d
  | _ => none

/-- No write of a plan goes to the cluster window by a packet (07_streams.md R110). -/
def NoPackets (v : VecState) (pl : Plan) : Prop := ∀ x ∈ v.galley.zip pl.sinks, ∀ c ∈ x.2, pl.s.carriedOf x.1 c = none

/-- The writes of a sink's located commits below an element, in ascending order. -/
def writesBelow (e : Nat) (xs : List Planned) : List (List Piece × List Byte) :=
  (xs.takeWhile fun c => decide (c.due < e)).filterMap fun c => c.write.map fun w => (w.1, w.2.1)

/-- The state with writes made in order, each by the hart (06_forme.md R95; 13_ordering.md R200). -/
def written (s : State) (ws : List (List Piece × List Byte)) : State :=
  ws.foldl (fun u w => (State.writePieces w.1 w.2 u).watchNote .hart .write w.1) s

/-- The pages that the window of an unindexed store sink holds in a strip: those at its beginning, and, each time its elements
come to another page, the pages from there on, each already held or translated then (07_streams.md R113). -/
inductive WindowHolds (d : BitVec 256) (len : Nat) (first : List Translation) : List Translation → Prop
  | start : WindowHolds d len first first
  | slid {pins : List Translation} (u : State) (e : Nat) (h : WindowHolds d len first pins) :
    WindowHolds d len first (Window.fill .write pins (dWin d) (aheadAddrs d (dStart d) e len) ⟨u, [], []⟩).held

/-- A strip of the pass has been read to its end, and its sinks planned below an element, with no fault, no packet and no cut;
the pages of its windows are held (R95, R98; 07_streams.md R113; 08_faults.md R124). -/
def StripPlanned (s : State) (p : Pass) (below : Nat) (w : Sweep) (pl : Plan) : Prop :=
  ∃ s0 q, s.holdPins p = (s0, q)
    ∧ (let u := s0.setVec { s0.me.vec with pass := some q }
       let len := lengthOf s.me.vec p
       u.readStrip q len (stripEnd s.me.vec p) = some (w, len) ∧ w.asks = [] ∧ w.stops = []
         ∧ planSinks u.me.vec w.env len q (u.me.vec.galley.zip q.commits) 0
           { s := w.s, sinks := [], bound := below, stop := none, pins := w.pins } = some pl)
    ∧ pl.stop = none ∧ pl.s.me.cr.confirmed = true ∧ p.saved = 0 ∧ p.commits.length = s.me.vec.galley.length
    ∧ p.taken.length = s.me.vec.galley.length

/-- What the end of a pass leaves: an empty galley, no pass, PASSP at its length, FDEMAND clear, every pending scalar of it
written and no longer pending, and VL cut where a VLDFF cut the pass (R93, R95, R97; 07_streams.md R112). -/
def PassEnds (s t : State) (p : Pass) : Prop :=
  let v := s.me.vec
  let n := lengthOf v p
  t.me.vec.galley = [] ∧ t.me.vec.pass = none ∧ t.me.cr.fdemand.getLsbD 0 = false ∧ t.me.cr.passp = BitVec.ofNat 64 n
    ∧ t.me.cr.vl = (if p.cut = none then s.me.cr.vl else n) ∧ t.me.pc = s.me.pc
    ∧ t.me.cr.vflags ||| s.me.cr.vflags = t.me.cr.vflags
    ∧ (p.commits.length = v.galley.length → p.taken.length = v.galley.length → ∀ before g after i,
      v.galley = before ++ g :: after → resultOf g = some i → (∀ x ∈ after, resultOf x ≠ some i) →
      t.me.regs.get i = sinkResult v (rowsOf v p n n) n s.myCore.lanes g (p.taken.getD before.length [])
        ∧ t.me.pend.get i = false)
    ∧ ∀ i : Fin 136, (∀ g ∈ v.galley, resultOf g ≠ some i) →
      t.me.regs.get i = s.me.regs.get i ∧ t.me.pend.get i = s.me.pend.get i

/-! ### Gangs -/

/-- Bits of a doubleword of a launch descriptor (12_launch.md R165). -/
def field (d i lo n : Nat) : Nat := d / 2 ^ (64 * i + lo) % 2 ^ n

/-- A 56-bit field as an address. -/
def fieldAddr (d i : Nat) : Word := sx56 (BitVec.ofNat 64 (field d i 0 56))

/-- valid(d): the reserved fields zero, every field in its range, every core on a present die (R165, R166, R276). -/
def LaunchValid (s : State) (d : Nat) : Prop :=
  (∀ i ∈ [0, 2, 3, 4, 5], field d i 56 8 = 0) ∧ field d 1 42 22 = 0 ∧ field d 1 31 1 = 0 ∧ field d 6 52 12 = 0
    ∧ field d 7 3 61 = 0 ∧ field d 0 0 56 % 4 = 0 ∧ 1 ≤ field d 1 36 6 ∧ field d 1 36 6 ≤ 32
    ∧ field d 1 32 4 ∈ [1, 2, 4, 8] ∧ field d 1 24 7 ∈ [8, 16, 32, 64] ∧ 1 ≤ field d 1 20 4 ∧ field d 1 20 4 ≤ 8
    ∧ field d 7 0 3 + field d 1 20 4 ≤ 8 ∧ field d 1 0 10 ≤ field d 1 10 10 ∧ field d 1 10 10 ≤ 767
    ∧ field d 3 0 56 ≠ 0 ∧ field d 3 0 56 % 8 = 0 ∧ field d 4 0 56 % 8 = 0 ∧ field d 4 0 56 ≠ field d 3 0 56
    ∧ field d 5 0 56 % 16 = 0 ∧ field d 6 32 20 % 64 = 0 ∧ field d 6 32 20 ≤ 65536
    ∧ ∀ c, field d 1 0 10 ≤ c → c ≤ field d 1 10 10 → s.diesPresent.getLsbD (c / 192) = true

/-- C, the capacity, and SHAPE (R165). -/
def capOf (d : Nat) : Nat := field d 1 20 4 * (field d 1 10 10 + 1 - field d 1 0 10)
def shapeOf (d : Nat) : Nat := field d 6 0 32

/-- The predecessor's place, where the descriptor names one (R334). -/
def PredAt (s : State) (d : Nat) (s1 : State) (l : Option Nat) : Prop :=
  (field d 4 0 56 = 0 ∧ s1 = s ∧ l = none)
    ∨ (field d 4 0 56 ≠ 0 ∧ ∃ x, s.locate (fieldAddr d 4) .read = .ok (s1, x) ∧ l = some x)

/-- A launch is read, valid and free to register: the descriptor, the place of its completion word and of its predecessor,
and the state then (R166, R334). -/
def LaunchReads (a : SReg) (s s3 : State) (d dl : Nat) (pl : Option Nat) : Prop :=
  ∃ s1 loc s2, MayRead s (s.me.reg a) 64 s1 loc ∧ d = valueOf (dwordReads 8 loc s1).2
    ∧ (let u := (dwordReads 8 loc s1).1.watchNote .hart .read [((s.me.reg a).toNat, loc, 64)]
       LaunchValid u d ∧ u.locate (fieldAddr d 3) .write = .ok (s2, dl) ∧ PredAt s2 d s3 pl)
    ∧ ∀ g ∈ s3.gangs, g.live = true → g.doneLoc ≠ dl

/-- A hart's closed allocation holds some of the n bytes at a location: it is provisional and on its core, or squashed and not
yet freed (12_launch.md R176, R178). -/
def Holds (h : Hart) (loc n : Nat) : Bool := h.closed && h.touches loc n

/-- The gang table has room (R166). -/
def TableRoom (s : State) : Prop := (s.gangs.filter fun g => g.live).length < 1024

/-- A gang that a descriptor describes, with n harts, by the launching hart (R165, R166, R168). -/
def Describes (s : State) (d dl : Nat) (pl : Option Nat) (n : Nat) (conf : Bool) (g : Gang) : Prop :=
  g.entry = fieldAddr d 0 ∧ g.args = fieldAddr d 2 ∧ g.slots = field d 1 36 6 ∧ g.partn = field d 1 32 4
    ∧ g.nv = field d 1 24 7 ∧ g.harts = field d 1 20 4 ∧ g.cfirst = field d 1 0 10 ∧ g.clast = field d 1 10 10
    ∧ g.firstSlot = field d 7 0 3 ∧ g.spad = field d 6 32 20 ∧ g.doneLoc = dl ∧ g.predLoc = pl ∧ g.tvec = s.me.cr.tvec
    ∧ g.ptbase = s.me.cr.ptbase ∧ g.count = n ∧ g.confirmed = conf ∧ g.started = [] ∧ g.ended = [] ∧ g.ends = 0

/-- The count that the predictor gives an entry PC on the launching hart's die: the larger of the two stored, the capacity on
a miss, at least 1 (R179). -/
def predicted (s : State) (entry : Word) (cap : Nat) : Nat :=
  let i := (entry.toNat / 4 % 64) ^^^ (entry.toNat / 256 % 64)
  match s.predictor.find? fun e => e.die == dieOf s.me.core && e.index == i && e.entry == entry with
  | none => max 1 cap
  | some e => max 1 (max e.last (e.previous.getD 0))

/-- What HART_START leaves of a hart that starts: number j of its gang, on its core and slot, at the launch values of R168 and
R60. -/
def Launched (g : Gang) (j : Nat) (h : Hart) : Prop :=
  h.status = .running ∧ h.level = .u ∧ h.pc = g.entry ∧ h.reg 1 = g.args ∧ (∀ r : SReg, r ≠ 1 → h.reg r = 0)
    ∧ h.cr.hx = j ∧ h.cr.gn = g.count ∧ h.cr.confirmed = g.confirmed ∧ h.cr.slots = g.slots ∧ h.cr.nv = g.nv
    ∧ h.cr.vl = 0 ∧ h.cr.sl = h.cr.slmax ∧ h.cr.lam = true ∧ h.cr.frm = 0 ∧ h.cr.vflags = 0 ∧ h.cr.mshape = 0x4010
    ∧ h.cr.spillp = 0x0070000000000000 + BitVec.ofNat 64 (65536 * h.slot + 512)
    ∧ h.cr.tvec = g.tvec ∧ h.cr.ptbase = g.ptbase ∧ h.cr.estatus = 2 ∧ h.cr.lc = 0 ∧ h.cr.lend.getLsbD 0 = false
    ∧ (∀ f : Fin 25, h.tokens.get f = 0) ∧ h.vec.forme = [] ∧ h.vec.galley = [] ∧ h.vec.matrix = false
    ∧ (∀ r : Fin 64, h.vec.v.get r = { tag := .f32, state := .empty }) ∧ h.rets = [] ∧ h.spad = g.spad

/-- The state after a TRIG of a hart of a gang: it has triggered, which its gang notes once it is confirmed (R172). -/
def triggered (s : State) : State :=
  { s with
    me := { s.me with triggered := true }
    gangs := s.gangs.map fun g =>
      if s.me.gang = some g.id ∧ s.me.cr.confirmed = true ∧ s.me.cr.hx ∉ g.triggered then
        { g with triggered := s.me.cr.hx :: g.triggered }
      else g }

/-- A completion word after an END: the count in bits 31:0 goes up by 1, VFLAGS is ORed into bits 38:32, and bit 63 is set by
the last (R182). -/
def completion (w : Nat) (flags : BitVec 7) (last : Bool) : Nat :=
  let hi := BitVec.ofNat 64 (w / 2 ^ 32 * 2 ^ 32)
  (hi ||| BitVec.ofNat 64 (flags.toNat * 2 ^ 32) ||| BitVec.ofNat 64 (if last then 2 ^ 63 else 0)).toNat
    + (w + 1) % 2 ^ 32

/-- The barrier that the hart arrives at, or has arrived at (R181). -/
def nextBarrier (h : Hart) : Nat := if h.arrived then h.barriers else h.barriers + 1

/-- Hart i of a gang does not hold barrier k up. -/
def Past (g : Gang) (k i : Nat) : Prop :=
  k ≤ (((g.arrivals.find? fun a => a.1 == i).map (·.2)).getD 0) ∨ i ∈ g.ended ∨ i ∈ g.squashed

/-! ### Tasks and futures -/

/-- A task joins the bottom of a core's deque of fewer than 64 (R183). -/
def pushed (s : State) (core : Nat) (e x : Word) : State :=
  s.setCore { s.coreAt core with deque := (s.coreAt core).deque ++ [(e, x)] }

/-- A task in two registers (R184; 18_reference_a_f.md R260). -/
def given (s : State) (a b : SReg) (e x : Word) : State := (s.setReg a e).setReg b x

/-- The value and the state of a future cell (R185). -/
def cellFull (bs : List Byte) : Prop := bs.getD 8 0 ≠ 0

/-! ### Trace and packets -/

/-- The trace record of the hart at this time (15_debug.md R219, R220). -/
def newRecord (s : State) (p : Word) (ch : BitVec 6) : TraceRecord where
  payload := p
  channel := ch
  hart := s.me.slot
  provisional := !s.me.cr.confirmed
  stamp := s.time.setWidth 48
  owner := s.me.num

/-- A trace record in memory (15_debug.md R220). -/
def recordBytes (r : TraceRecord) : List Byte :=
  leBytes 8 r.payload.toNat
    ++ leBytes 8 (r.channel.toNat * 2 ^ 58 + r.hart % 8 * 2 ^ 55 + (if r.provisional then 2 ^ 54 else 0) + r.stamp.toNat)

/-- The records that wait for room at the hart's core once its TRACE has issued: its own was made, and its time read, when it
issued (15_debug.md R219). -/
def waitingRecords (s : State) (p : Word) (ch : BitVec 6) : List TraceRecord :=
  if s.myCore.traceWait.any fun r => r.owner == s.me.num then s.myCore.traceWait
  else s.myCore.traceWait ++ [newRecord s p ch]

/-- The places that a packet's offsets name, in the scratchpad of its owner, a core of the requester's cluster (07_streams.md
R110); a write that packets hold back, kind 4, names its own place (log 22). -/
def packetPlaces (p : Packet) : List Nat :=
  if p.kind = 4 then p.offsets
  else p.offsets.map fun o => 2 ^ 52 + (p.requester / 128 * 16 + p.owner) * 2 ^ 19 + o

/-- The bytes of each element of a packet. -/
def packetWidth (p : Packet) : Nat := if p.kind = 4 then p.data.length else 2 ^ p.size

/-- The positions that a packet carries, in ascending order. -/
def packetPositions (p : Packet) : List Nat :=
  ((List.range 64).filter fun b => p.mask.getLsbD b).map fun b => p.group + b

/-- No place of a packet lies in the allocation of a provisional hart other than its requester, or in one of a squashed hart
that is not yet zeroed (12_launch.md R176; 13_ordering.md R201). -/
def PacketFree (s : State) (p : Packet) : Prop :=
  ∀ l ∈ packetPlaces p, ∀ h ∈ s.harts, h.num ≠ p.requester → h.cr.confirmed = false →
    (h.resident = true ∨ h.status = .squashed) → h.touches l (packetWidth p) = false

/-- A write may perform: it is the first write of its requester, every acknowledgement that it must follow has come, and
PacketFree holds (R111; log 22). -/
def MayPerform (s : State) (p : Packet) : Prop :=
  (p.kind = 2 ∨ p.kind = 4)
    ∧ (s.packets.find? fun q => (q.kind == 2 || q.kind == 4) && q.requester == p.requester) = some p
    ∧ (p.wait = true → ∀ q ∈ s.packets, q.kind = 3 → q.requester ≠ p.requester) ∧ PacketFree s p

/-- The oldest write that may perform. -/
def NextWrite (s : State) (p : Packet) : Prop :=
  ∃ before after, s.packets = before ++ p :: after ∧ MayPerform s p ∧ ∀ q ∈ before, ¬ MayPerform s q

/-- The oldest packet of a kind (R110). -/
def Oldest (s : State) (kind : Nat) (p : Packet) : Prop :=
  ∃ before after, s.packets = before ++ p :: after ∧ p.kind = kind ∧ ∀ q ∈ before, q.kind ≠ kind

/-- A pass that has been answered: what came is added and one packet fewer is out. -/
def answered (h : Hart) (got : List (Nat × Nat × Nat)) : Hart :=
  { h with vec := { h.vec with pass := h.vec.pass.map fun p =>
      { p with got := p.got ++ got, outstanding := p.outstanding - 1 } } }

/-- Memory with a packet's elements, of n bytes each, stored at its places in order. -/
def storedAt (m : List Host.Cell) : List Nat → Nat → List Byte → List Host.Cell
  | [], _, _ => m
  | l :: r, n, bs => storedAt (memPut m l (bs.take n)) r n (bs.drop n)

/-! ### Management -/

/-- An image is accepted: it is signed, not below the rollback counter, and its slot is marked valid (16_system.md R234). -/
def Accepted (f : Firmware) (x : FwSlot) : Prop :=
  ∃ i, x.image = some i ∧ x.valid = true ∧ i.signed = true ∧ f.rollback ≤ i.version

/-- The running image has not yet reported healthy (R234). -/
def Awaited (f : Firmware) : Prop := f.running ≠ none ∧ f.healthy = false

/-- The slot that runs. -/
def runningSlot (f : Firmware) : Option FwSlot := f.running.map fun b => if b then f.slotB else f.slotA

/-- Both slots hold what they held. -/
def SlotsKept (f f' : Firmware) : Prop := f'.slotA = f.slotA ∧ f'.slotB = f.slotB

/-- The slot of the running image is marked invalid, its image kept; the other slot is as it was (R234). -/
def Condemned (f f' : Firmware) : Prop :=
  (f.running = some false → f'.slotA = { f.slotA with valid := false } ∧ f'.slotB = f.slotB)
    ∧ (f.running = some true → f'.slotB = { f.slotB with valid := false } ∧ f'.slotA = f.slotA)

/-- The first posted record of the mailbox carries a code (R237): its address, and a byte of memory behind its STATUS. -/
def Posted (s : State) (code r : Nat) : Prop :=
  s.posted = some r ∧ s.mgmtDword r % 256 = code ∧ s.mgmtSpan (r + 1) 1 = 1 ∧ memWf s.mem = true

/-- The STATUS of a mailbox record (R237). -/
def status (s : State) (r : Nat) : Nat := (memGet s.mem (r + 1)).toNat

/-- The header of a core dump (15_debug.md R230): complete unless it was truncated or a write failed, the bytes and records
written, the time and the buffer's size. -/
def dumpHead (s : State) (len count size : Nat) (trunc fault : Bool) : List Byte :=
  ([(!trunc && !fault).toNat * 2 ^ 63 + trunc.toNat * 2 ^ 62 + fault.toNat * 2 ^ 61 + Config.partId % 2 ^ 20 * 2 ^ 16 + 1,
    len, count, s.time.toNat, size, 0, 0, 0] : List Nat).flatMap (leBytes 8)

/-- The first two doublewords of the type 1 record of a core (R230): 464 bytes of payload. -/
def coreHead (core : Nat) : List Byte := ([2 ^ 56 + core % 2 ^ 10 * 2 ^ 46 + 464, 0] : List Nat).flatMap (leBytes 8)

/-- A hart of the cores of a dump can stop at once (R230; 12_launch.md R186): no packet of its pass is out, and no copy of its
own or into its allocation is in flight. -/
def CanStop (s : State) (h : Hart) : Prop :=
  (∀ p, h.vec.pass = some p → p.outstanding = 0) ∧ h.copies = []
    ∧ ∀ x ∈ s.harts, ∀ c ∈ x.copies, c.targets x.core h = false

/-- The miller harts of a die (15_debug.md R229). -/
def millersOf (d : Nat) : List Nat := [6144 + 2 * d, 6144 + 2 * d + 1]

/-! ### Frames -/

/-- The registers that taking an exception writes are as before, or an exception was taken (14_traps.md R208). -/
def ExceptionFrame (s t : State) : Prop :=
  (t.me.cr.epc = s.me.cr.epc ∧ t.me.cr.ecause = s.me.cr.ecause ∧ t.me.cr.eva = s.me.cr.eva
      ∧ t.me.cr.estatus = s.me.cr.estatus ∧ t.me.level = s.me.level)
    ∨ ∃ c eva, Traps s t c eva

/-- Every control register is as before but LC, LEND's armed bit, VFLAGS, FBLAME, FELEM and those that an exception writes. -/
def ControlFrame (s t : State) : Prop :=
  t.me.cr = { s.me.cr with
    lc := t.me.cr.lc, lend := t.me.cr.lend, vflags := t.me.cr.vflags, fblame := t.me.cr.fblame, felem := t.me.cr.felem
    epc := t.me.cr.epc, ecause := t.me.cr.ecause, eva := t.me.cr.eva, estatus := t.me.cr.estatus }
    ∧ keepBits t.me.cr.lend 55 2 = keepBits s.me.cr.lend 55 2

/-- Nothing of the vector state but the pass has changed. -/
def VectorFrame (s t : State) : Prop := t.me.vec = { s.me.vec with pass := t.me.vec.pass }

/-- Every scalar but those named is as before. -/
def ScalarFrame (s t : State) (dst : List SReg) : Prop :=
  ∀ p : Fin 136, (∀ d ∈ dst, d ≠ 0 → p ≠ s.me.phys d) → t.me.regs.get p = s.me.regs.get p

/-- The register that a scalar instruction without memory access names as its destination, if any. -/
def scalarOnly (i : Instr) (s : State) : Option (List SReg) :=
  match i with
  | .nop | .br _ _ _ _ | .jmp _ | .jmpr _ | .trap _ | .brk _ => some []
  | .crd d _ => some [d]
  | i =>
    match aluSpec i s.me, fpSpec i s with
    | some (d, _), _ => some [d]
    | _, some (d, _) => some [d]
    | _, _ => none

/-- The registers of a core that CWR writes, or that follow from what it writes: the trace registers, the watchpoints, the STALL
counters and the slot tables. Every other field of the core, and every other core, is as before. -/
def CoreFrame (s t : State) : Prop :=
  let c := t.myCore
  c = { s.myCore with
    slots := c.slots, trbase := c.trbase, trsize := c.trsize, trhead := c.trhead, trdrops := c.trdrops
    trptbase := c.trptbase, wpad := c.wpad, wpmask := c.wpmask, wpctl := c.wpctl, wowner := c.wowner, wloc := c.wloc
    stall := c.stall }
    ∧ ∀ n, n ≠ s.me.core → t.coreAt n = s.coreAt n

/-- The control registers that LOOP, ERET and a CWR of a row other than CTXBASE's may write, by number (04_registers.md R70). -/
def systemWrites (i : Instr) (s : State) : Option (List Nat) :=
  match i with
  | .loop _ _ => some [0x009, 0x00A, 0x00B]
  | .eret => some [0x303]
  | .cwr _ n => some [n.toNat]
  | .cwrTimecmp _ => some [0x308]
  | .cwrPtbase _ => some [0x306]
  | .cwrSpillp _ => some [0x305]
  | .cwrSlots _ => some [0x203]
  | .cwrLend _ => some [0x00B]
  | .cwrVflags _ => some [0x008]
  | .cwrMshape _ => some (if s.me.vec.matrix then [0x500, 0x000] else [0x500])
  | .cwrBndsize _ => some [0x502]
  | .cwrBstat _ => some [0x503]
  | .cwrTraceRegs _ n => some [0x400 + n.toNat]
  | .cwrWatchpoint _ n => some [0x410 + n.toNat]
  | _ => none

/-- A byte lies in no level-3 or level-2 leaf PTE through which an address is translated, in a state (14_traps.md R215, R216). -/
def OffLeaf (s u : State) (va a : Nat) : Prop :=
  ∀ l p large, (u.walk s.me.cr.ptbase va).2 = some (l, p, large) → ¬ (l ≤ a ∧ a < l + 8)

/-- The instructions that append to the forme or the galley, in pass mode, and the scalar that they make pending. -/
def appends (i : Instr) (s : State) : Prop :=
  (nodeSpec i s.regTag).isSome = true
    ∨ (s.me.vec.matrix = false ∧ ((maskSpec i).isSome = true ∨ ∃ v q c o p, i = .vld v q c p o ∨ i = .vst v q c p o))
    ∨ (∃ v q c p, i = .vldff v q c p) ∨ (∃ v q x c p o, i = .vldx v q x c p o ∨ i = .vstx v q x c p o)
    ∨ (∃ d a op m p, i = .vred d a op m p)

end Sys2Proof.Claims

/-- Decoding the word that the encoder gives a well-formed instruction gives it back, with every operand at every value. -/
def Obligations.DecodeEncode : Prop := ∀ i : Instr, i.wf = true → decode (encode i) = some i

/-- Every word has at most one reading and every field of it counts: what a word decodes to is well formed and encodes as
that word, so two words never decode to one instruction, and a word with a reserved field set decodes to none. -/
def Obligations.DecodeUnique : Prop :=
  ∀ (w : Nat) (i : Instr), w < 2 ^ 32 → decode w = some i → i.wf = true ∧ encode i = w

/-- Words that the manual prints decode to the instructions that it prints beside them, one of each family at least, and a
word of no instruction to none (03_formats.md R43, R44; the word tables of 04_registers.md, 07_streams.md, 09_control.md,
10_matrix.md, 12_launch.md, 15_debug.md and the references 18 to 20). -/
def Obligations.DecodeWords : Prop :=
  decode 0x05095002 = some (.add 8 9 10 true) ∧ decode 0x09090010 = some (.addImm 8 9 16)
    ∧ decode 0x20FFFFFF = some (.li 7 0x1FFFFF) ∧ decode 0x25091040 = some (.bfx 8 9 4 8)
    ∧ decode 0x290951CE = some (.fcmp 8 9 10 .un true) ∧ decode 0x2D09BFFC = some (.ld 8 9 .w true 0x1FFC)
    ∧ decode 0x31F18000 = some (.st 15 17 .w 0) ∧ decode 0x350954B4 = some (.amoCas 8 9 10 false .ar .cluster)
    ∧ decode 0x39C00000 = some (.fenceEng .package) ∧ decode 0x41213FFD = some (.br .lt 8 9 0x1FFD)
    ∧ decode 0x47FFFFFE = some (.jmp 0x3FFFFFE) ∧ decode 0x49000005 = some (.call .regs16 5)
    ∧ decode 0x51000003 = some (.loop 8 3) ∧ decode 0x54010001 = some (.trap 1) ∧ decode 0x58C00301 = some (.crd 6 0x301)
    ∧ decode 0x5D200006 = some (.cwr 9 6) ∧ decode 0x612A0000 = some (.vconf 9 10) ∧ decode 0x65800003 = some (.qset 12 3)
    ∧ decode 0x68100084 = some (.vld 1 0 false 2 true) ∧ decode 0x6C631E0C = some (.vstx 6 3 7 true 0 true)
    ∧ decode 0x70304250 = some (.vadd 3 1 2 false true 2) ∧ decode 0x743042CD = some (.vsel 3 1 2 true true 1)
    ∧ decode 0x783048C5 = some (.vcvt 3 1 true true 0 .satRne) ∧ decode 0x7C30530E = some (.vshrUVs 3 1 9 true 0)
    ∧ decode 0x812042C2 = some (.vcmp true 2 1 2 true true 0 .lt) ∧ decode 0x84C48020 = some (.kxor 3 1 2)
    ∧ decode 0x88F0C280 = some (.vred 15 3 .max true 0) ∧ decode 0x90040040 = some (.mmodeOn 2)
    ∧ decode 0x95108050 = some (.mma 2 8 16 true false .neg) ∧ decode 0x9830D008 = some (.zst 0 12 13)
    ∧ decode 0x9D200020 = some (.bdim 9 32) ∧ decode 0xA12B6000 = some (.cpy 9 11 12)
    ∧ decode 0xA5600040 = some (.launchP 11) ∧ decode 0xA40000C0 = some .trig ∧ decode 0xA9095000 = some (.spawn 8 9 10)
    ∧ decode 0xAD490040 = some (.fput 10 9) ∧ decode 0xB1000003 = some (.trace 8 3) ∧ decode 0xB410C006 = some (.vtag 1 3 .bf16)
    ∧ decode 0xC2B00000 = some (.tok true 2 true 4) ∧ decode 0xC4080000 = some (.ext 0x80000)
    ∧ decode 0xC0000000 = none ∧ decode 0xFFFFFFFF = none

/-- Every step keeps the canonical form of memory: addresses rising, and no entry equal to what an unlisted address reads
as (the model's choice, log 1). -/
def Obligations.MemoryInvariant : Prop :=
  ∀ s t : State, memWf s.mem = true → step s = .next t → memWf t.mem = true

/-- Package reset leaves TIME at 0, TIMECMP at all ones, no hart resident, no gang, translation or watchpoint, an empty forme
and galley, TRBASE, TRSIZE, TRHEAD and TRDROPS at 0, and memory in its canonical form. The canonical form is the model's choice
(log 1), and so is the reset value of a register that the manual gives none, as VL's 0 (log 2). -/
def Obligations.ResetState : Prop :=
  memWf State.reset.mem = true ∧ State.reset.time = 0 ∧ (∀ h ∈ State.reset.harts, h.resident = false)
    ∧ State.reset.me.cr.timecmp = BitVec.allOnes 64 ∧ State.reset.me.cr.tvec = 0 ∧ State.reset.me.cr.estatus = 0
    ∧ State.reset.me.cr.epc = 0 ∧ State.reset.me.cr.ecause = 0 ∧ State.reset.me.cr.eva = 0 ∧ State.reset.me.cr.fdemand = 0
    ∧ State.reset.me.cr.ctxbase = 0 ∧ State.reset.me.cr.tlbinva = 0 ∧ State.reset.me.cr.bstat = 0
    ∧ State.reset.me.cr.frm = 0 ∧ State.reset.me.cr.vl = 0 ∧ State.reset.gangs = [] ∧ State.reset.tlb = []
    ∧ State.reset.me.vec.forme = [] ∧ State.reset.me.vec.galley = []
    ∧ ∀ n, (State.reset.coreAt n).trbase = 0 ∧ (State.reset.coreAt n).trsize = 0 ∧ (State.reset.coreAt n).trhead = 0
      ∧ (State.reset.coreAt n).trdrops = 0 ∧ ∀ i : Fin 4, (State.reset.coreAt n).wpctl.get i = 0

/-- A demand point runs the pass before its instruction takes any other effect: an instruction that names a pending scalar;
a fence, an AMO, MMODE.ON, BAR and END while the galley holds a sink; and a load of bytes that a pending store will write.
Nothing but the hart's pass changes then, the token that an instruction takes as it issues, and, for a load, the units noted as
the cause of its wait: a pending scalar's pass runs before its instruction issues, and takes no token. That a pass which an
instruction's own rules demand runs after the token is taken is the model's reading (log 15). -/
def Obligations.DemandPoints : Prop :=
  (∀ (i : Instr) (s : State) (d r : SReg) (rs : List SReg) (ext : Bool) (v : Word),
      aluSpec i s.me = some (d, rs, ext, v) → i.wf = true → Issues { scalarGate rs ext with scalars := [] } s →
      s.handlerBypass = false → r ∈ rs → s.me.isPending r = true → ∃ t, exec i s = .next t ∧ PassBegins s t)
    ∧ (∀ (i : Instr) (g : Gate) (s : State), demandGate i = some g → Issues g s → s.me.miller = false →
      s.me.vec.galley ≠ [] → s.handlerBypass = false → (i = .bar ∨ i = .endI → s.me.cr.confirmed = true) →
      (∀ n, i = .mmodeOn n → s.me.vec.tileCount = 0 ∨ s.me.vec.tileCount = n.toNat) →
      (∀ op d a b n, amoSpec i = some (op, d, a, b, n) → (s.me.reg a).toNat % n = 0 ∧ s.me.cr.confirmed = true) →
      ∃ t, exec i s = .next t ∧ PassBegins (s.takeIssued g.queue) t)
    ∧ (∀ (d b : SReg) (z : MemSize) (x : Bool) (o : BitVec 13) (s s1 : State) (loc : Nat),
      let va := address s.me b o
      let n := bytesOf z
      Issues (scalarGate [d, b] true) s → va.toNat % n = 0 → s.locate va .read = .ok (s1, loc) →
      s1.watchOwn va.toNat n .read = [] → s1.handlerBypass = false → meetsSink s1.me.vec (rangeOf va n) = true →
      ∃ t, exec (.ld d b z x o) s = .next t ∧ PassBegins ((s1.heldBack (rangeOf va n) false).takeIssued .s) t)

/-- The turns of a pass. One that waits or is suspended stays. One with no strip left completes: the galley empties, each
pending scalar of it takes its result and is pending no more, FDEMAND is invalid and PASSP is its length. A strip without a
fault makes every write of its store sinks, in galley order, each at the address of the sink's stream at the element's
position from START on, through the pages that the sink's window holds, with the element converted to the stream's format; the
pass then moves on, or completes with the last strip. A pass that an interrupt finds inside a strip stops at an element: the
writes below it are made, those of an unchained sink only below the strip, PASSP and FDEMAND are set, and the pass is
suspended. -/
def Obligations.PassTurns : Prop :=
  (∀ (s : State) (p : Pass), s.me.vec.pass = some p →
      (p.suspended = true ∨ p.outstanding ≠ 0 ∨ CopyMeetsPass s p) → exec .passStrip s = .next s)
    ∧ (∀ s : State, s.me.vec.pass = none → exec .passStrip s = .next s ∧ ∀ e, exec (.passElementStop e) s = .next s)
    ∧ (∀ (s : State) (e : Nat), s.me.draining = true → exec (.passElementStop e) s = .next s)
    ∧ (∀ (s : State) (p : Pass), PassRuns s p → lengthOf s.me.vec p ≤ p.progress → ∃ t, exec .passStrip s = .next t
      ∧ PassEnds s t p ∧ t.mem = s.mem ∧ t.others = s.others ∧ t.cores = s.cores ∧ t.gangs = s.gangs
      ∧ t.me.vec.tiles = s.me.vec.tiles)
    ∧ (∀ (s : State) (p : Pass) (w : Sweep) (pl : Plan), PassRuns s p → p.progress < lengthOf s.me.vec p →
      let top := stripEnd s.me.vec p
      StripPlanned s p top w pl → NoPackets s.me.vec pl →
      let u := written pl.s (pl.sinks.flatMap (writesBelow top))
      (top = lengthOf s.me.vec p → ∃ t, exec .passStrip s = .next t ∧ t.mem = u.mem ∧ t.me.vec.galley = []
          ∧ t.me.vec.pass = none ∧ (∀ g ∈ s.me.vec.galley, ∀ i, resultOf g = some i → t.me.pend.get i = false)
          ∧ t.me.pc = pl.s.me.pc)
        ∧ (top < lengthOf s.me.vec p → ∃ (s3 : State) (p3 : Pass), s3.mem = u.mem ∧ p3.progress = top ∧ p3.suspended = false
          ∧ s3.me.vec.galley.length = s.me.vec.galley.length ∧ s3.me.regs = pl.s.me.regs
          ∧ exec .passStrip s = .next ((s3.holdPins p3).1.setVec { (s3.holdPins p3).1.me.vec with
            pass := some (s3.holdPins p3).2 })))
    ∧ (∀ (v : VecState) (env : Env) (len n gi : Nat) (p : Pass) (g : Sink) (z pl : Plan) (q : QReg) (d : BitVec 256)
        (uno : Bool), g.op = .store q d uno none → dFmt d ≠ .d8s → g.node ∉ compNodes v.forme →
      planSinks v env len p [(g, n)] gi z = some pl → ∃ xs, pl.sinks = z.sinks ++ [xs]
        ∧ ∀ x ∈ xs, n ≤ x.pos ∧ x.pos < min len (sinkLen v g) ∧ ∀ ps bs f, x.write = some (ps, bs, f) →
          ∃ a u1 u2 pins, ((env.row g.node).get x.pos).cell = .elem a
            ∧ bs = leBytes (tagBytes (dFmt d)) (converted (dFmt d) (rmodeOf g.frm) a).1
            ∧ f = (converted (dFmt d) (rmodeOf g.frm) a).2
            ∧ WindowHolds d (min len (sinkLen v g)) (p.pinsOf (2 * gi + 1)) pins
            ∧ State.locateItems (some pins) (some (streamAddr d (dStart d))) .write
              [(streamAddr d ((dStart d + x.pos) % 2 ^ 40), tagBytes (dFmt d))] u1 = .ok (u2, ps))
    ∧ (∀ (s : State) (p : Pass) (e : Nat) (w : Sweep) (pl : Plan), PassRuns s p → p.progress < e → e < stripEnd s.me.vec p →
      estatusBit s 1 = true → s.me.cr.timecmp.toNat ≤ s.time.toNat → s.me.yieldTurns = 0 → s.me.draining = false →
      StripPlanned s p e w pl →
      NoPackets s.me.vec pl →
      let v := s.me.vec
      let limit (g : Sink) : Nat := if sinkChained v g then e else min e (p.progress / stripOf v * stripOf v)
      ∃ t, exec (.passElementStop e) s = .next t
        ∧ t.mem = (written pl.s ((v.galley.zip pl.sinks).flatMap fun x => writesBelow (limit x.1) x.2)).mem
        ∧ t.me.cr.passp = BitVec.ofNat 64 e ∧ t.me.cr.fdemand = (p.demand &&& span 55 2) ||| 1 ∧ t.me.regs = pl.s.me.regs
        ∧ t.me.pend = pl.s.me.pend ∧ t.me.vec.galley.length = v.galley.length
        ∧ ∃ p', t.me.vec.pass = some p' ∧ p'.suspended = true ∧ p'.progress = e ∧ p'.saved = e)

/-- LAUNCH of a valid descriptor enters its gang, confirmed, with SHAPE harts or C; LAUNCH.P one with the published count, or
with a predicted one that is not confirmed; a gang of no hart is done at once, or, while its completion word lies in the
closed allocation of a provisional hart, stays live with nothing written. A descriptor that is not valid, one whose SHAPE
exceeds C, and a LAUNCH.P without a cell are ILLEGAL at the descriptor; while the gang table is full a LAUNCH stalls and nothing
changes. The descriptor is read by eight doubleword reads. That the completion word and the predecessor are translated, and their
A and D bits set, before the SHAPE and cell checks is the model's choice (log 21). -/
def Obligations.LaunchResult : Prop :=
  (∀ (a : SReg) (s s3 : State) (d dl : Nat) (pl : Option Nat), Issues (scalarGate [a] false) s →
      s.me.cr.confirmed = true → LaunchReads a s s3 d dl pl →
      let n := if shapeOf d = 0 then capOf d else shapeOf d
      (shapeOf d ≤ capOf d → ¬ TableRoom s3 → exec (.launch a) s = .next s)
        ∧ (shapeOf d ≤ capOf d → TableRoom s3 → s.me.signalBlocked .s = false → ∃ t g, exec (.launch a) s = .next t ∧ t.gangs = s3.gangs ++ [g]
          ∧ Describes s3 d dl pl n true g ∧ g.live = true ∧ t.mem = s3.mem ∧ t.me.regs = s3.me.regs
          ∧ t.me.vec = s3.me.vec)
        ∧ (capOf d < shapeOf d → exec (.launch a) s = .next (s.takeTrap s3 .illegal (s.me.reg a))))
    ∧ (∀ (a : SReg) (s s3 s4 s6 : State) (d dl cl loc : Nat) (pl : Option Nat), Ready (scalarGate [a] false) s →
      s.me.cr.confirmed = true → LaunchReads a s s3 d dl pl → field d 5 0 56 ≠ 0 → MayRead s3 (fieldAddr d 5) 8 s4 loc →
      let u := (s4.readLoc loc 8).1.watchNote .hart .read [((fieldAddr d 5).toNat, loc, 8)]
      let c := valueOf (s4.readLoc loc 8).2
      let shape := if shapeOf d = 0 then predicted s6 (fieldAddr d 0) (capOf d) else shapeOf d
      u.locate (fieldAddr d 5) .read = .ok (s6, cl) → TableRoom s6 →
      (2 ^ 63 ≤ c → c % 2 ^ 32 ≠ 0 → ∃ t g, exec (.launchP a) s = .next t ∧ t.gangs = s6.gangs ++ [g]
          ∧ Describes s6 d dl pl (min (c % 2 ^ 32) (capOf d)) true g ∧ g.live = true ∧ t.mem = s6.mem)
        ∧ (2 ^ 63 ≤ c → c % 2 ^ 32 = 0 → (∀ h ∈ s6.harts, Holds h dl 8 = false) → ∃ t, exec (.launchP a) s = .next t
          ∧ (∃ g ∈ t.gangs, g.id = s6.nextGang ∧ g.count = 0 ∧ g.live = false)
          ∧ t.mem = (s6.performWrite dl (leBytes 8 (2 ^ 63))).mem)
        ∧ (2 ^ 63 ≤ c → c % 2 ^ 32 = 0 → (∃ h ∈ s6.harts, Holds h dl 8 = true) → ∃ t g, exec (.launchP a) s = .next t
          ∧ t.gangs = s6.gangs ++ [g] ∧ Describes s6 d dl pl 0 true g ∧ g.live = true ∧ t.mem = s6.mem)
        ∧ (c < 2 ^ 63 → ∃ t g, exec (.launchP a) s = .next t ∧ t.gangs = s6.gangs ++ [g]
          ∧ Describes s6 d dl pl (min (capOf d) shape) false g ∧ g.live = true ∧ g.cellLoc = some cl ∧ t.mem = s6.mem))
    ∧ (∀ (a : SReg) (s s1 : State) (loc : Nat), Issues (scalarGate [a] false) s → s.me.cr.confirmed = true →
      MayRead s (s.me.reg a) 64 s1 loc →
      let u := (dwordReads 8 loc s1).1.watchNote .hart .read [((s.me.reg a).toNat, loc, 64)]
      ¬ LaunchValid u (valueOf (dwordReads 8 loc s1).2) →
      exec (.launch a) s = .next (s.takeTrap u .illegal (s.me.reg a))
        ∧ exec (.launchP a) s = .next (s.takeTrap u .illegal (s.me.reg a)))
    ∧ (∀ (a : SReg) (s s3 : State) (d dl : Nat) (pl : Option Nat), Issues (scalarGate [a] false) s →
      s.me.cr.confirmed = true → LaunchReads a s s3 d dl pl → field d 5 0 56 = 0 →
      exec (.launchP a) s = .next (s.takeTrap s3 .illegal (s.me.reg a)))

/-- HART_START makes a hart of a gang that may start resident with its launch values, at U, and notes it; it starts none on a
slot that is taken, on a core of another group count, or whose predecessor is not confirmed. -/
def Obligations.HartStarts : Prop :=
  (∀ (s : State) (n j : Nat) (g : Gang), s.gang? n = some g → s.mayStart g j = true →
      let core := g.cfirst + j / g.harts
      let slot := g.firstSlot + j % g.harts
      ∃ t h, exec (.hartStart n j) s = .next t ∧ t.hart? (8 * core + slot) = some h ∧ h.core = core ∧ h.slot = slot
        ∧ Launched g j h ∧ t.mem = s.mem ∧ (∃ g', t.gang? n = some g' ∧ g'.started = j :: g.started))
    ∧ (∀ (s : State) (n j : Nat) (g : Gang), s.gang? n = some g →
      let core := g.cfirst + j / g.harts
      let slot := g.firstSlot + j % g.harts
      ((∃ h ∈ s.harts, h.core = core ∧ h.slot = slot ∧ h.resident = true) → exec (.hartStart n j) s = .next s)
        ∧ ((∃ h ∈ s.harts, h.core = core ∧ h.resident = true) → (s.coreAt core).partn ≠ g.partn →
          exec (.hartStart n j) s = .next s)
        ∧ (∀ l, g.predLoc = some l → (∃ x ∈ s.gangs, x.live = true ∧ x.doneLoc = l ∧ x.id ≠ g.id) →
          (∀ x ∈ s.gangs, x.live = true → x.doneLoc = l → x.id ≠ g.id → x.confirmed = false) →
          exec (.hartStart n j) s = .next s)
        ∧ ((g.live = false ∨ g.count ≤ j ∨ j ∈ g.started ∨ j ∈ g.squashed) → exec (.hartStart n j) s = .next s))

/-- SHAPE writes the true count into its cell. A publication that becomes visible confirms every gang that watched the cell when
it was made, with the published count or C, which its harts then read as GN; with none to come, the completion word that
a gang of no hart has had to wait with is written, done, once no closed allocation holds it, and the gang is over; a confirmed
hart's buffered stores perform in program order; a squashed hart's are discarded, it leaves its core, and only its own
allocation changes, to zeros, once no copy targets it. -/
def Obligations.ShapePublished : Prop :=
  (∀ (a b : SReg) (s s1 : State) (loc : Nat),
      let va := s.me.reg a
      Ready (scalarGate [a, b] false) s → va.toNat % 16 = 0 → (s.me.reg b).toNat < 2 ^ 32 → s.me.cr.confirmed = true →
      s.wouldRun = false → WriteOpen s .write va 8 s1 loc →
      Retires .s (.shape a b) s (((s1.writeLoc loc (leBytes 8 (2 ^ 63 + (s.me.reg b).toNat))).spoil (rangeOf va 8)
        s1.me.pc).watchNote .hart .write [(va.toNat, loc, 8)]))
    ∧ (∀ (s : State) (p : Publication) (rest : List Publication), s.pubs = p :: rest → (s.gangs.map (·.id)).Nodup →
      ∃ t, exec .shapePublication s = .next t
        ∧ (∀ g ∈ s.gangs, g.live = true → g.confirmed = false → g.cellLoc = some p.loc → g.id ∈ p.gangs →
          ∃ g' ∈ t.gangs, g'.id = g.id ∧ g'.confirmed = true ∧ g'.count = min p.count (g.harts * (g.clast + 1 - g.cfirst))
            ∧ (s.me.gang = some g.id → t.me.cr.gn = g'.count))
        ∧ (∀ g ∈ s.gangs, ¬ (g.live = true ∧ g.confirmed = false ∧ g.cellLoc = some p.loc ∧ g.id ∈ p.gangs) → g ∈ t.gangs)
        ∧ t.me.regs = s.me.regs ∧ t.me.pc = s.me.pc)
    ∧ (∀ s : State, s.pubs = [] →
      let due (g : Gang) : Prop := g.live = true ∧ g.confirmed = true ∧ g.count = 0 ∧ ∀ h ∈ s.harts, Holds h g.doneLoc 8 = false
      ((∀ g ∈ s.gangs, ¬ due g) → exec .shapePublication s = .next s)
        ∧ ∀ before g after, s.gangs = before ++ g :: after → due g → (∀ x ∈ before, ¬ due x) → (s.gangs.map (·.id)).Nodup →
          ∃ t, exec .shapePublication s = .next t ∧ t.mem = (s.performWrite g.doneLoc (leBytes 8 (2 ^ 63))).mem
            ∧ t.gangs = before ++ { g with live := false } :: after)
    ∧ (∀ (s : State) (g : Gang), s.myGang = some g → g.confirmed = true → s.me.cr.confirmed = false →
      s.me.resident = true → s.me.brun = none →
      (s.me.cr.hx < g.count → (∀ p ∈ s.me.prov, s.place p.loc = .ram ∧ s.heldByOther p.loc p.bytes.length = false) → ∃ t, exec .hartConfirm s = .next t
          ∧ t.me.cr.confirmed = true ∧ t.me.prov = [] ∧ t.mem = s.me.prov.foldl (fun m p => memPut m p.loc p.bytes) s.mem
          ∧ t.me.regs = s.me.regs ∧ t.me.vec = s.me.vec ∧ t.me.pc = s.me.pc)
        ∧ (g.count ≤ s.me.cr.hx → (∀ h ∈ s.others, h.status ≠ .squashed ∧ h.num ≠ s.me.num) →
          let targeted := ∃ h ∈ s.harts, ∃ c ∈ h.copies, c.targets h.core s.me = true
          ∃ t, exec .hartSquash s = .next t ∧ t.me.status = .squashed ∧ t.me.prov = []
          ∧ t.me.vec.galley = [] ∧ t.me.vec.tileCount = 0
          ∧ (targeted → t.mem = s.mem)
          ∧ (memWf s.mem = true → MemoryBut s t s.me.allocBase s.me.spad)
          ∧ (memWf s.mem = true → ¬ targeted → ∀ i, i < s.me.spad → memGet t.mem (s.me.allocBase + i) = 0)))

/-- TRIG is the word 0xA400_00C0; it is no demand point, orders nothing, takes effect once, and on a miller core is ignored:
whatever the galley holds it retires at once, noting that the hart lets dependants of its gang become resident. -/
def Obligations.TrigRule : Prop :=
  decode 0xA40000C0 = some .trig
    ∧ (∀ s : State, Ready {} s → s.me.miller = true → Retires .s .trig s s)
    ∧ (∀ s : State, Ready {} s → s.me.miller = false → Retires .s .trig s (triggered s))
    ∧ ∀ s : State, triggered (triggered s) = triggered s

/-- WPRED retires once the predecessor's completion word is done, and at once without one; BAR retires once every hart of the
gang has arrived, ended or been squashed and its token finds room, and otherwise waits with its arrival counted once; it stalls
while its hart is provisional, and is ignored on a miller core; END counts the hart into the completion word, and the hart leaves
its core; it waits while a copy is in flight, or completed with its token still to be given, and stalls while its hart is
provisional, before it runs a pass. A miller core's END retires without its token. An instruction that waits has taken its token,
and one that stalls has not (log 15). That a read of WPRED which does not end the wait sends no watch record is the model's
choice (log 21). -/
def Obligations.GangWaits : Prop :=
  (∀ s : State, Issues {} s →
      ((∀ g, s.myGang = some g → g.predLoc = none) → s.me.signalBlocked .s = false → Retires .s .wpred s s)
        ∧ (∀ g l, s.myGang = some g → g.predLoc = some l → s.watchOwn g.pred.toNat 8 .read = [] →
          s.heldByOther l 8 = false →
          (2 ^ 63 ≤ valueOf (s.readLoc l 8).2 → s.me.signalBlocked .s = false →
              Retires .s .wpred s ((s.readLoc l 8).1.watchNote .hart .read [(g.pred.toNat, l, 8)]))
            ∧ (valueOf (s.readLoc l 8).2 < 2 ^ 63 → exec .wpred s = .next ((s.readLoc l 8).1.takeIssued .s))))
    ∧ (∀ s : State, Issues {} s →
      (s.me.miller = true → s.me.signalBlocked .s = false → Retires .s .bar s s)
        ∧ (s.me.miller = false → s.me.cr.confirmed = false → exec .bar s = .next s)
        ∧ (s.me.cr.confirmed = true → s.myGang = none → s.wouldRun = false → s.me.signalBlocked .s = false →
          Retires .s .bar s s)
        ∧ (∀ g, s.myGang = some g → s.wouldRun = false → s.me.cr.confirmed = true →
          let k := nextBarrier s.me
          ((∀ i, i < g.count → (i = s.me.cr.hx ∧ s.me.arrived = false) ∨ Past g k i) →
              s.me.signalBlocked .s = false → ∃ u, Retires .s .bar s u
              ∧ u.me.barriers = k ∧ u.me.arrived = false ∧ u.mem = s.mem ∧ u.me.regs = s.me.regs ∧ u.me.vec = s.me.vec)
            ∧ ((∃ i, i < g.count ∧ ¬ (i = s.me.cr.hx ∧ s.me.arrived = false) ∧ ¬ Past g k i)
                ∨ s.me.signalBlocked .s = true → ∃ t, exec .bar s = .next t
              ∧ t.me.pc = s.me.pc ∧ t.me.barriers = k ∧ t.me.arrived = true ∧ t.mem = s.mem ∧ t.me.regs = s.me.regs)))
    ∧ (∀ s : State, Issues {} s →
      (s.me.miller = true → exec .endI s = .next (retire .s s s false))
        ∧ (s.me.miller = false → s.me.cr.confirmed = false → exec .endI s = .next s)
        ∧ (s.me.miller = false → s.me.cr.confirmed = true → s.wouldRun = false →
          (s.me.copies ≠ [] ∨ ∃ o ∈ s.me.owed, o.1 = .c) → exec .endI s = .next (s.takeIssued .s))
        ∧ (∀ g, s.myGang = some g → s.wouldRun = false → s.me.copies = [] → (∀ o ∈ s.me.owed, o.1 ≠ .c) → s.me.cr.confirmed = true →
          s.heldByOther g.doneLoc 8 = false → s.place g.doneLoc = .ram → s.hasError g.doneLoc 8 = false →
          s.watchOwn (sx56 s.me.cr.complp).toNat 8 .write = [] →
          let last := decide (g.ends + 1 = g.count)
          ∃ t, exec .endI s = .next t ∧ t.me.status = .ended ∧ t.me.vec.tileCount = 0 ∧ t.me.vec.matrix = false
            ∧ t.mem = memPut s.mem g.doneLoc (leBytes 8 (completion (valueOf (s.view g.doneLoc 8)) s.me.cr.vflags last))
            ∧ ∃ g', t.gang? g.id = some g' ∧ g'.ends = g.ends + 1 ∧ g'.live = (g.live && !last)))

/-- SPAWN and DQPUSH put a task at the bottom of the home core's or the own core's deque, and are ILLEGAL for entry 0; DQPOP
takes the bottom task and DQSTEAL the top one, or zeros; DQSTEAL of a core that is not there is ILLEGAL; a provisional hart
stalls before each of the four, and nothing changes; the oldest of more than 64 tasks waits in the deque area, at a place that
the manual leaves open (log 13). -/
def Obligations.TaskResult : Prop :=
  (∀ (a b c : SReg) (s s1 : State) (h : Nat), Issues (scalarGate [a, b, c] false) s → s.me.cr.confirmed = true →
      (s.me.reg b = 0 → exec (.spawn a b c) s = .next (s.takeTrap s .illegal 0))
        ∧ (s.me.reg b ≠ 0 → s.home (s.me.reg a) = .ok (s1, h) → s.me.signalBlocked .s = false →
          (s1.coreAt h).deque.length < 64 → Retires .s (.spawn a b c) s (pushed s1 h (s.me.reg b) (s.me.reg c)))
        ∧ (∀ s2 e, s.me.reg b ≠ 0 → s.home (s.me.reg a) = .error (s2, e) →
          exec (.spawn a b c) s = .next (s.takeTrap s2 e (s.me.reg a))))
    ∧ (∀ (a b c : SReg) (s : State), s.me.cr.confirmed = false →
      (Issues (scalarGate [a, b, c] false) s → exec (.spawn a b c) s = .next s ∧ exec (.dqsteal a b c) s = .next s)
        ∧ (Issues { scalarGate [a, b] false with miller := false } s → exec (.dqpush a b) s = .next s)
        ∧ (Issues (scalarGate [a, b] false) s → s.me.miller = false → exec (.dqpop a b) s = .next s))
    ∧ (∀ (a b : SReg) (s : State), Issues { scalarGate [a, b] false with miller := false } s → s.me.cr.confirmed = true →
      let c := s.coreAt s.me.core
      (s.me.reg a = 0 → exec (.dqpush a b) s = .next (s.takeTrap s .illegal 0))
        ∧ (s.me.reg a ≠ 0 → s.me.signalBlocked .s = false → c.deque.length < 64 →
          Retires .s (.dqpush a b) s (pushed s s.me.core (s.me.reg a) (s.me.reg b)))
        ∧ (∀ base e x rest, s.me.reg a ≠ 0 → s.me.signalBlocked .s = false → c.deque = (e, x) :: rest → c.deque.length = 64 →
          s.capData 1 = some base → c.spilled.length < 4096 → c.spilled.Nodup → ∃ i u, i < 4096 ∧ i ∉ c.spilled
            ∧ Retires .s (.dqpush a b) s u
            ∧ u.coreAt s.me.core = { c with
              deque := rest ++ [(s.me.reg a, s.me.reg b)]
              spilled := c.spilled ++ [i] }
            ∧ u.mem = memPut s.mem (base + 65536 * s.me.core + 16 * i) (leBytes 8 e.toNat ++ leBytes 8 x.toNat)))
    ∧ (∀ (a b : SReg) (s : State), Ready (scalarGate [a, b] false) s →
      let c := s.coreAt s.me.core
      (s.me.miller = true → Retires .s (.dqpop a b) s (given s a b 0 0))
        ∧ (s.me.miller = false → s.me.cr.confirmed = true → c.deque = [] → Retires .s (.dqpop a b) s (given s a b 0 0))
        ∧ (∀ e x before, s.me.miller = false → s.me.cr.confirmed = true → c.deque = before ++ [(e, x)] → c.spilled = [] →
          Retires .s (.dqpop a b) s (given (s.setCore { c with deque := before }) a b e x)))
    ∧ (∀ (a b c : SReg) (s : State), Issues (scalarGate [a, b, c] false) s → s.me.cr.confirmed = true →
      let v := (s.me.reg c).toNat
      let k := s.coreAt v
      ((767 < v ∨ s.diesPresent.getLsbD (v / 192) = false) →
          exec (.dqsteal a b c) s = .next (s.takeTrap s .illegal 0))
        ∧ (v ≤ 767 → s.diesPresent.getLsbD (v / 192) = true → s.me.signalBlocked .s = false → k.spilled = [] →
          (k.deque = [] → Retires .s (.dqsteal a b c) s (given s a b 0 0))
            ∧ (∀ e x rest, k.deque = (e, x) :: rest →
              Retires .s (.dqsteal a b c) s (given (s.setCore { k with deque := rest }) a b e x))))

/-- FWAIT of a full cell gives its value and of an empty one parks the hart; FPUT of an empty cell fills it and wakes every hart
parked there with the value, and of a full one raises FUTFULL; both need a multiple of 16. A woken hart whose token finds no
room keeps the value, which its FWAIT writes when it retires, whatever the cell holds then. YIELD sets the pause of the front
end and 32 strip turns, and is ignored on a miller core; the pause then ends. That the cell is accessed as 9 bytes, that FPUT
itself retires the FWAIT which it wakes and that an event ends the pause are the model's choices (log 30). -/
def Obligations.FuturesAndYield : Prop :=
  (∀ (a b : SReg) (s s1 : State) (loc : Nat),
      let c := s.me.reg b
      let u := (s1.readLoc loc 9).1.watchNote .hart .read [(c.toNat, loc, 9)]
      Issues (scalarGate [a, b] false) s → s.me.woke = none → c.toNat % 16 = 0 → ReadOpen s c 9 s1 loc →
      (cellFull (s1.readLoc loc 9).2 → s.me.signalBlocked .s = false → Retires .s (.fwait a b) s (u.setReg a
          (BitVec.ofNat 64 (valueOf ((s1.readLoc loc 9).2.take 8)))))
        ∧ (¬ cellFull (s1.readLoc loc 9).2 → exec (.fwait a b) s = .next (State.takeIssued { u with me := { u.me with
          status := .parked loc a } } .s)))
    ∧ (∀ (a b : SReg) (s : State) (v : Word), Ready (scalarGate [a, b] false) s → s.me.woke = some v →
      Retires .s (.fwait a b) s (s.setReg a v))
    ∧ (∀ (a b : SReg) (s s1 : State) (loc : Nat),
      let c := s.me.reg a
      let v := s.me.reg b
      Issues (scalarGate [a, b] false) s → c.toNat % 16 = 0 → s.me.cr.confirmed = true → WriteOpen s .write c 9 s1 loc →
      s1.place loc = .ram → s1.hasError loc 9 = false →
      (¬ cellFull (s1.readLoc loc 9).2 → s.me.signalBlocked .s = false → ∃ t, exec (.fput a b) s = .next t
          ∧ t.mem = memPut s1.mem loc (leBytes 8 v.toNat ++ [1]) ∧ t.me.regs = s1.me.regs
          ∧ (∀ h ∈ s1.others, ∀ d, h.status = .parked loc d → ∃ h' ∈ t.others, h'.num = h.num ∧ h'.status = .running
            ∧ (h.signalBlocked .s = false → ∀ p : Fin 136, h'.regs.get p = if d ≠ 0 ∧ p = h.phys d then v else h.regs.get p)
            ∧ (h.signalBlocked .s = true → h' = { h with status := .running, woke := some v }))
          ∧ (∀ h ∈ s1.others, (∀ d, h.status ≠ .parked loc d) → h ∈ t.others))
        ∧ (cellFull (s1.readLoc loc 9).2 → exec (.fput a b) s = .next (s.takeTrap s1 .futfull c)))
    ∧ (∀ (a b : SReg) (s : State), Issues (scalarGate [a, b] false) s →
      (s.me.woke = none → (s.me.reg b).toNat % 16 ≠ 0 → exec (.fwait a b) s = .next (s.takeTrap s .misalign (s.me.reg b)))
        ∧ ((s.me.reg a).toNat % 16 ≠ 0 → s.me.cr.confirmed = true → exec (.fput a b) s = .next (s.takeTrap s .misalign (s.me.reg a))))
    ∧ (∀ s : State, Ready {} s → Retires .s .yield s (if s.me.miller then s
      else { s with me := { s.me with pause := true, yieldTurns := 32 } }))
    ∧ (∀ s : State, exec .yieldPauseEnd s = .next { s with me := { s.me with pause := false } })

/-- TRACE does nothing with TRSIZE = 0. Else its record is made, with the time, when it issues, and enters the FIFO in the order
of issue: while 64 records are in the FIFO, or a record of an earlier TRACE waits, it waits too. The oldest record is written
to the buffer at TRHEAD, which moves on by 16 modulo TRSIZE, or dropped and counted where its translation fails. A watch record
reaches its core's queue, is dropped when eight wait there, and is discarded when its owner has gone. That a record's write and
a watch record's arrival are events, and how waiting records are kept, are the model's choices (log 23). -/
def Obligations.TraceAndWatch : Prop :=
  (∀ (a : SReg) (ch : BitVec 6) (s : State), Ready (scalarGate [a] false) s →
      let c := s.myCore
      (c.trsize = 0 → Retires .s (.trace a ch) s s)
        ∧ (∀ r rest, c.trsize ≠ 0 → waitingRecords s (s.me.reg a) ch = r :: rest →
          (r.owner = s.me.num → c.traceFifo.length < 64 → Retires .s (.trace a ch) s (s.setCore { c with
              traceFifo := c.traceFifo ++ [r]
              traceWait := rest }))
            ∧ ((r.owner ≠ s.me.num ∨ 64 ≤ c.traceFifo.length) →
              exec (.trace a ch) s = .next ((s.setCore { c with traceWait := r :: rest }).takeIssued .s))))
    ∧ (∀ (s : State) (core : Nat) (r : TraceRecord) (rest : List TraceRecord),
      let c := s.coreAt core
      c.traceFifo = r :: rest → r.owner = s.me.num →
      let at_ := s.traceLoc c.trptbase (sx56 c.trbase + c.trhead)
      let next : Core := { c with
        traceFifo := rest
        trhead := BitVec.ofNat 64 ((c.trhead.toNat + 16) % c.trsize.toNat) }
      (∀ s1 loc, at_ = (s1, some loc) → s1.heldByOther loc 16 = false →
          exec (.traceRecordWrite core) s = .next ((s1.performWrite loc (recordBytes r)).setCore next))
        ∧ (∀ s1, at_ = (s1, none) → exec (.traceRecordWrite core) s = .next (s1.setCore { next with
          trdrops := if c.trdrops = 0xFFFFFFFF then c.trdrops else c.trdrops + 1 })))
    ∧ (∀ (s : State) (r : WatchRecord) (rest : List WatchRecord), s.watchFlight = r :: rest →
      let s1 : State := { s with watchFlight := rest }
      let c := s.coreAt r.core
      ((∀ h ∈ s.harts, h.num = r.owner → h.resident = false) → exec .watchRecord s = .next s1)
        ∧ ((∃ h ∈ s.harts, h.num = r.owner ∧ h.resident = true) →
          (8 ≤ c.watchQueue.length → exec .watchRecord s = .next (s1.setCore { c with lost := r.owner :: c.lost }))
            ∧ (c.watchQueue.length < 8 → exec .watchRecord s = .next (s1.setCore { c with
              watchQueue := c.watchQueue ++ [{ r with lost := decide (r.owner ∈ c.lost) }]
              lost := c.lost.filter fun n => n != r.owner }))))

/-- The packets of the cluster window: the owner answers the oldest read request with the bytes at its places, and performs the
oldest write that may perform: writes of one requester in order, one that must follow others only when no acknowledgement of
its requester is still under way; the requester's pass takes what a reply carries, and counts each answer. That a packet's
steps are events, and that a write which earlier packets of its pass hold back waits among them, are the model's choices
(log 22). -/
def Obligations.PacketResult : Prop :=
  (∀ (s : State) (p : Packet), Oldest s 0 p → PacketFree s p → (∀ l ∈ packetPlaces p, s.hasError l (2 ^ p.size) = false) →
      exec .spadReadRequest s = .next { s with packets := s.packets.erase p ++ [{ p with
        kind := 1
        offsets := []
        data := (packetPlaces p).flatMap fun l => (List.range (2 ^ p.size)).map fun i => memGet s.mem (l + i) }] })
    ∧ (∀ (s : State) (p : Packet), Oldest s 1 p → p.requester = s.me.num →
      let value (i : Nat) : Nat := valueOf ((p.data.drop (i * 2 ^ p.size)).take (2 ^ p.size))
      exec .spadReadReply s = .next { s with
        packets := s.packets.erase p
        me := answered s.me ((packetPositions p).mapIdx fun i e => (p.leaf, e, value i)) })
    ∧ (∀ (s : State) (p : Packet), NextWrite s p → p.kind = 4 → p.requester = s.me.num →
      s.place (p.offsets.headD 0) = .ram → ∃ t, exec .spadWrite s = .next t
        ∧ t.mem = memPut s.mem (p.offsets.headD 0) p.data ∧ t.me = answered s.me [] ∧ t.packets = s.packets.erase p)
    ∧ (∀ (s : State) (p : Packet), NextWrite s p → p.kind = 2 → ∃ t, exec .spadWrite s = .next t
        ∧ t.mem = storedAt s.mem (packetPlaces p) (2 ^ p.size) p.data ∧ t.me = s.me ∧ t.others = s.others
        ∧ t.packets = s.packets.erase p ++ [{ p with kind := 3, offsets := [], data := [] }])
    ∧ (∀ (s : State) (p : Packet), Oldest s 3 p → p.requester = s.me.num →
      exec .spadWriteAck s = .next { s with packets := s.packets.erase p, me := answered s.me [] })

/-- Package reset starts TIME at 0 with no gang and no translation, and its miller harts at S at their entry, or, with no
image accepted or no die present, no hart at all: the controller is in recovery, where no report and no time-out counts. A
report of health within 60 s advances the rollback counter; an image that has not reported by then is marked invalid, no other
slot changing, and the package reset, the management image before the miller image (log 24); an update is written into the
slot not in use and is valid only once it verifies. The form of these events, with what a boot brings as their arguments, is
the model's choice (log 24), and so are the reset values that the manual does not give and the miller harts' start (log 4). -/
def Obligations.FirmwareResult : Prop :=
  (∀ (b : BootInputs) (s : State), ∃ t, exec (.packageReset b) s = .next t ∧ t.time = 0 ∧ t.gangs = [] ∧ t.tlb = []
      ∧ t.packets = [] ∧ t.booted = true
      ∧ (¬ Accepted s.mgmt s.mgmt.slotA → ¬ Accepted s.mgmt s.mgmt.slotB →
        t.log = s.log ++ [.recovery] ∧ t.recovery = true ∧ ∀ h ∈ t.harts, h.resident = false)
      ∧ ((b.dieUp = 0 ∨ (¬ Accepted s.millerFw s.millerFw.slotA ∧ ¬ Accepted s.millerFw s.millerFw.slotB)) →
        t.recovery = true ∧ t.millerFw.running = none ∧ ∀ h ∈ t.harts, h.resident = false)
      ∧ ((Accepted s.mgmt s.mgmt.slotA ∨ Accepted s.mgmt s.mgmt.slotB) → b.dieUp ≠ 0 →
        (Accepted s.millerFw s.millerFw.slotA ∨ Accepted s.millerFw s.millerFw.slotB) →
        t.recovery = false ∧ t.diesPresent = b.dieUp ∧ ∀ d, d < 4 → b.dieUp.getLsbD d = true → ∀ n ∈ millersOf d, ∃ h ∈ t.others,
          h.num = n ∧ h.status = .running ∧ h.level = .s ∧ h.miller = true ∧ h.pc = sx56 (b.entry &&& span 55 2)
          ∧ h.cr.tvec = b.tvec &&& span 55 2 ∧ h.cr.ptbase = b.ptbase &&& span 51 12))
    ∧ (∀ s : State, (s.recovery = true ∨ 60000000000 ≤ s.time.toNat) → exec .healthReport s = .next s)
    ∧ (∀ s : State, s.recovery = false → s.time.toNat < 60000000000 →
      (Awaited s.mgmt → ∃ f : Firmware, exec .healthReport s = .next { s with mgmt := f } ∧ f.healthy = true
          ∧ s.mgmt.rollback ≤ f.rollback ∧ ∀ x i, runningSlot s.mgmt = some x → x.image = some i →
            f.rollback = max s.mgmt.rollback i.version)
        ∧ (¬ Awaited s.mgmt → Awaited s.millerFw → ∃ f : Firmware, exec .healthReport s = .next { s with millerFw := f }
          ∧ f.healthy = true ∧ s.millerFw.rollback ≤ f.rollback)
        ∧ (¬ Awaited s.mgmt → ¬ Awaited s.millerFw → exec .healthReport s = .next s))
    ∧ (∀ (b : BootInputs) (s : State),
      ((s.recovery = true ∨ s.time.toNat < 60000000000) → exec (.healthTimeout b) s = .next s)
        ∧ (s.recovery = false → 60000000000 ≤ s.time.toNat → Awaited s.mgmt → ∃ t, exec (.healthTimeout b) s = .next t ∧ t.time = 0
          ∧ MgmtEvent.imageInvalid ∈ t.log ∧ Condemned s.mgmt t.mgmt ∧ SlotsKept s.millerFw t.millerFw)
        ∧ (s.recovery = false → 60000000000 ≤ s.time.toNat → ¬ Awaited s.mgmt → Awaited s.millerFw →
          ∃ t, exec (.healthTimeout b) s = .next t ∧ t.time = 0 ∧ MgmtEvent.imageInvalid ∈ t.log
            ∧ SlotsKept s.mgmt t.mgmt ∧ Condemned s.millerFw t.millerFw)
        ∧ (¬ Awaited s.mgmt → ¬ Awaited s.millerFw → exec (.healthTimeout b) s = .next s))
    ∧ (∀ (u : FirmwareUpload) (s : State),
      let f := match u.kind with
        | .management => s.mgmt
        | .miller => s.millerFw
      let ok := u.image.signed && decide (f.rollback ≤ u.image.version)
      let x : FwSlot := { image := some u.image, valid := ok }
      let f' : Firmware := if f.running = some false then { f with slotB := x } else { f with slotA := x }
      let log := s.log ++ (if ok then [] else [.firmwareRefused])
      exec (.firmwareUpdate u) s = .next (match u.kind with
        | .management => { s with mgmt := f', log := log }
        | .miller => { s with millerFw := f', log := log }))

/-- The controller serves the first posted mailbox record: sensors, attestation and the event log are answered done where
memory backs their results, and failed where it does not; a migration request is refused for a PTE that is no valid 256 KiB
leaf or is in migration already, and fails where its record or a frame is not backed; else it stays posted while the page
moves, and is done, if it is still posted, with the last chunk. A core dump of cores that are not there is refused; one whose
buffer cannot take the header fails; any other waits until the harts of its cores can stop, and is then carried out: their
passes stop, the header and the first core's record are in the buffer, and STATUS is done, or failed where a write failed.
With no record posted nothing happens. A chunk that the migration engine has copied reads in the new frame as it did in the
old. The sensor values (log 9), the STATUS of a dump that fails early (log 11), the refusal of a misaligned migration, STATUS
failed for an unbacked one and STATUS done with its last chunk (log 25) are the model's choices. -/
def Obligations.MailboxResult : Prop :=
  (∀ s : State, s.posted = none → exec .mbxCoreDump s = .next s ∧ exec .mbxMigratePage s = .next s
      ∧ exec .mbxReadSensors s = .next s ∧ exec .mbxAttestation s = .next s ∧ exec .mbxReadEventLog s = .next s)
    ∧ (∀ (s : State) (r : Nat), Posted s 3 r → ∃ t, exec .mbxReadSensors s = .next t
      ∧ status t r = (if s.mgmtSpan (s.argument r 1) 456 = 456 then 2 else 4))
    ∧ (∀ (s : State) (r : Nat), Posted s 4 r → ∃ t, exec .mbxAttestation s = .next t
      ∧ status t r = (if s.mgmtSpan (s.argument r 2) 256 = 256 then 2 else 4))
    ∧ (∀ (s : State) (r : Nat), Posted s 5 r → ∃ t, exec .mbxReadEventLog s = .next t
      ∧ status t r = (if s.mgmtSpan (s.argument r 1) (s.argument r 2) = s.argument r 2 then 2 else 4))
    ∧ (∀ (s : State) (r : Nat), Posted s 2 r →
      let p := s.mgmtDword (s.argument r 1)
      let leaf := p % 2 = 1 ∧ p / 32 % 2 = 1 ∧ p / 2 ^ 52 = 0 ∧ p / 512 % 2 = 0 ∧ p / 2 ^ 10 % 2 ^ 8 = 0
      let frame := s.argument r 3 / 2 ^ 18 % 2 ^ 34 * 2 ^ 18
      let ram (x : Nat) : Prop := s.place x = .ram ∧ s.place (x + 262143) = .ram
      let backed := s.mgmtSpan (s.argument r 2) 64 = 64 ∧ ram (p / 2 ^ 10 * 2 ^ 10) ∧ ram frame
      let apart := ∀ x n, (x, n) ∈ [(s.argument r 1, 8), (s.argument r 2, 24)] → r + 1 < x ∨ x + n ≤ r + 1
      ∃ t, exec .mbxMigratePage s = .next t
        ∧ (p / 256 % 2 = 1 ∨ ¬ leaf → status t r = 3 ∧ t.migrations = s.migrations)
        ∧ (p / 256 % 2 = 0 → leaf → s.argument r 1 % 8 = 0 → s.argument r 2 % 1024 = 0 → backed → apart →
          status t r = 1 ∧ t.migrations = s.migrations
            ++ [{ pte := s.argument r 1, record := s.argument r 2, mailbox := r }])
        ∧ (p / 256 % 2 = 0 → leaf → (s.argument r 1 % 8 ≠ 0 ∨ s.argument r 2 % 1024 ≠ 0) →
          status t r = 3 ∧ t.migrations = s.migrations)
        ∧ (p / 256 % 2 = 0 → leaf → s.argument r 1 % 8 = 0 → s.argument r 2 % 1024 = 0 → ¬ backed →
          status t r = 4 ∧ t.migrations = s.migrations))
    ∧ (∀ (s : State) (r : Nat), Posted s 1 r →
      let a := s.argument r 1
      let b := s.argument r 2
      ((b < a ∨ 767 < b ∨ ∃ c, a ≤ c ∧ c ≤ b ∧ s.diesPresent.getLsbD (c / 192) = false) →
          ∃ t, exec .mbxCoreDump s = .next t ∧ status t r = 3)
        ∧ (a ≤ b → b ≤ 767 → (∀ c, a ≤ c → c ≤ b → s.diesPresent.getLsbD (c / 192) = true) →
          let pa := s.argument r 3
          let size := s.argument r 4
          let dumped (h : Hart) : Prop := a ≤ h.core ∧ h.core ≤ b ∧ h.resident = true
          ((∃ h ∈ s.harts, dumped h ∧ ¬ CanStop s h) → exec .mbxCoreDump s = .next s)
            ∧ ((∀ h ∈ s.harts, dumped h → CanStop s h) →
              ((size < 64 ∨ s.mgmtSpan pa 64 < 64) → ∃ t, exec .mbxCoreDump s = .next t ∧ status t r = 4)
                ∧ (64 ≤ size → s.mgmtSpan pa 64 = 64 → (r + 1 < pa ∨ pa + size ≤ r + 1) → (s.harts.map (·.num)).Nodup →
                  (∀ h ∈ s.harts, h.core ≤ 767 → h.slot < 8 ∧ h.num = 8 * h.core + h.slot) →
                  ∃ t len count trunc fault, exec .mbxCoreDump s = .next t ∧ status t r = (if fault then 4 else 2)
                    ∧ memBytes t.mem pa 64 = dumpHead s len count size trunc fault ∧ 64 ≤ len ∧ len ≤ size
                    ∧ (fault = false → trunc = false → b + 1 - a ≤ count)
                    ∧ (544 ≤ size → s.mgmtSpan (pa + 64) 480 = 480 → memBytes t.mem (pa + 64) 16 = coreHead a
                      ∧ memBytes t.mem (pa + 80) 8 = leBytes 8 (s.coreAt a).lmod)
                    ∧ ∀ h ∈ t.harts, dumped h → ∀ p, h.vec.pass = some p → p.suspended = true))))
    ∧ (∀ (s : State) (i : Nat) (m : Migration), s.migrations[i]? = some m → memWf s.mem = true →
      let old := s.mgmtDword m.record / 2 ^ 18 % 2 ^ 34 * 2 ^ 18
      let new := s.mgmtDword (m.record + 8) / 2 ^ 18 % 2 ^ 34 * 2 ^ 18
      let k := s.mgmtDword (m.record + 16) % 2 ^ 19
      (m.record + 24 ≤ new ∨ new + 262144 ≤ m.record) → (m.pte + 8 ≤ new ∨ new + 262144 ≤ m.pte) →
      (m.mailbox + 1 < new ∨ new + 262144 ≤ m.mailbox + 1) → k + 4096 ≤ 262144 →
      ∃ t, exec (.migrationChunkCopied i) s = .next t
        ∧ (∀ j, j < 4096 → memGet t.mem (new + k + j) = memGet s.mem (old + k + j))
        ∧ (k + 4096 < 262144 → t.migrations = s.migrations)
        ∧ (k + 4096 = 262144 → t.migrations = s.migrations.erase m
          ∧ (s.mgmtDword m.mailbox / 256 % 256 = 1 → s.mgmtSpan (m.mailbox + 1) 1 = 1 →
            (∀ x, x = m.record + 16 ∨ x = m.pte → m.mailbox + 1 < x ∨ x + 8 ≤ m.mailbox + 1) → status t m.mailbox = 2)))

/-- A die link that fails its third retrain in a row runs at half width: the event is logged, and both miller cores of each of
its two dies get a MACHINE record with EVA 0. A retrain that succeeds starts the count again. -/
def Obligations.LinkRetrains : Prop :=
  ∀ (a b i : Nat) (s : State), [(0, 1), (0, 2), (0, 3), (1, 2), (1, 3), (2, 3)][i]? = some (a, b) →
    s.diesPresent.getLsbD a = true → s.diesPresent.getLsbD b = true → (∀ h ∈ s.others, h.num ≠ s.me.num) →
    let failed := s.retrains.toList.getD i 0
    let count (n : Nat) : State := { s with retrains := s.retrains.setIfInBounds i n }
    let tell (h : Hart) : Hart :=
      if h.num ∈ millersOf a ++ millersOf b then { h with machine := h.machine ++ [0] } else h
    exec (.linkRetrain a b true) s = .next (count 0)
      ∧ (failed ≠ 2 → exec (.linkRetrain a b false) s = .next (count (failed + 1)))
      ∧ (failed = 2 → exec (.linkRetrain a b false) s = .next { count 3 with
        linkHalf := s.linkHalf ||| BitVec.ofNat 6 (2 ^ i)
        log := s.log ++ [.linkHalf a b]
        me := tell s.me
        others := s.others.map tell })

/-- The other events of the package: clocks move by 250 MHz between 2.0 and 4.0 GHz and change no result; a shutdown stops the
package; a lane table is rewritten only for a core without a resident hart and by one lane at most; a remote device's write
and AMO perform on memory; and after a time-out the hart's next access to the remote window fails: a load returns all ones, a
store is dropped, and MACHINE becomes pending with the physical address. What a failed access does is the manual's; that it is
the next one which fails is the model's choice (log 10), and so is it that any other lane-table request has no effect, and that
a die's clock rises by the same event as the others (log 24). -/
def Obligations.PackageEvents : Prop :=
  (∀ s : State, exec .powerLimitThrottle s = .next { s with clock := s.clock.map fun c => max 2000 (c - 250) }
      ∧ exec .powerLimitRecover s = .next { s with clock := s.clock.map fun c => min 4000 (c + 250) }
      ∧ (∃ t, exec .thermalShutdown s = .next t ∧ t.stopped = true ∧ t.log = s.log ++ [.shutdown] ∧ t.mem = s.mem
        ∧ ∀ u, step t ≠ .next u)
      ∧ exec .remoteAccessTimeout s = .next { s with me := { s.me with remoteFail := true } })
    ∧ (∀ (d b : SReg) (z : MemSize) (x : Bool) (o : BitVec 13) (s s1 : State) (loc : Nat),
      let va := address s.me b o
      let n := bytesOf z
      let u : State := { s1 with me := { s1.me with
        remoteFail := false
        machine := s1.me.machine ++ [BitVec.ofNat 64 loc] } }
      s1.place loc = .remote → s1.me.remoteFail = true → Ready (scalarGate [d, b] true) s →
      (MayRead s va n s1 loc → s1.me.prov = [] → Retires .s (.ld d b z x o) s
          ((u.watchNote .hart .read [(va.toNat, loc, n)]).setReg d (extended n (2 ^ (8 * n) - 1) x)))
        ∧ (MayWrite s .write va n s1 loc → s1.me.cr.confirmed = true → Retires .s (.st d b z o) s
          ((u.spoil (rangeOf va n) s1.me.pc).watchNote .hart .write [(va.toNat, loc, n)])))
    ∧ (∀ (c : Nat) (s : State), ∃ k, exec (.thermalThrottle c) s = .next { s with clock := k }
      ∧ ∀ d : Fin 4, k.get d = if d.val = c / 12 then max 2000 (s.clock.get d - 250) else s.clock.get d)
    ∧ (∀ (core lmod : Nat) (m : BitVec 136) (s : State),
      let c := s.coreAt core
      let count (x : BitVec 136) : Nat := ((List.range 136).filter fun i => x.getLsbD i).length
      let sound := count m = lmod ∧ ((lmod = c.lmod ∧ count (m &&& ~~~c.assigned) ≤ 1)
        ∨ (lmod + 1 = c.lmod ∧ m &&& ~~~c.assigned = 0))
      let busy := ∃ h ∈ s.harts, h.core = core ∧ h.resident = true
      (¬ busy → sound → exec (.laneRemapWrite core m lmod) s = .next (s.setCore { c with assigned := m, lmod := lmod }))
        ∧ ((busy ∨ ¬ sound) → exec (.laneRemapWrite core m lmod) s = .next s))
    ∧ (∀ (pa : Nat) (bs : List Byte) (s : State), s.mgmtSpan pa bs.length = bs.length →
      ∃ t, exec (.remoteDeviceAccess (.write pa bs)) s = .next t ∧ t.mem = memPut s.mem pa bs ∧ t.me = s.me
        ∧ t.others = s.others)
    ∧ (∀ (pa n : Nat) (s : State), ∃ t, exec (.remoteDeviceAccess (.read pa n)) s = .next t ∧ t.mem = s.mem ∧ t.me = s.me)
    ∧ (∀ (op : AmoOp) (wide : Bool) (pa : Nat) (b e : Word) (s : State),
      let n := if wide then 8 else 4
      pa % n = 0 → s.mgmtSpan pa n = n → s.hasError pa n = false →
      let old := valueOf (memBytes s.mem pa n)
      ∃ t, exec (.remoteDeviceAccess (.amo op wide pa b e)) s = .next t
        ∧ t.mem = (match amoStores op n old (b.toNat % 2 ^ (8 * n)) (e.toNat % 2 ^ (8 * n)) with
          | none => s.mem
          | some v => memPut s.mem pa (leBytes n v)))

/-- What the scalar instructions that access no memory leave unchanged, whatever they come to: every byte of memory, every
scalar but the destination, every control register but the loop's count and armed bit, the flags that a floating-point
instruction ORs into VFLAGS bits 4:0, and those that an exception writes; the vector state but for a pass that begins; every
other hart and every core. LOOP, ERET and the CWRs leave the same as it is, every scalar too: the control registers that change
are those that the instruction writes, LC and LEND where its unit ends the loop, and those that an exception writes; the level
changes by ERET or an exception; the window's spill registers by the CWR of SPILLP; the core's registers by the CWRs of
registers that the core has; and memory, at the leaf PTE of the granule, by that of a watchpoint. CTXBASE, whose CWR replaces
the context, is left to CwrTraceWatchContext. -/
def Obligations.ScalarFrameKept : Prop :=
  (∀ (i : Instr) (s t : State) (ns : List Nat), systemWrites i s = some ns → exec i s = .next t →
      let watch := ∃ r n, i = .cwrWatchpoint r n
      let ofCore := watch ∨ (∃ r, i = .cwrSlots r) ∨ (∃ r n, i = .cwrTraceRegs r n)
        ∨ ∃ r n, i = .cwr r n ∧ (n.toNat = 0x404 ∨ (0x420 ≤ n.toNat ∧ n.toNat ≤ 0x43F))
      (∀ m, m ∉ ns → m ∉ [0x009, 0x00B, 0x300, 0x301, 0x302, 0x303] → t.crValue m = s.crValue m)
        ∧ (0x00B ∉ ns → keepBits (t.crValue 0x00B) 55 2 = keepBits (s.crValue 0x00B) 55 2)
        ∧ (((∀ m, m ∈ [0x300, 0x301, 0x302, 0x303] → m ∉ ns → t.crValue m = s.crValue m)
            ∧ (i ≠ .eret → t.me.level = s.me.level)) ∨ ∃ c eva, Traps s t c eva)
        ∧ t.me.regs = s.me.regs ∧ t.me.pend = s.me.pend ∧ VectorFrame s t ∧ t.me.wbase = s.me.wbase ∧ t.me.wlo = s.me.wlo
        ∧ t.me.rets = s.me.rets ∧ t.me.prov = s.me.prov ∧ t.others = s.others ∧ t.gangs = s.gangs
        ∧ ((∀ r, i ≠ .cwrSpillp r) → t.me.wsp = s.me.wsp ∧ t.me.rsp = s.me.rsp)
        ∧ (¬ ofCore → t.cores = s.cores) ∧ (ofCore → CoreFrame s t) ∧ (¬ watch → t.mem = s.mem)
        ∧ ∀ r n, i = .cwrWatchpoint r n → memWf s.mem = true → ∀ a,
          (∀ va, va = (if n.toNat < 4 then s.me.reg r &&& span 55 4 else s.myCore.wpad.toList.getD (n.toNat % 4) 0) →
            OffLeaf s s (sx56 va).toNat a) → memGet t.mem a = memGet s.mem a)
    ∧ ∀ (i : Instr) (s t : State) (dst : List SReg), scalarOnly i s = some dst → exec i s = .next t →
    t.mem = s.mem ∧ ScalarFrame s t dst ∧ ControlFrame s t ∧ ExceptionFrame s t ∧ VectorFrame s t
      ∧ t.me.cr.fblame = s.me.cr.fblame ∧ t.me.cr.felem = s.me.cr.felem
      ∧ ((fpSpec i s).isSome = false → t.me.cr.vflags = s.me.cr.vflags)
      ∧ (t.me.cr.vflags &&& 0x60 = s.me.cr.vflags &&& 0x60) ∧ (t.me.cr.vflags ||| s.me.cr.vflags = t.me.cr.vflags)
      ∧ t.others = s.others ∧ t.cores = s.cores

/-- What LD, ST and the AMOs leave unchanged, whatever they come to: every byte of memory but those stored at the computed
address, and the leaf PTE whose A and D bits the translation sets; every scalar but the destination; every control register
but the loop's, those of a watchpoint and those that an exception writes; the tiles, streams and pending sinks; and every
other hart. -/
def Obligations.MemoryFrameKept : Prop :=
  ∀ (s t : State), memWf s.mem = true →
    let frame (i : Instr) (dst : List SReg) (va : Word) (k : Kind) (n : Nat) : Prop := exec i s = .next t →
      (∀ a, (∀ s1 loc, s.locate va k = .ok (s1, loc) → ¬ (loc ≤ a ∧ a < loc + n)) →
          (∀ l p large, (s.walk s.me.cr.ptbase va.toNat).2 = some (l, p, large) → ¬ (l ≤ a ∧ a < l + 8)) →
          memGet t.mem a = memGet s.mem a)
        ∧ ScalarFrame s t dst ∧ ControlFrame s t ∧ ExceptionFrame s t ∧ t.me.cr.vflags = s.me.cr.vflags
        ∧ t.me.vec.q = s.me.vec.q ∧ t.me.vec.galley = s.me.vec.galley ∧ t.me.vec.tiles = s.me.vec.tiles
        ∧ t.others = s.others
    (∀ d b z x o, frame (.ld d b z x o) [d] (address s.me b o) .read 0)
      ∧ (∀ d b z o, frame (.st d b z o) [] (address s.me b o) .write (bytesOf z))
      ∧ (∀ i op d a b n, amoSpec i = some (op, d, a, b, n) → frame i [d] (s.me.reg a) .amo n)

/-- What the instructions that append a node, leaf or sink leave unchanged, whatever they come to: every byte of memory, every
scalar's value, every control register but the loop's, those of a STALE exception and those that an exception writes, every
stream register, tile, bond register and token of another hart. A count in pass mode leaves the same, but for its destination
where it counts k0, and so does KLD, but for the leaf PTEs through which its bytes are read. -/
def Obligations.VectorFrameKept : Prop :=
  ∀ (i : Instr) (s t : State), exec i s = .next t →
    let kept := ControlFrame s t ∧ ExceptionFrame s t ∧ t.me.cr.vflags = s.me.cr.vflags
      ∧ t.me.vec.q = s.me.vec.q ∧ t.me.vec.tiles = s.me.vec.tiles ∧ t.me.vec.bd = s.me.vec.bd
      ∧ t.me.vec.matrix = s.me.vec.matrix ∧ t.others = s.others ∧ t.cores = s.cores
    (appends i s → t.mem = s.mem ∧ t.me.regs = s.me.regs ∧ kept)
      ∧ (∀ op k d, countSpec i = some (op, k, d) → s.me.vec.matrix = false →
        t.mem = s.mem ∧ (k ≠ 0 → t.me.regs = s.me.regs) ∧ ScalarFrame s t [d] ∧ kept)
      ∧ ∀ k b, i = .kld k b → s.me.vec.matrix = false → memWf s.mem = true →
        let va := s.me.reg b
        t.me.regs = s.me.regs ∧ kept ∧ ∀ a, OffLeaf s s va.toNat a →
          (∀ u loc, s.locate va .read = .ok (u, loc) → OffLeaf s u (va + BitVec.ofNat 64 (4096 - va.toNat % 4096)).toNat a) →
          memGet t.mem a = memGet s.mem a
end

