-- ==== Sys2Proof/Laws/Decode.lean ====
section
/-! SUPPORT. Lemmas about the fields of an instruction word and the codes of enumerated fields. -/

set_option Elab.async false

namespace Sys2Proof

/-- A field read as a bit vector is the value whose number it holds. -/
theorem bv_eq {n : Nat} {x : BitVec n} {w lo : Nat} (h : w / 2 ^ lo % 2 ^ n = x.toNat) : bv w lo n = x := by
  apply BitVec.eq_of_toNat_eq; simpa [bv] using h

/-- The same for a field of one bit. -/
theorem bit_eq {x : Bool} {w lo : Nat} (h : w / 2 ^ lo % 2 = x.toNat) : bit w lo = x := by
  cases x <;> simp [bit, h]

/-- A word whose fields make a well-formed instruction decodes to it. -/
theorem decode_of_fields {w : Nat} {i : Instr} (h : decodeFields w = some i) (hw : i.wf = true) :
    decode w = some i := by
  simp [decode, h, hw]

/-- What decodes is well formed. -/
theorem decode_wf {w : Nat} {i : Instr} (h : decode w = some i) : i.wf = true := by
  unfold decode at h
  cases hd : decodeFields w with
  | none => simp [hd] at h
  | some j =>
    simp only [hd, Option.bind_some] at h
    split at h
    · cases h; assumption
    · cases h

theorem decodeFields_01 {w : Nat} (h : fld w 26 6 = 1) : decodeFields w = decode01 w := by
  simp only [decodeFields, h]

theorem decodeFields_02 {w : Nat} (h : fld w 26 6 = 2) : decodeFields w = decode02 w := by
  simp only [decodeFields, h]

theorem decodeFields_03 {w : Nat} (h : fld w 26 6 = 3) : decodeFields w = decode03 w := by
  simp only [decodeFields, h]

theorem decodeFields_04 {w : Nat} (h : fld w 26 6 = 4) : decodeFields w = decode04 w := by
  simp only [decodeFields, h]

theorem decodeFields_05 {w : Nat} (h : fld w 26 6 = 5) : decodeFields w = decode05 w := by
  simp only [decodeFields, h]

theorem decodeFields_06 {w : Nat} (h : fld w 26 6 = 6) : decodeFields w = decode06 w := by
  simp only [decodeFields, h]

theorem decodeFields_07 {w : Nat} (h : fld w 26 6 = 7) : decodeFields w = decode07 w := by
  simp only [decodeFields, h]

theorem decodeFields_08 {w : Nat} (h : fld w 26 6 = 8) : decodeFields w = decode08 w := by
  simp only [decodeFields, h]

theorem decodeFields_09 {w : Nat} (h : fld w 26 6 = 9) : decodeFields w = decode09 w := by
  simp only [decodeFields, h]

theorem decodeFields_0A {w : Nat} (h : fld w 26 6 = 10) : decodeFields w = decode0A w := by
  simp only [decodeFields, h]

theorem decodeFields_0B {w : Nat} (h : fld w 26 6 = 11) : decodeFields w = decode0B w := by
  simp only [decodeFields, h]

theorem decodeFields_0C {w : Nat} (h : fld w 26 6 = 12) : decodeFields w = decode0C w := by
  simp only [decodeFields, h]

theorem decodeFields_0D {w : Nat} (h : fld w 26 6 = 13) : decodeFields w = decode0D w := by
  simp only [decodeFields, h]

theorem decodeFields_0E {w : Nat} (h : fld w 26 6 = 14) : decodeFields w = decode0E w := by
  simp only [decodeFields, h]

theorem decodeFields_10 {w : Nat} (h : fld w 26 6 = 16) : decodeFields w = decode10 w := by
  simp only [decodeFields, h]

theorem decodeFields_11 {w : Nat} (h : fld w 26 6 = 17) : decodeFields w = decode11 w := by
  simp only [decodeFields, h]

theorem decodeFields_12 {w : Nat} (h : fld w 26 6 = 18) : decodeFields w = decode12 w := by
  simp only [decodeFields, h]

theorem decodeFields_13 {w : Nat} (h : fld w 26 6 = 19) : decodeFields w = decode13 w := by
  simp only [decodeFields, h]

theorem decodeFields_14 {w : Nat} (h : fld w 26 6 = 20) : decodeFields w = decode14 w := by
  simp only [decodeFields, h]

theorem decodeFields_15 {w : Nat} (h : fld w 26 6 = 21) : decodeFields w = decode15 w := by
  simp only [decodeFields, h]

theorem decodeFields_16 {w : Nat} (h : fld w 26 6 = 22) : decodeFields w = decode16 w := by
  simp only [decodeFields, h]

theorem decodeFields_17 {w : Nat} (h : fld w 26 6 = 23) : decodeFields w = decode17 w := by
  simp only [decodeFields, h]

theorem decodeFields_18 {w : Nat} (h : fld w 26 6 = 24) : decodeFields w = decode18 w := by
  simp only [decodeFields, h]

theorem decodeFields_19 {w : Nat} (h : fld w 26 6 = 25) : decodeFields w = decode19 w := by
  simp only [decodeFields, h]

theorem decodeFields_1A {w : Nat} (h : fld w 26 6 = 26) : decodeFields w = decode1A w := by
  simp only [decodeFields, h]

theorem decodeFields_1B {w : Nat} (h : fld w 26 6 = 27) : decodeFields w = decode1B w := by
  simp only [decodeFields, h]

theorem decodeFields_1C {w : Nat} (h : fld w 26 6 = 28) : decodeFields w = decode1C w := by
  simp only [decodeFields, h]

theorem decodeFields_1D {w : Nat} (h : fld w 26 6 = 29) : decodeFields w = decode1D w := by
  simp only [decodeFields, h]

theorem decodeFields_1E {w : Nat} (h : fld w 26 6 = 30) : decodeFields w = decode1E w := by
  simp only [decodeFields, h]

theorem decodeFields_1F {w : Nat} (h : fld w 26 6 = 31) : decodeFields w = decode1F w := by
  simp only [decodeFields, h]

theorem decodeFields_20 {w : Nat} (h : fld w 26 6 = 32) : decodeFields w = decode20 w := by
  simp only [decodeFields, h]

theorem decodeFields_21 {w : Nat} (h : fld w 26 6 = 33) : decodeFields w = decode21 w := by
  simp only [decodeFields, h]

theorem decodeFields_22 {w : Nat} (h : fld w 26 6 = 34) : decodeFields w = decode22 w := by
  simp only [decodeFields, h]

theorem decodeFields_23 {w : Nat} (h : fld w 26 6 = 35) : decodeFields w = decode23 w := by
  simp only [decodeFields, h]

theorem decodeFields_24 {w : Nat} (h : fld w 26 6 = 36) : decodeFields w = decode24 w := by
  simp only [decodeFields, h]

theorem decodeFields_25 {w : Nat} (h : fld w 26 6 = 37) : decodeFields w = decode25 w := by
  simp only [decodeFields, h]

theorem decodeFields_26 {w : Nat} (h : fld w 26 6 = 38) : decodeFields w = decode26 w := by
  simp only [decodeFields, h]

theorem decodeFields_27 {w : Nat} (h : fld w 26 6 = 39) : decodeFields w = decode27 w := by
  simp only [decodeFields, h]

theorem decodeFields_28 {w : Nat} (h : fld w 26 6 = 40) : decodeFields w = decode28 w := by
  simp only [decodeFields, h]

theorem decodeFields_29 {w : Nat} (h : fld w 26 6 = 41) : decodeFields w = decode29 w := by
  simp only [decodeFields, h]

theorem decodeFields_2A {w : Nat} (h : fld w 26 6 = 42) : decodeFields w = decode2A w := by
  simp only [decodeFields, h]

theorem decodeFields_2B {w : Nat} (h : fld w 26 6 = 43) : decodeFields w = decode2B w := by
  simp only [decodeFields, h]

theorem decodeFields_2C {w : Nat} (h : fld w 26 6 = 44) : decodeFields w = decode2C w := by
  simp only [decodeFields, h]

theorem decodeFields_2D {w : Nat} (h : fld w 26 6 = 45) : decodeFields w = decode2D w := by
  simp only [decodeFields, h]

theorem decodeFields_30 {w : Nat} (h : fld w 26 6 = 48) : decodeFields w = decode30 w := by
  simp only [decodeFields, h]

theorem decodeFields_31 {w : Nat} (h : fld w 26 6 = 49) : decodeFields w = decode31 w := by
  simp only [decodeFields, h]

theorem AmoOrder.code_lt (c : AmoOrder) : c.code < 4 := by cases c <;> decide

theorem AmoOrder.ofCode_code (c : AmoOrder) : AmoOrder.ofCode c.code = some c := by cases c <;> rfl

theorem BrCond.code_lt (c : BrCond) : c.code < 8 := by cases c <;> decide

theorem BrCond.ofCode_code (c : BrCond) : BrCond.ofCode c.code = some c := by cases c <;> rfl

theorem FcmpCond.code_lt (c : FcmpCond) : c.code < 4 := by cases c <;> decide

theorem FcmpCond.ofCode_code (c : FcmpCond) : FcmpCond.ofCode c.code = some c := by cases c <;> rfl

theorem FcvtOp.code_lt (c : FcvtOp) : c.code < 32 := by cases c <;> decide

theorem FcvtOp.ofCode_code (c : FcvtOp) : FcvtOp.ofCode c.code = some c := by cases c <;> rfl

theorem Frame.code_lt (c : Frame) : c.code < 4 := by cases c <;> decide

theorem Frame.ofCode_code (c : Frame) : Frame.ofCode c.code = some c := by cases c <;> rfl

theorem MemSize.code_lt (c : MemSize) : c.code < 4 := by cases c <;> decide

theorem MemSize.ofCode_code (c : MemSize) : MemSize.ofCode c.code = some c := by cases c <;> rfl

theorem MmaAcc.code_lt (c : MmaAcc) : c.code < 4 := by cases c <;> decide

theorem MmaAcc.ofCode_code (c : MmaAcc) : MmaAcc.ofCode c.code = some c := by cases c <;> rfl

theorem RedOp.code_lt (c : RedOp) : c.code < 64 := by cases c <;> decide

theorem RedOp.ofCode_code (c : RedOp) : RedOp.ofCode c.code = some c := by cases c <;> rfl

theorem Scope.code_lt (c : Scope) : c.code < 8 := by cases c <;> decide

theorem Scope.ofCode_code (c : Scope) : Scope.ofCode c.code = some c := by cases c <;> rfl

theorem Tag.code_lt (c : Tag) : c.code < 8 := by cases c <;> decide

theorem Tag.ofCode_code (c : Tag) : Tag.ofCode c.code = some c := by cases c <;> rfl

theorem VRel.code_lt (c : VRel) : c.code < 8 := by cases c <;> decide

theorem VRel.ofCode_code (c : VRel) : VRel.ofCode c.code = some c := by cases c <;> rfl

theorem VRound.code_lt (c : VRound) : c.code < 8 := by cases c <;> decide

theorem VRound.ofCode_code (c : VRound) : VRound.ofCode c.code = some c := by cases c <;> rfl

end Sys2Proof
end

