-- ==== Sys2Proof/Laws/Issue.lean ====
section
/-! SUPPORT. What each shared operation of a unit can do, said once: the gate, the issue of a body, the end of a unit, the
reads and writes of memory, and taking an exception. -/

namespace Sys2Proof.Machine

/-! ### Computations of a unit -/

/-- A sequence completes when both its parts do. -/
theorem res_bind_ok {α β : Type} {x : Res α} {f : α → Res β} {b : β} :
    (x >>= f) = .ok b ↔ ∃ a, x = .ok a ∧ f a = .ok b := by
  cases x with
  | error e => exact ⟨fun h => (by cases h), fun ⟨_, h, _⟩ => (by cases h)⟩
  | ok a => exact ⟨fun h => ⟨a, rfl, h⟩, fun ⟨_, h, g⟩ => (by cases h; exact g)⟩

/-- A sequence ends early in its first part or in its second. -/
theorem res_bind_error {α β : Type} {x : Res α} {f : α → Res β} {e : Act} :
    (x >>= f) = .error e ↔ x = .error e ∨ ∃ a, x = .ok a ∧ f a = .error e := by
  cases x with
  | error e' => exact ⟨fun h => (by cases h; exact .inl rfl), fun h => (by
      rcases h with h | ⟨_, h, _⟩
      · cases h; rfl
      · cases h)⟩
  | ok a => exact ⟨fun h => .inr ⟨a, rfl, h⟩, fun h => (by
      rcases h with h | ⟨_, h, g⟩
      · cases h
      · cases h; exact g)⟩

/-! ### The gate and the issue -/

/-- Whatever issues passes its gate. -/
theorem Gate.check_of_issues {g : Gate} {s : State} (h : Issues g s) : g.check s = .ok () := by
  obtain ⟨⟨t1, t2, t3⟩, e, so, mi, su, mo, pq, ow, vr, d1, d2, d3⟩ := h
  have e1 : (s.me.ext.isSome && !g.ext) = false := by rcases e with e | e <;> simp [e]
  have e2 : (s.me.miller && !g.miller) = false := by rcases mi with e | e <;> simp [e]
  have e3 : (g.supervisor && s.me.level == .u) = false := by rcases su with e | e <;> simp [e]
  have e5 : (g.passQueue && s.handlerBypass) = false := by rcases pq with e | e <;> simp [e]
  have e7 : (g.vregs.any fun n => decide (s.me.cr.nv ≤ n)) = false := by
    rw [List.any_eq_false]; intro n hn; have := vr n hn; simp; omega
  have e8 : (g.passQueue && s.me.level == .u && s.me.cr.fdemand.getLsbD 0 && s.me.vec.pass.isSome) = false := by
    rcases d2 with e | e | e | e <;> rw [e] <;> simp
  have e9 : (!s.handlerBypass && g.scalars.any s.me.isPending) = false := by
    rcases d3 with e | e
    · simp [e]
    · have : g.scalars.any s.me.isPending = false := by
        rw [List.any_eq_false]; intro r hr; simp [e r hr]
      simp [this]
  unfold Gate.check
  simp only [t1, t2, t3, e1, e2, e3, e5, ow, e7, e8, d1, e9, so, Bool.or_false, Bool.not_true,
    Bool.and_false, Bool.false_eq_true, if_false]
  rcases mo with e | e <;> simp [e]

/-- A body that completes retires its unit. -/
theorem unit_done {g : Gate} {s u : State} {body : Res State} (h : Ready g s) (hb : body = .ok u) :
    unit g s body = .next (retire g.queue s u true) := by
  simp [unit, issue, Gate.check_of_issues h.1, hb, settle, h.2]

/-- A body that ends otherwise ends its unit so; where it waits, its token has been taken. -/
theorem unit_error {g : Gate} {s : State} {body : Res State} {a : Act} (h : Issues g s) (hb : body = .error a) :
    unit g s body = .next (settle g.queue s (a.issued g.queue)) := by
  simp [unit, issue, Gate.check_of_issues h, hb]

/-- An exception of an instruction's own does not wait for room in a FIFO. -/
theorem unit_trap {g : Gate} {s u : State} {body : Res State} {c : Cause} {eva : Word} (h : Issues g s)
    (hb : body = .error (.trap u c eva)) : unit g s body = .next (s.takeTrap u c eva) := unit_error h hb

/-- A unit whose signal finds no room has taken its token, and has no other effect, once it would be done. -/
theorem unit_full {g : Gate} {s u : State} {body : Res State} (h : Issues g s)
    (f : s.me.signalBlocked g.queue = true) (hb : body = .ok u) :
    unit g s body = .next (s.takeIssued g.queue) := by
  simp [unit, issue, Gate.check_of_issues h, hb, settle, f]

/-- A unit answers a next state. -/
theorem unit_next (g : Gate) (s : State) (body : Res State) : ∃ t, unit g s body = .next t := ⟨_, rfl⟩

/-- What a gate that does not open comes to: an exception of the state as it is, a pass that runs first, or a stall. -/
theorem Gate.check_error {g : Gate} {s : State} {a : Act} (h : g.check s = .error a) :
    a = .trap s .illegal 0 ∨ a = .trap s .priv 0 ∨ a = .trap s .mode 0 ∨ a = .stall s ∨ a = .demand s := by
  unfold Gate.check at h
  dsimp only at h
  repeat' (split at h)
  all_goals first
    | (cases h; done)
    | (cases h; simp)

/-! ### The end of a unit -/

@[simp] theorem settle_trap (q : Queue) (b s : State) (c : Cause) (eva : Word) :
    settle q b (.trap s c eva) = b.takeTrap s c eva := rfl
@[simp] theorem settle_wait (q : Queue) (b s : State) : settle q b (.wait s) = s := rfl
@[simp] theorem settle_stall (q : Queue) (b s : State) : settle q b (.stall s) = s := rfl
@[simp] theorem settle_stay (q : Queue) (b s : State) : settle q b (.stay s) = s := rfl
@[simp] theorem settle_demand (q : Queue) (b s : State) : settle q b (.demand s) = s.startPass false := rfl
@[simp] theorem settle_demandLate (q : Queue) (b s : State) : settle q b (.demandLate s) = s.startPass true := rfl
@[simp] theorem startPass_mem (s : State) (l : Bool) : (s.startPass l).mem = s.mem := rfl

/-- An exception leaves memory alone. -/
@[simp] theorem enterTrap_mem (s : State) (c : Cause) (eva : Word) : (s.enterTrap c eva).mem = s.mem := by
  unfold State.enterTrap; dsimp only; split <;> rfl

/-- Where the signal's FIFO has room, a unit that is done retires. -/
theorem settle_done {q : Queue} {b : State} (h : b.me.signalBlocked q = false) (s : State) :
    settle q b (.done s) = retire q b s true := by simp [settle, h]

/-- Where it has none, the unit has taken its token and has no other effect yet. -/
theorem settle_done_full {q : Queue} {b : State} (h : b.me.signalBlocked q = true) (s : State) :
    settle q b (.done s) = b.takeIssued q := by simp [settle, h]

/-- A unit that retires leaves memory as its effect left it. -/
theorem settle_done_mem {q : Queue} {b : State} (h : b.me.signalBlocked q = false) (s : State) :
    (settle q b (.done s)).mem = s.mem := by rw [settle_done h]; rfl

/-- No copy is in flight: an exception is taken at once. -/
theorem takeTrap_now {b s : State} {c : Cause} {eva : Word} (h : b.me.copies = []) :
    b.takeTrap s c eva = s.enterTrap c eva := by
  simp [State.takeTrap, h]

/-- The tokens of each FIFO with those taken ahead. -/
theorem allTokens_eq (h : Hart) : h.allTokens = Vector.ofFn fun i => h.tokens.get i + h.early.get i := by
  ext i hi
  simp [Hart.allTokens, Vector.getD, hi]
  rfl

/-- Giving tokens back changes neither the unit's address nor a control register. -/
@[simp] theorem returnEarly_unitPc (h : Hart) : h.returnEarly.unitPc = h.unitPc := rfl
@[simp] theorem returnEarly_cr (h : Hart) : h.returnEarly.cr = h.cr := rfl
@[simp] theorem returnEarly_level (h : Hart) : h.returnEarly.level = h.level := rfl

/-- A trap writes the registers that R208 names. -/
theorem enterTrap_traps {s : State} {c : Cause} {eva : Word} (h : s.me.cr.tvec ≠ 0) : Traps s (s.enterTrap c eva) c eva := by
  unfold State.enterTrap Traps
  dsimp only
  rw [returnEarly_cr, if_neg h]
  exact ⟨rfl, rfl, rfl, rfl, rfl⟩

/-! ### What a turn does before its unit -/

/-- A turn of a unit goes to a ready hart; with none, to the one that has come to it (12_launch.md R170). -/
theorem offer_hart (c : Core) (u : Fin 11) (ready : List Nat) (me : Nat) :
    (c.offer u ready me).1 ∈ ready ∨ (ready = [] ∧ (c.offer u ready me).1 = me) := by
  unfold Core.offer
  dsimp only
  split
  · rename_i h e
    exact .inl (by simpa using (Option.filter_eq_some_iff.1 e).2)
  · split
    · rename_i p e
      have h := List.find?_some e
      obtain ⟨x, hx⟩ := Option.isSome_iff_exists.1 h
      rw [hx]
      exact .inl (by simpa using (Option.filter_eq_some_iff.1 hx).2)
    · dsimp only
      split
      · rename_i e
        exact .inl (by simpa using e)
      · cases ready with
        | nil => exact .inr ⟨rfl, rfl⟩
        | cons a r => exact .inl (by simp)

/-! ### The token of a unit that has issued -/

@[simp] theorem issued_wait (s : State) (q : Queue) : (Act.wait s).issued q = .wait (s.takeIssued q) := rfl
@[simp] theorem issued_stall (s : State) (q : Queue) : (Act.stall s).issued q = .stall s := rfl
@[simp] theorem issued_stay (s : State) (q : Queue) : (Act.stay s).issued q = .stay (s.takeIssued q) := rfl
@[simp] theorem issued_demand (s : State) (q : Queue) : (Act.demand s).issued q = .demand (s.takeIssued q) := rfl
@[simp] theorem issued_trap (s : State) (c : Cause) (eva : Word) (q : Queue) :
    (Act.trap s c eva).issued q = .trap s c eva := rfl

/-- Without a wait part no token is taken. -/
theorem takeIssued_none {s : State} (h : s.me.tok = none) (q : Queue) : s.takeIssued q = s := by
  simp [State.takeIssued, h]

/-- Giving a token that is owed changes the FIFOs, their givers and what is owed. -/
theorem payFrom_frame (h : Hart) (held : List Queue) (ts : List (Queue × Queue × Word)) :
    ∃ t g o, h.payFrom held ts = { h with tokens := t, givers := g, owed := o } := by
  induction ts generalizing h held with
  | nil => exact ⟨_, _, _, rfl⟩
  | cons e r ih =>
    obtain ⟨x, y, a⟩ := e
    unfold Hart.payFrom
    split
    · obtain ⟨t, g, o, e⟩ := ih (h.pushToken x y a) held
      exact ⟨t, g, o, by rw [e]; rfl⟩
    · obtain ⟨t, g, o, e⟩ := ih h (x :: held)
      exact ⟨t, g, (x, y, a) :: o, by simp [e]⟩

/-- Taking a token at the issue changes the hart's tokens and what it owes, and nothing else. -/
theorem takeIssued_frame (s : State) (q : Queue) :
    ∃ t e g o, s.takeIssued q = { s with me := { s.me with tokens := t, early := e, givers := g, owed := o } } := by
  unfold State.takeIssued
  split
  · exact ⟨_, _, _, _, rfl⟩
  · rename_i x _
    split
    · unfold Hart.payAll
      split
      · exact ⟨_, _, _, _, rfl⟩
      · obtain ⟨t, g, o, e⟩ := payFrom_frame (s.me.takeEarly x q) [] (s.me.takeEarly x q).owed
        exact ⟨t, _, g, o, by unfold Hart.payOwed; rw [e]; rfl⟩
    · exact ⟨_, _, _, _, rfl⟩

@[simp] theorem takeIssued_mem (s : State) (q : Queue) : (s.takeIssued q).mem = s.mem := by
  obtain ⟨t, e, g, o, h⟩ := takeIssued_frame s q
  rw [h]

/-- Units that issue ahead of a full FIFO take tokens and change nothing else: no memory, core or other hart. -/
theorem lookAhead_frame (s : State) :
    s.lookAhead.mem = s.mem ∧ s.lookAhead.cores = s.cores ∧ s.lookAhead.others = s.others ∧ s.lookAhead.agenda = s.agenda := by
  unfold State.lookAhead
  dsimp only
  split <;> exact ⟨rfl, rfl, rfl, rfl⟩

/-! ### Accesses of memory -/

/-- A read that completes is aligned, located, neither watched nor held back, and returns the bytes there. -/
theorem readMem_ok {s t : State} {va : Word} {n v : Nat} (h : s.readMem va n = .ok (t, v)) :
    ∃ s1 loc, va.toNat % n = 0 ∧ s.locate va .read = .ok (s1, loc)
      ∧ s1.watchCheck va.toNat n .read s1.me.pc 0 = .ok () ∧ s1.readGate (rangeOf va n) = .ok ()
      ∧ s1.heldByOther loc n = false ∧ v = leNat (s1.readLoc loc n).2
      ∧ t = (s1.readLoc loc n).1.watchNote .hart .read [(va.toNat, loc, n)] := by
  unfold State.readMem at h
  simp only [bind, Except.bind, pure, Except.pure, throw, throwThe, MonadExceptOf.throw] at h
  split at h
  · cases h
  · rename_i ha
    split at h
    · cases h
    · rename_i r hl
      obtain ⟨s1, loc⟩ := r
      dsimp only at h
      split at h
      · cases h
      · rename_i hw
        split at h
        · cases h
        · rename_i hg
          split at h
          · cases h
          · rename_i hh
            cases h
            refine ⟨s1, loc, ?_, ?_, hw, hg, ?_, rfl, rfl⟩
            · exact Decidable.not_not.mp ha
            · unfold State.locateOr at hl
              split at hl
              · cases hl; assumption
              · cases hl
            · simpa using hh

/-- An aligned piece of whole doublewords is cut into them, in ascending order. -/
theorem dwordPieces_aligned {va loc k : Nat} (h : va % 8 = 0) :
    dwordPieces [(va, loc, 8 * k)] = (List.range k).map fun i => (va + 8 * i, loc + 8 * i, 8) := by
  have hk : (va % 8 + 8 * k + 7) / 8 = k := by omega
  simp only [dwordPieces, List.flatMap_cons, List.flatMap_nil, List.append_nil, hk]
  refine List.map_congr_left fun i hi => ?_
  have := List.mem_range.1 hi
  refine Prod.ext ?_ (Prod.ext ?_ ?_) <;> dsimp only <;> omega

/-- A read of a descriptor that completes is aligned, and gives the value of the bytes that its doubleword reads give. -/
theorem readDwords_ok {s t : State} {va : Word} {n v : Nat} (h : s.readDwords va n = .ok (t, v)) :
    va.toNat % n = 0 ∧ ∃ bs, s.readSpan va n = .ok (t, bs) ∧ v = leNat bs := by
  unfold State.readDwords at h
  simp only [bind, Except.bind, pure, Except.pure, throw, throwThe, MonadExceptOf.throw] at h
  split at h
  · cases h
  · rename_i ha
    split at h
    · cases h
    · rename_i r hl
      obtain ⟨s1, bs⟩ := r
      cases h
      exact ⟨Decidable.not_not.mp ha, bs, hl, rfl⟩

end Sys2Proof.Machine
end

