-- ==== Sys2Proof/Laws/State.lean ====
section
/-! SUPPORT. What each named update of the state leaves and changes, field by field. -/

namespace Sys2Proof.Machine

/-! State.setVec -/

@[simp] theorem State.setVec_others (s : State) (v : VecState) : (s.setVec v).others = s.others := rfl
@[simp] theorem State.setVec_cores (s : State) (v : VecState) : (s.setVec v).cores = s.cores := rfl
@[simp] theorem State.setVec_mem (s : State) (v : VecState) : (s.setVec v).mem = s.mem := rfl
@[simp] theorem State.setVec_time (s : State) (v : VecState) : (s.setVec v).time = s.time := rfl
@[simp] theorem State.setVec_stepNo (s : State) (v : VecState) : (s.setVec v).stepNo = s.stepNo := rfl
@[simp] theorem State.setVec_free (s : State) (v : VecState) : (s.setVec v).free = s.free := rfl
@[simp] theorem State.setVec_agenda (s : State) (v : VecState) : (s.setVec v).agenda = s.agenda := rfl
@[simp] theorem State.setVec_stopped (s : State) (v : VecState) : (s.setVec v).stopped = s.stopped := rfl
@[simp] theorem State.setVec_booted (s : State) (v : VecState) : (s.setVec v).booted = s.booted := rfl
@[simp] theorem State.setVec_recovery (s : State) (v : VecState) : (s.setVec v).recovery = s.recovery := rfl
@[simp] theorem State.setVec_resets (s : State) (v : VecState) : (s.setVec v).resets = s.resets := rfl
@[simp] theorem State.setVec_gangs (s : State) (v : VecState) : (s.setVec v).gangs = s.gangs := rfl
@[simp] theorem State.setVec_nextGang (s : State) (v : VecState) : (s.setVec v).nextGang = s.nextGang := rfl
@[simp] theorem State.setVec_predictor (s : State) (v : VecState) : (s.setVec v).predictor = s.predictor := rfl
@[simp] theorem State.setVec_tlb (s : State) (v : VecState) : (s.setVec v).tlb = s.tlb := rfl
@[simp] theorem State.setVec_softErrors (s : State) (v : VecState) : (s.setVec v).softErrors = s.softErrors := rfl
@[simp] theorem State.setVec_watchFlight (s : State) (v : VecState) : (s.setVec v).watchFlight = s.watchFlight := rfl
@[simp] theorem State.setVec_pubs (s : State) (v : VecState) : (s.setVec v).pubs = s.pubs := rfl
@[simp] theorem State.setVec_migrations (s : State) (v : VecState) : (s.setVec v).migrations = s.migrations := rfl
@[simp] theorem State.setVec_packets (s : State) (v : VecState) : (s.setVec v).packets = s.packets := rfl
@[simp] theorem State.setVec_outbox (s : State) (v : VecState) : (s.setVec v).outbox = s.outbox := rfl
@[simp] theorem State.setVec_log (s : State) (v : VecState) : (s.setVec v).log = s.log := rfl
@[simp] theorem State.setVec_diesPresent (s : State) (v : VecState) : (s.setVec v).diesPresent = s.diesPresent := rfl
@[simp] theorem State.setVec_cxlSize (s : State) (v : VecState) : (s.setVec v).cxlSize = s.cxlSize := rfl
@[simp] theorem State.setVec_linkHalf (s : State) (v : VecState) : (s.setVec v).linkHalf = s.linkHalf := rfl
@[simp] theorem State.setVec_retrains (s : State) (v : VecState) : (s.setVec v).retrains = s.retrains := rfl
@[simp] theorem State.setVec_capBase (s : State) (v : VecState) : (s.setVec v).capBase = s.capBase := rfl
@[simp] theorem State.setVec_mgmt (s : State) (v : VecState) : (s.setVec v).mgmt = s.mgmt := rfl
@[simp] theorem State.setVec_millerFw (s : State) (v : VecState) : (s.setVec v).millerFw = s.millerFw := rfl
@[simp] theorem State.setVec_clock (s : State) (v : VecState) : (s.setVec v).clock = s.clock := rfl
@[simp] theorem State.setVec_activations (s : State) (v : VecState) : (s.setVec v).activations = s.activations := rfl
@[simp] theorem State.setVec_nextNode (s : State) (v : VecState) : (s.setVec v).nextNode = s.nextNode := rfl
@[simp] theorem State.setVec_nextImage (s : State) (v : VecState) : (s.setVec v).nextImage = s.nextImage := rfl
@[simp] theorem State.setVec_saved (s : State) (v : VecState) : (s.setVec v).saved = s.saved := rfl
@[simp] theorem State.setVec_me_num (s : State) (v : VecState) : (s.setVec v).me.num = s.me.num := rfl
@[simp] theorem State.setVec_me_core (s : State) (v : VecState) : (s.setVec v).me.core = s.me.core := rfl
@[simp] theorem State.setVec_me_slot (s : State) (v : VecState) : (s.setVec v).me.slot = s.me.slot := rfl
@[simp] theorem State.setVec_me_miller (s : State) (v : VecState) : (s.setVec v).me.miller = s.me.miller := rfl
@[simp] theorem State.setVec_me_status (s : State) (v : VecState) : (s.setVec v).me.status = s.me.status := rfl
@[simp] theorem State.setVec_me_level (s : State) (v : VecState) : (s.setVec v).me.level = s.me.level := rfl
@[simp] theorem State.setVec_me_pc (s : State) (v : VecState) : (s.setVec v).me.pc = s.me.pc := rfl
@[simp] theorem State.setVec_me_tok (s : State) (v : VecState) : (s.setVec v).me.tok = s.me.tok := rfl
@[simp] theorem State.setVec_me_ext (s : State) (v : VecState) : (s.setVec v).me.ext = s.me.ext := rfl
@[simp] theorem State.setVec_me_regs (s : State) (v : VecState) : (s.setVec v).me.regs = s.me.regs := rfl
@[simp] theorem State.setVec_me_pend (s : State) (v : VecState) : (s.setVec v).me.pend = s.me.pend := rfl
@[simp] theorem State.setVec_me_wbase (s : State) (v : VecState) : (s.setVec v).me.wbase = s.me.wbase := rfl
@[simp] theorem State.setVec_me_wlo (s : State) (v : VecState) : (s.setVec v).me.wlo = s.me.wlo := rfl
@[simp] theorem State.setVec_me_rets (s : State) (v : VecState) : (s.setVec v).me.rets = s.me.rets := rfl
@[simp] theorem State.setVec_me_wsp (s : State) (v : VecState) : (s.setVec v).me.wsp = s.me.wsp := rfl
@[simp] theorem State.setVec_me_rsp (s : State) (v : VecState) : (s.setVec v).me.rsp = s.me.rsp := rfl
@[simp] theorem State.setVec_me_tokens (s : State) (v : VecState) : (s.setVec v).me.tokens = s.me.tokens := rfl
@[simp] theorem State.setVec_me_cr (s : State) (v : VecState) : (s.setVec v).me.cr = s.me.cr := rfl
@[simp] theorem State.setVec_me_gang (s : State) (v : VecState) : (s.setVec v).me.gang = s.me.gang := rfl
@[simp] theorem State.setVec_me_spad (s : State) (v : VecState) : (s.setVec v).me.spad = s.me.spad := rfl
@[simp] theorem State.setVec_me_barriers (s : State) (v : VecState) : (s.setVec v).me.barriers = s.me.barriers := rfl
@[simp] theorem State.setVec_me_arrived (s : State) (v : VecState) : (s.setVec v).me.arrived = s.me.arrived := rfl
@[simp] theorem State.setVec_me_triggered (s : State) (v : VecState) : (s.setVec v).me.triggered = s.me.triggered := rfl
@[simp] theorem State.setVec_me_pause (s : State) (v : VecState) : (s.setVec v).me.pause = s.me.pause := rfl
@[simp] theorem State.setVec_me_yieldTurns (s : State) (v : VecState) : (s.setVec v).me.yieldTurns = s.me.yieldTurns := rfl
@[simp] theorem State.setVec_me_prov (s : State) (v : VecState) : (s.setVec v).me.prov = s.me.prov := rfl
@[simp] theorem State.setVec_me_copies (s : State) (v : VecState) : (s.setVec v).me.copies = s.me.copies := rfl
@[simp] theorem State.setVec_me_owed (s : State) (v : VecState) : (s.setVec v).me.owed = s.me.owed := rfl
@[simp] theorem State.setVec_me_early (s : State) (v : VecState) : (s.setVec v).me.early = s.me.early := rfl
@[simp] theorem State.setVec_me_givers (s : State) (v : VecState) : (s.setVec v).me.givers = s.me.givers := rfl
@[simp] theorem State.setVec_me_matWriters (s : State) (v : VecState) : (s.setVec v).me.matWriters = s.me.matWriters := rfl
@[simp] theorem State.setVec_me_holders (s : State) (v : VecState) : (s.setVec v).me.holders = s.me.holders := rfl
@[simp] theorem State.setVec_me_woke (s : State) (v : VecState) : (s.setVec v).me.woke = s.me.woke := rfl
@[simp] theorem State.setVec_me_writers (s : State) (v : VecState) : (s.setVec v).me.writers = s.me.writers := rfl
@[simp] theorem State.setVec_me_fresh (s : State) (v : VecState) : (s.setVec v).me.fresh = s.me.fresh := rfl
@[simp] theorem State.setVec_me_brun (s : State) (v : VecState) : (s.setVec v).me.brun = s.me.brun := rfl
@[simp] theorem State.setVec_me_machine (s : State) (v : VecState) : (s.setVec v).me.machine = s.me.machine := rfl
@[simp] theorem State.setVec_me_remoteFail (s : State) (v : VecState) : (s.setVec v).me.remoteFail = s.me.remoteFail := rfl
@[simp] theorem State.setVec_me_checked (s : State) (v : VecState) : (s.setVec v).me.checked = s.me.checked := rfl
@[simp] theorem State.setVec_me_met (s : State) (v : VecState) : (s.setVec v).me.met = s.me.met := rfl

@[simp] theorem State.setVec_me_vec (s : State) (v : VecState) : (s.setVec v).me.vec = v := rfl

/-! State.noteWriter -/

@[simp] theorem State.noteWriter_others (s : State) (i : Fin 88) : (s.noteWriter i).others = s.others := rfl
@[simp] theorem State.noteWriter_cores (s : State) (i : Fin 88) : (s.noteWriter i).cores = s.cores := rfl
@[simp] theorem State.noteWriter_mem (s : State) (i : Fin 88) : (s.noteWriter i).mem = s.mem := rfl
@[simp] theorem State.noteWriter_time (s : State) (i : Fin 88) : (s.noteWriter i).time = s.time := rfl
@[simp] theorem State.noteWriter_stepNo (s : State) (i : Fin 88) : (s.noteWriter i).stepNo = s.stepNo := rfl
@[simp] theorem State.noteWriter_free (s : State) (i : Fin 88) : (s.noteWriter i).free = s.free := rfl
@[simp] theorem State.noteWriter_agenda (s : State) (i : Fin 88) : (s.noteWriter i).agenda = s.agenda := rfl
@[simp] theorem State.noteWriter_stopped (s : State) (i : Fin 88) : (s.noteWriter i).stopped = s.stopped := rfl
@[simp] theorem State.noteWriter_booted (s : State) (i : Fin 88) : (s.noteWriter i).booted = s.booted := rfl
@[simp] theorem State.noteWriter_recovery (s : State) (i : Fin 88) : (s.noteWriter i).recovery = s.recovery := rfl
@[simp] theorem State.noteWriter_resets (s : State) (i : Fin 88) : (s.noteWriter i).resets = s.resets := rfl
@[simp] theorem State.noteWriter_gangs (s : State) (i : Fin 88) : (s.noteWriter i).gangs = s.gangs := rfl
@[simp] theorem State.noteWriter_nextGang (s : State) (i : Fin 88) : (s.noteWriter i).nextGang = s.nextGang := rfl
@[simp] theorem State.noteWriter_predictor (s : State) (i : Fin 88) : (s.noteWriter i).predictor = s.predictor := rfl
@[simp] theorem State.noteWriter_tlb (s : State) (i : Fin 88) : (s.noteWriter i).tlb = s.tlb := rfl
@[simp] theorem State.noteWriter_softErrors (s : State) (i : Fin 88) : (s.noteWriter i).softErrors = s.softErrors := rfl
@[simp] theorem State.noteWriter_watchFlight (s : State) (i : Fin 88) : (s.noteWriter i).watchFlight = s.watchFlight := rfl
@[simp] theorem State.noteWriter_pubs (s : State) (i : Fin 88) : (s.noteWriter i).pubs = s.pubs := rfl
@[simp] theorem State.noteWriter_migrations (s : State) (i : Fin 88) : (s.noteWriter i).migrations = s.migrations := rfl
@[simp] theorem State.noteWriter_packets (s : State) (i : Fin 88) : (s.noteWriter i).packets = s.packets := rfl
@[simp] theorem State.noteWriter_outbox (s : State) (i : Fin 88) : (s.noteWriter i).outbox = s.outbox := rfl
@[simp] theorem State.noteWriter_log (s : State) (i : Fin 88) : (s.noteWriter i).log = s.log := rfl
@[simp] theorem State.noteWriter_diesPresent (s : State) (i : Fin 88) : (s.noteWriter i).diesPresent = s.diesPresent := rfl
@[simp] theorem State.noteWriter_cxlSize (s : State) (i : Fin 88) : (s.noteWriter i).cxlSize = s.cxlSize := rfl
@[simp] theorem State.noteWriter_linkHalf (s : State) (i : Fin 88) : (s.noteWriter i).linkHalf = s.linkHalf := rfl
@[simp] theorem State.noteWriter_retrains (s : State) (i : Fin 88) : (s.noteWriter i).retrains = s.retrains := rfl
@[simp] theorem State.noteWriter_capBase (s : State) (i : Fin 88) : (s.noteWriter i).capBase = s.capBase := rfl
@[simp] theorem State.noteWriter_mgmt (s : State) (i : Fin 88) : (s.noteWriter i).mgmt = s.mgmt := rfl
@[simp] theorem State.noteWriter_millerFw (s : State) (i : Fin 88) : (s.noteWriter i).millerFw = s.millerFw := rfl
@[simp] theorem State.noteWriter_clock (s : State) (i : Fin 88) : (s.noteWriter i).clock = s.clock := rfl
@[simp] theorem State.noteWriter_activations (s : State) (i : Fin 88) : (s.noteWriter i).activations = s.activations := rfl
@[simp] theorem State.noteWriter_nextNode (s : State) (i : Fin 88) : (s.noteWriter i).nextNode = s.nextNode := rfl
@[simp] theorem State.noteWriter_nextImage (s : State) (i : Fin 88) : (s.noteWriter i).nextImage = s.nextImage := rfl
@[simp] theorem State.noteWriter_saved (s : State) (i : Fin 88) : (s.noteWriter i).saved = s.saved := rfl
@[simp] theorem State.noteWriter_me_num (s : State) (i : Fin 88) : (s.noteWriter i).me.num = s.me.num := rfl
@[simp] theorem State.noteWriter_me_core (s : State) (i : Fin 88) : (s.noteWriter i).me.core = s.me.core := rfl
@[simp] theorem State.noteWriter_me_slot (s : State) (i : Fin 88) : (s.noteWriter i).me.slot = s.me.slot := rfl
@[simp] theorem State.noteWriter_me_miller (s : State) (i : Fin 88) : (s.noteWriter i).me.miller = s.me.miller := rfl
@[simp] theorem State.noteWriter_me_status (s : State) (i : Fin 88) : (s.noteWriter i).me.status = s.me.status := rfl
@[simp] theorem State.noteWriter_me_level (s : State) (i : Fin 88) : (s.noteWriter i).me.level = s.me.level := rfl
@[simp] theorem State.noteWriter_me_pc (s : State) (i : Fin 88) : (s.noteWriter i).me.pc = s.me.pc := rfl
@[simp] theorem State.noteWriter_me_tok (s : State) (i : Fin 88) : (s.noteWriter i).me.tok = s.me.tok := rfl
@[simp] theorem State.noteWriter_me_ext (s : State) (i : Fin 88) : (s.noteWriter i).me.ext = s.me.ext := rfl
@[simp] theorem State.noteWriter_me_regs (s : State) (i : Fin 88) : (s.noteWriter i).me.regs = s.me.regs := rfl
@[simp] theorem State.noteWriter_me_pend (s : State) (i : Fin 88) : (s.noteWriter i).me.pend = s.me.pend := rfl
@[simp] theorem State.noteWriter_me_wbase (s : State) (i : Fin 88) : (s.noteWriter i).me.wbase = s.me.wbase := rfl
@[simp] theorem State.noteWriter_me_wlo (s : State) (i : Fin 88) : (s.noteWriter i).me.wlo = s.me.wlo := rfl
@[simp] theorem State.noteWriter_me_rets (s : State) (i : Fin 88) : (s.noteWriter i).me.rets = s.me.rets := rfl
@[simp] theorem State.noteWriter_me_wsp (s : State) (i : Fin 88) : (s.noteWriter i).me.wsp = s.me.wsp := rfl
@[simp] theorem State.noteWriter_me_rsp (s : State) (i : Fin 88) : (s.noteWriter i).me.rsp = s.me.rsp := rfl
@[simp] theorem State.noteWriter_me_tokens (s : State) (i : Fin 88) : (s.noteWriter i).me.tokens = s.me.tokens := rfl
@[simp] theorem State.noteWriter_me_cr (s : State) (i : Fin 88) : (s.noteWriter i).me.cr = s.me.cr := rfl
@[simp] theorem State.noteWriter_me_gang (s : State) (i : Fin 88) : (s.noteWriter i).me.gang = s.me.gang := rfl
@[simp] theorem State.noteWriter_me_spad (s : State) (i : Fin 88) : (s.noteWriter i).me.spad = s.me.spad := rfl
@[simp] theorem State.noteWriter_me_barriers (s : State) (i : Fin 88) : (s.noteWriter i).me.barriers = s.me.barriers := rfl
@[simp] theorem State.noteWriter_me_arrived (s : State) (i : Fin 88) : (s.noteWriter i).me.arrived = s.me.arrived := rfl
@[simp] theorem State.noteWriter_me_triggered (s : State) (i : Fin 88) : (s.noteWriter i).me.triggered = s.me.triggered := rfl
@[simp] theorem State.noteWriter_me_pause (s : State) (i : Fin 88) : (s.noteWriter i).me.pause = s.me.pause := rfl
@[simp] theorem State.noteWriter_me_yieldTurns (s : State) (i : Fin 88) : (s.noteWriter i).me.yieldTurns = s.me.yieldTurns := rfl
@[simp] theorem State.noteWriter_me_prov (s : State) (i : Fin 88) : (s.noteWriter i).me.prov = s.me.prov := rfl
@[simp] theorem State.noteWriter_me_copies (s : State) (i : Fin 88) : (s.noteWriter i).me.copies = s.me.copies := rfl
@[simp] theorem State.noteWriter_me_owed (s : State) (i : Fin 88) : (s.noteWriter i).me.owed = s.me.owed := rfl
@[simp] theorem State.noteWriter_me_early (s : State) (i : Fin 88) : (s.noteWriter i).me.early = s.me.early := rfl
@[simp] theorem State.noteWriter_me_givers (s : State) (i : Fin 88) : (s.noteWriter i).me.givers = s.me.givers := rfl
@[simp] theorem State.noteWriter_me_holders (s : State) (i : Fin 88) : (s.noteWriter i).me.holders = s.me.holders := rfl
@[simp] theorem State.noteWriter_me_woke (s : State) (i : Fin 88) : (s.noteWriter i).me.woke = s.me.woke := rfl
@[simp] theorem State.noteWriter_me_writers (s : State) (i : Fin 88) : (s.noteWriter i).me.writers = s.me.writers := rfl
@[simp] theorem State.noteWriter_me_fresh (s : State) (i : Fin 88) : (s.noteWriter i).me.fresh = s.me.fresh := rfl
@[simp] theorem State.noteWriter_me_brun (s : State) (i : Fin 88) : (s.noteWriter i).me.brun = s.me.brun := rfl
@[simp] theorem State.noteWriter_me_machine (s : State) (i : Fin 88) : (s.noteWriter i).me.machine = s.me.machine := rfl
@[simp] theorem State.noteWriter_me_remoteFail (s : State) (i : Fin 88) : (s.noteWriter i).me.remoteFail = s.me.remoteFail := rfl
@[simp] theorem State.noteWriter_me_checked (s : State) (i : Fin 88) : (s.noteWriter i).me.checked = s.me.checked := rfl
@[simp] theorem State.noteWriter_me_met (s : State) (i : Fin 88) : (s.noteWriter i).me.met = s.me.met := rfl
@[simp] theorem State.noteWriter_me_vec (s : State) (i : Fin 88) : (s.noteWriter i).me.vec = s.me.vec := rfl
@[simp] theorem State.noteWriter_me_matWriters (s : State) (i : Fin 88) :
    (s.noteWriter i).me.matWriters = s.me.matWriters.set i (some s.me.unitPc) := rfl

/-! State.setCr -/

@[simp] theorem State.setCr_others (s : State) (f : CtrlRegs → CtrlRegs) : (s.setCr f).others = s.others := rfl
@[simp] theorem State.setCr_cores (s : State) (f : CtrlRegs → CtrlRegs) : (s.setCr f).cores = s.cores := rfl
@[simp] theorem State.setCr_mem (s : State) (f : CtrlRegs → CtrlRegs) : (s.setCr f).mem = s.mem := rfl
@[simp] theorem State.setCr_time (s : State) (f : CtrlRegs → CtrlRegs) : (s.setCr f).time = s.time := rfl
@[simp] theorem State.setCr_stepNo (s : State) (f : CtrlRegs → CtrlRegs) : (s.setCr f).stepNo = s.stepNo := rfl
@[simp] theorem State.setCr_free (s : State) (f : CtrlRegs → CtrlRegs) : (s.setCr f).free = s.free := rfl
@[simp] theorem State.setCr_agenda (s : State) (f : CtrlRegs → CtrlRegs) : (s.setCr f).agenda = s.agenda := rfl
@[simp] theorem State.setCr_stopped (s : State) (f : CtrlRegs → CtrlRegs) : (s.setCr f).stopped = s.stopped := rfl
@[simp] theorem State.setCr_booted (s : State) (f : CtrlRegs → CtrlRegs) : (s.setCr f).booted = s.booted := rfl
@[simp] theorem State.setCr_recovery (s : State) (f : CtrlRegs → CtrlRegs) : (s.setCr f).recovery = s.recovery := rfl
@[simp] theorem State.setCr_resets (s : State) (f : CtrlRegs → CtrlRegs) : (s.setCr f).resets = s.resets := rfl
@[simp] theorem State.setCr_gangs (s : State) (f : CtrlRegs → CtrlRegs) : (s.setCr f).gangs = s.gangs := rfl
@[simp] theorem State.setCr_nextGang (s : State) (f : CtrlRegs → CtrlRegs) : (s.setCr f).nextGang = s.nextGang := rfl
@[simp] theorem State.setCr_predictor (s : State) (f : CtrlRegs → CtrlRegs) : (s.setCr f).predictor = s.predictor := rfl
@[simp] theorem State.setCr_tlb (s : State) (f : CtrlRegs → CtrlRegs) : (s.setCr f).tlb = s.tlb := rfl
@[simp] theorem State.setCr_softErrors (s : State) (f : CtrlRegs → CtrlRegs) : (s.setCr f).softErrors = s.softErrors := rfl
@[simp] theorem State.setCr_watchFlight (s : State) (f : CtrlRegs → CtrlRegs) : (s.setCr f).watchFlight = s.watchFlight := rfl
@[simp] theorem State.setCr_pubs (s : State) (f : CtrlRegs → CtrlRegs) : (s.setCr f).pubs = s.pubs := rfl
@[simp] theorem State.setCr_migrations (s : State) (f : CtrlRegs → CtrlRegs) : (s.setCr f).migrations = s.migrations := rfl
@[simp] theorem State.setCr_packets (s : State) (f : CtrlRegs → CtrlRegs) : (s.setCr f).packets = s.packets := rfl
@[simp] theorem State.setCr_outbox (s : State) (f : CtrlRegs → CtrlRegs) : (s.setCr f).outbox = s.outbox := rfl
@[simp] theorem State.setCr_log (s : State) (f : CtrlRegs → CtrlRegs) : (s.setCr f).log = s.log := rfl
@[simp] theorem State.setCr_diesPresent (s : State) (f : CtrlRegs → CtrlRegs) : (s.setCr f).diesPresent = s.diesPresent := rfl
@[simp] theorem State.setCr_cxlSize (s : State) (f : CtrlRegs → CtrlRegs) : (s.setCr f).cxlSize = s.cxlSize := rfl
@[simp] theorem State.setCr_linkHalf (s : State) (f : CtrlRegs → CtrlRegs) : (s.setCr f).linkHalf = s.linkHalf := rfl
@[simp] theorem State.setCr_retrains (s : State) (f : CtrlRegs → CtrlRegs) : (s.setCr f).retrains = s.retrains := rfl
@[simp] theorem State.setCr_capBase (s : State) (f : CtrlRegs → CtrlRegs) : (s.setCr f).capBase = s.capBase := rfl
@[simp] theorem State.setCr_mgmt (s : State) (f : CtrlRegs → CtrlRegs) : (s.setCr f).mgmt = s.mgmt := rfl
@[simp] theorem State.setCr_millerFw (s : State) (f : CtrlRegs → CtrlRegs) : (s.setCr f).millerFw = s.millerFw := rfl
@[simp] theorem State.setCr_clock (s : State) (f : CtrlRegs → CtrlRegs) : (s.setCr f).clock = s.clock := rfl
@[simp] theorem State.setCr_activations (s : State) (f : CtrlRegs → CtrlRegs) : (s.setCr f).activations = s.activations := rfl
@[simp] theorem State.setCr_nextNode (s : State) (f : CtrlRegs → CtrlRegs) : (s.setCr f).nextNode = s.nextNode := rfl
@[simp] theorem State.setCr_nextImage (s : State) (f : CtrlRegs → CtrlRegs) : (s.setCr f).nextImage = s.nextImage := rfl
@[simp] theorem State.setCr_saved (s : State) (f : CtrlRegs → CtrlRegs) : (s.setCr f).saved = s.saved := rfl
@[simp] theorem State.setCr_me_num (s : State) (f : CtrlRegs → CtrlRegs) : (s.setCr f).me.num = s.me.num := rfl
@[simp] theorem State.setCr_me_core (s : State) (f : CtrlRegs → CtrlRegs) : (s.setCr f).me.core = s.me.core := rfl
@[simp] theorem State.setCr_me_slot (s : State) (f : CtrlRegs → CtrlRegs) : (s.setCr f).me.slot = s.me.slot := rfl
@[simp] theorem State.setCr_me_miller (s : State) (f : CtrlRegs → CtrlRegs) : (s.setCr f).me.miller = s.me.miller := rfl
@[simp] theorem State.setCr_me_status (s : State) (f : CtrlRegs → CtrlRegs) : (s.setCr f).me.status = s.me.status := rfl
@[simp] theorem State.setCr_me_level (s : State) (f : CtrlRegs → CtrlRegs) : (s.setCr f).me.level = s.me.level := rfl
@[simp] theorem State.setCr_me_pc (s : State) (f : CtrlRegs → CtrlRegs) : (s.setCr f).me.pc = s.me.pc := rfl
@[simp] theorem State.setCr_me_tok (s : State) (f : CtrlRegs → CtrlRegs) : (s.setCr f).me.tok = s.me.tok := rfl
@[simp] theorem State.setCr_me_ext (s : State) (f : CtrlRegs → CtrlRegs) : (s.setCr f).me.ext = s.me.ext := rfl
@[simp] theorem State.setCr_me_regs (s : State) (f : CtrlRegs → CtrlRegs) : (s.setCr f).me.regs = s.me.regs := rfl
@[simp] theorem State.setCr_me_pend (s : State) (f : CtrlRegs → CtrlRegs) : (s.setCr f).me.pend = s.me.pend := rfl
@[simp] theorem State.setCr_me_wbase (s : State) (f : CtrlRegs → CtrlRegs) : (s.setCr f).me.wbase = s.me.wbase := rfl
@[simp] theorem State.setCr_me_wlo (s : State) (f : CtrlRegs → CtrlRegs) : (s.setCr f).me.wlo = s.me.wlo := rfl
@[simp] theorem State.setCr_me_rets (s : State) (f : CtrlRegs → CtrlRegs) : (s.setCr f).me.rets = s.me.rets := rfl
@[simp] theorem State.setCr_me_wsp (s : State) (f : CtrlRegs → CtrlRegs) : (s.setCr f).me.wsp = s.me.wsp := rfl
@[simp] theorem State.setCr_me_rsp (s : State) (f : CtrlRegs → CtrlRegs) : (s.setCr f).me.rsp = s.me.rsp := rfl
@[simp] theorem State.setCr_me_tokens (s : State) (f : CtrlRegs → CtrlRegs) : (s.setCr f).me.tokens = s.me.tokens := rfl
@[simp] theorem State.setCr_me_vec (s : State) (f : CtrlRegs → CtrlRegs) : (s.setCr f).me.vec = s.me.vec := rfl
@[simp] theorem State.setCr_me_gang (s : State) (f : CtrlRegs → CtrlRegs) : (s.setCr f).me.gang = s.me.gang := rfl
@[simp] theorem State.setCr_me_spad (s : State) (f : CtrlRegs → CtrlRegs) : (s.setCr f).me.spad = s.me.spad := rfl
@[simp] theorem State.setCr_me_barriers (s : State) (f : CtrlRegs → CtrlRegs) : (s.setCr f).me.barriers = s.me.barriers := rfl
@[simp] theorem State.setCr_me_arrived (s : State) (f : CtrlRegs → CtrlRegs) : (s.setCr f).me.arrived = s.me.arrived := rfl
@[simp] theorem State.setCr_me_triggered (s : State) (f : CtrlRegs → CtrlRegs) : (s.setCr f).me.triggered = s.me.triggered := rfl
@[simp] theorem State.setCr_me_pause (s : State) (f : CtrlRegs → CtrlRegs) : (s.setCr f).me.pause = s.me.pause := rfl
@[simp] theorem State.setCr_me_yieldTurns (s : State) (f : CtrlRegs → CtrlRegs) : (s.setCr f).me.yieldTurns = s.me.yieldTurns := rfl
@[simp] theorem State.setCr_me_prov (s : State) (f : CtrlRegs → CtrlRegs) : (s.setCr f).me.prov = s.me.prov := rfl
@[simp] theorem State.setCr_me_copies (s : State) (f : CtrlRegs → CtrlRegs) : (s.setCr f).me.copies = s.me.copies := rfl
@[simp] theorem State.setCr_me_owed (s : State) (f : CtrlRegs → CtrlRegs) : (s.setCr f).me.owed = s.me.owed := rfl
@[simp] theorem State.setCr_me_early (s : State) (f : CtrlRegs → CtrlRegs) : (s.setCr f).me.early = s.me.early := rfl
@[simp] theorem State.setCr_me_givers (s : State) (f : CtrlRegs → CtrlRegs) : (s.setCr f).me.givers = s.me.givers := rfl
@[simp] theorem State.setCr_me_matWriters (s : State) (f : CtrlRegs → CtrlRegs) : (s.setCr f).me.matWriters = s.me.matWriters := rfl
@[simp] theorem State.setCr_me_holders (s : State) (f : CtrlRegs → CtrlRegs) : (s.setCr f).me.holders = s.me.holders := rfl
@[simp] theorem State.setCr_me_woke (s : State) (f : CtrlRegs → CtrlRegs) : (s.setCr f).me.woke = s.me.woke := rfl
@[simp] theorem State.setCr_me_writers (s : State) (f : CtrlRegs → CtrlRegs) : (s.setCr f).me.writers = s.me.writers := rfl
@[simp] theorem State.setCr_me_fresh (s : State) (f : CtrlRegs → CtrlRegs) : (s.setCr f).me.fresh = s.me.fresh := rfl
@[simp] theorem State.setCr_me_brun (s : State) (f : CtrlRegs → CtrlRegs) : (s.setCr f).me.brun = s.me.brun := rfl
@[simp] theorem State.setCr_me_machine (s : State) (f : CtrlRegs → CtrlRegs) : (s.setCr f).me.machine = s.me.machine := rfl
@[simp] theorem State.setCr_me_remoteFail (s : State) (f : CtrlRegs → CtrlRegs) : (s.setCr f).me.remoteFail = s.me.remoteFail := rfl
@[simp] theorem State.setCr_me_checked (s : State) (f : CtrlRegs → CtrlRegs) : (s.setCr f).me.checked = s.me.checked := rfl
@[simp] theorem State.setCr_me_met (s : State) (f : CtrlRegs → CtrlRegs) : (s.setCr f).me.met = s.me.met := rfl

@[simp] theorem State.setCr_me_cr (s : State) (f : CtrlRegs → CtrlRegs) : (s.setCr f).me.cr = f s.me.cr := rfl

/-! State.setPhys -/

@[simp] theorem State.setPhys_others (s : State) (p : Fin 136) (v a : Word) : (s.setPhys p v a).others = s.others := rfl
@[simp] theorem State.setPhys_cores (s : State) (p : Fin 136) (v a : Word) : (s.setPhys p v a).cores = s.cores := rfl
@[simp] theorem State.setPhys_mem (s : State) (p : Fin 136) (v a : Word) : (s.setPhys p v a).mem = s.mem := rfl
@[simp] theorem State.setPhys_time (s : State) (p : Fin 136) (v a : Word) : (s.setPhys p v a).time = s.time := rfl
@[simp] theorem State.setPhys_stepNo (s : State) (p : Fin 136) (v a : Word) : (s.setPhys p v a).stepNo = s.stepNo := rfl
@[simp] theorem State.setPhys_free (s : State) (p : Fin 136) (v a : Word) : (s.setPhys p v a).free = s.free := rfl
@[simp] theorem State.setPhys_agenda (s : State) (p : Fin 136) (v a : Word) : (s.setPhys p v a).agenda = s.agenda := rfl
@[simp] theorem State.setPhys_stopped (s : State) (p : Fin 136) (v a : Word) : (s.setPhys p v a).stopped = s.stopped := rfl
@[simp] theorem State.setPhys_booted (s : State) (p : Fin 136) (v a : Word) : (s.setPhys p v a).booted = s.booted := rfl
@[simp] theorem State.setPhys_recovery (s : State) (p : Fin 136) (v a : Word) : (s.setPhys p v a).recovery = s.recovery := rfl
@[simp] theorem State.setPhys_resets (s : State) (p : Fin 136) (v a : Word) : (s.setPhys p v a).resets = s.resets := rfl
@[simp] theorem State.setPhys_gangs (s : State) (p : Fin 136) (v a : Word) : (s.setPhys p v a).gangs = s.gangs := rfl
@[simp] theorem State.setPhys_nextGang (s : State) (p : Fin 136) (v a : Word) : (s.setPhys p v a).nextGang = s.nextGang := rfl
@[simp] theorem State.setPhys_predictor (s : State) (p : Fin 136) (v a : Word) : (s.setPhys p v a).predictor = s.predictor := rfl
@[simp] theorem State.setPhys_tlb (s : State) (p : Fin 136) (v a : Word) : (s.setPhys p v a).tlb = s.tlb := rfl
@[simp] theorem State.setPhys_softErrors (s : State) (p : Fin 136) (v a : Word) : (s.setPhys p v a).softErrors = s.softErrors := rfl
@[simp] theorem State.setPhys_watchFlight (s : State) (p : Fin 136) (v a : Word) : (s.setPhys p v a).watchFlight = s.watchFlight := rfl
@[simp] theorem State.setPhys_pubs (s : State) (p : Fin 136) (v a : Word) : (s.setPhys p v a).pubs = s.pubs := rfl
@[simp] theorem State.setPhys_migrations (s : State) (p : Fin 136) (v a : Word) : (s.setPhys p v a).migrations = s.migrations := rfl
@[simp] theorem State.setPhys_packets (s : State) (p : Fin 136) (v a : Word) : (s.setPhys p v a).packets = s.packets := rfl
@[simp] theorem State.setPhys_outbox (s : State) (p : Fin 136) (v a : Word) : (s.setPhys p v a).outbox = s.outbox := rfl
@[simp] theorem State.setPhys_log (s : State) (p : Fin 136) (v a : Word) : (s.setPhys p v a).log = s.log := rfl
@[simp] theorem State.setPhys_diesPresent (s : State) (p : Fin 136) (v a : Word) : (s.setPhys p v a).diesPresent = s.diesPresent := rfl
@[simp] theorem State.setPhys_cxlSize (s : State) (p : Fin 136) (v a : Word) : (s.setPhys p v a).cxlSize = s.cxlSize := rfl
@[simp] theorem State.setPhys_linkHalf (s : State) (p : Fin 136) (v a : Word) : (s.setPhys p v a).linkHalf = s.linkHalf := rfl
@[simp] theorem State.setPhys_retrains (s : State) (p : Fin 136) (v a : Word) : (s.setPhys p v a).retrains = s.retrains := rfl
@[simp] theorem State.setPhys_capBase (s : State) (p : Fin 136) (v a : Word) : (s.setPhys p v a).capBase = s.capBase := rfl
@[simp] theorem State.setPhys_mgmt (s : State) (p : Fin 136) (v a : Word) : (s.setPhys p v a).mgmt = s.mgmt := rfl
@[simp] theorem State.setPhys_millerFw (s : State) (p : Fin 136) (v a : Word) : (s.setPhys p v a).millerFw = s.millerFw := rfl
@[simp] theorem State.setPhys_clock (s : State) (p : Fin 136) (v a : Word) : (s.setPhys p v a).clock = s.clock := rfl
@[simp] theorem State.setPhys_activations (s : State) (p : Fin 136) (v a : Word) : (s.setPhys p v a).activations = s.activations := rfl
@[simp] theorem State.setPhys_nextNode (s : State) (p : Fin 136) (v a : Word) : (s.setPhys p v a).nextNode = s.nextNode := rfl
@[simp] theorem State.setPhys_nextImage (s : State) (p : Fin 136) (v a : Word) : (s.setPhys p v a).nextImage = s.nextImage := rfl
@[simp] theorem State.setPhys_saved (s : State) (p : Fin 136) (v a : Word) : (s.setPhys p v a).saved = s.saved := rfl
@[simp] theorem State.setPhys_me_num (s : State) (p : Fin 136) (v a : Word) : (s.setPhys p v a).me.num = s.me.num := rfl
@[simp] theorem State.setPhys_me_core (s : State) (p : Fin 136) (v a : Word) : (s.setPhys p v a).me.core = s.me.core := rfl
@[simp] theorem State.setPhys_me_slot (s : State) (p : Fin 136) (v a : Word) : (s.setPhys p v a).me.slot = s.me.slot := rfl
@[simp] theorem State.setPhys_me_miller (s : State) (p : Fin 136) (v a : Word) : (s.setPhys p v a).me.miller = s.me.miller := rfl
@[simp] theorem State.setPhys_me_status (s : State) (p : Fin 136) (v a : Word) : (s.setPhys p v a).me.status = s.me.status := rfl
@[simp] theorem State.setPhys_me_level (s : State) (p : Fin 136) (v a : Word) : (s.setPhys p v a).me.level = s.me.level := rfl
@[simp] theorem State.setPhys_me_pc (s : State) (p : Fin 136) (v a : Word) : (s.setPhys p v a).me.pc = s.me.pc := rfl
@[simp] theorem State.setPhys_me_tok (s : State) (p : Fin 136) (v a : Word) : (s.setPhys p v a).me.tok = s.me.tok := rfl
@[simp] theorem State.setPhys_me_ext (s : State) (p : Fin 136) (v a : Word) : (s.setPhys p v a).me.ext = s.me.ext := rfl
@[simp] theorem State.setPhys_me_pend (s : State) (p : Fin 136) (v a : Word) : (s.setPhys p v a).me.pend = s.me.pend := rfl
@[simp] theorem State.setPhys_me_wbase (s : State) (p : Fin 136) (v a : Word) : (s.setPhys p v a).me.wbase = s.me.wbase := rfl
@[simp] theorem State.setPhys_me_wlo (s : State) (p : Fin 136) (v a : Word) : (s.setPhys p v a).me.wlo = s.me.wlo := rfl
@[simp] theorem State.setPhys_me_rets (s : State) (p : Fin 136) (v a : Word) : (s.setPhys p v a).me.rets = s.me.rets := rfl
@[simp] theorem State.setPhys_me_wsp (s : State) (p : Fin 136) (v a : Word) : (s.setPhys p v a).me.wsp = s.me.wsp := rfl
@[simp] theorem State.setPhys_me_rsp (s : State) (p : Fin 136) (v a : Word) : (s.setPhys p v a).me.rsp = s.me.rsp := rfl
@[simp] theorem State.setPhys_me_tokens (s : State) (p : Fin 136) (v a : Word) : (s.setPhys p v a).me.tokens = s.me.tokens := rfl
@[simp] theorem State.setPhys_me_cr (s : State) (p : Fin 136) (v a : Word) : (s.setPhys p v a).me.cr = s.me.cr := rfl
@[simp] theorem State.setPhys_me_vec (s : State) (p : Fin 136) (v a : Word) : (s.setPhys p v a).me.vec = s.me.vec := rfl
@[simp] theorem State.setPhys_me_gang (s : State) (p : Fin 136) (v a : Word) : (s.setPhys p v a).me.gang = s.me.gang := rfl
@[simp] theorem State.setPhys_me_spad (s : State) (p : Fin 136) (v a : Word) : (s.setPhys p v a).me.spad = s.me.spad := rfl
@[simp] theorem State.setPhys_me_barriers (s : State) (p : Fin 136) (v a : Word) : (s.setPhys p v a).me.barriers = s.me.barriers := rfl
@[simp] theorem State.setPhys_me_arrived (s : State) (p : Fin 136) (v a : Word) : (s.setPhys p v a).me.arrived = s.me.arrived := rfl
@[simp] theorem State.setPhys_me_triggered (s : State) (p : Fin 136) (v a : Word) : (s.setPhys p v a).me.triggered = s.me.triggered := rfl
@[simp] theorem State.setPhys_me_pause (s : State) (p : Fin 136) (v a : Word) : (s.setPhys p v a).me.pause = s.me.pause := rfl
@[simp] theorem State.setPhys_me_yieldTurns (s : State) (p : Fin 136) (v a : Word) : (s.setPhys p v a).me.yieldTurns = s.me.yieldTurns := rfl
@[simp] theorem State.setPhys_me_prov (s : State) (p : Fin 136) (v a : Word) : (s.setPhys p v a).me.prov = s.me.prov := rfl
@[simp] theorem State.setPhys_me_copies (s : State) (p : Fin 136) (v a : Word) : (s.setPhys p v a).me.copies = s.me.copies := rfl
@[simp] theorem State.setPhys_me_owed (s : State) (p : Fin 136) (v a : Word) : (s.setPhys p v a).me.owed = s.me.owed := rfl
@[simp] theorem State.setPhys_me_early (s : State) (p : Fin 136) (v a : Word) : (s.setPhys p v a).me.early = s.me.early := rfl
@[simp] theorem State.setPhys_me_givers (s : State) (p : Fin 136) (v a : Word) : (s.setPhys p v a).me.givers = s.me.givers := rfl
@[simp] theorem State.setPhys_me_matWriters (s : State) (p : Fin 136) (v a : Word) : (s.setPhys p v a).me.matWriters = s.me.matWriters := rfl
@[simp] theorem State.setPhys_me_holders (s : State) (p : Fin 136) (v a : Word) : (s.setPhys p v a).me.holders = s.me.holders := rfl
@[simp] theorem State.setPhys_me_woke (s : State) (p : Fin 136) (v a : Word) : (s.setPhys p v a).me.woke = s.me.woke := rfl
@[simp] theorem State.setPhys_me_fresh (s : State) (p : Fin 136) (v a : Word) : (s.setPhys p v a).me.fresh = s.me.fresh := rfl
@[simp] theorem State.setPhys_me_brun (s : State) (p : Fin 136) (v a : Word) : (s.setPhys p v a).me.brun = s.me.brun := rfl
@[simp] theorem State.setPhys_me_machine (s : State) (p : Fin 136) (v a : Word) : (s.setPhys p v a).me.machine = s.me.machine := rfl
@[simp] theorem State.setPhys_me_remoteFail (s : State) (p : Fin 136) (v a : Word) : (s.setPhys p v a).me.remoteFail = s.me.remoteFail := rfl
@[simp] theorem State.setPhys_me_checked (s : State) (p : Fin 136) (v a : Word) : (s.setPhys p v a).me.checked = s.me.checked := rfl
@[simp] theorem State.setPhys_me_met (s : State) (p : Fin 136) (v a : Word) : (s.setPhys p v a).me.met = s.me.met := rfl

@[simp] theorem State.setPhys_me_regs (s : State) (p : Fin 136) (v a : Word) : (s.setPhys p v a).me.regs = s.me.regs.set p v := rfl
@[simp] theorem State.setPhys_me_writers (s : State) (p : Fin 136) (v a : Word) : (s.setPhys p v a).me.writers = s.me.writers.set p (some a) := rfl

/-! State.setReg -/

@[simp] theorem State.setReg_others (s : State) (r : SReg) (v : Word) : (s.setReg r v).others = s.others := by unfold State.setReg; split <;> rfl
@[simp] theorem State.setReg_cores (s : State) (r : SReg) (v : Word) : (s.setReg r v).cores = s.cores := by unfold State.setReg; split <;> rfl
@[simp] theorem State.setReg_mem (s : State) (r : SReg) (v : Word) : (s.setReg r v).mem = s.mem := by unfold State.setReg; split <;> rfl
@[simp] theorem State.setReg_time (s : State) (r : SReg) (v : Word) : (s.setReg r v).time = s.time := by unfold State.setReg; split <;> rfl
@[simp] theorem State.setReg_stepNo (s : State) (r : SReg) (v : Word) : (s.setReg r v).stepNo = s.stepNo := by unfold State.setReg; split <;> rfl
@[simp] theorem State.setReg_free (s : State) (r : SReg) (v : Word) : (s.setReg r v).free = s.free := by unfold State.setReg; split <;> rfl
@[simp] theorem State.setReg_agenda (s : State) (r : SReg) (v : Word) : (s.setReg r v).agenda = s.agenda := by unfold State.setReg; split <;> rfl
@[simp] theorem State.setReg_stopped (s : State) (r : SReg) (v : Word) : (s.setReg r v).stopped = s.stopped := by unfold State.setReg; split <;> rfl
@[simp] theorem State.setReg_booted (s : State) (r : SReg) (v : Word) : (s.setReg r v).booted = s.booted := by unfold State.setReg; split <;> rfl
@[simp] theorem State.setReg_recovery (s : State) (r : SReg) (v : Word) : (s.setReg r v).recovery = s.recovery := by unfold State.setReg; split <;> rfl
@[simp] theorem State.setReg_resets (s : State) (r : SReg) (v : Word) : (s.setReg r v).resets = s.resets := by unfold State.setReg; split <;> rfl
@[simp] theorem State.setReg_gangs (s : State) (r : SReg) (v : Word) : (s.setReg r v).gangs = s.gangs := by unfold State.setReg; split <;> rfl
@[simp] theorem State.setReg_nextGang (s : State) (r : SReg) (v : Word) : (s.setReg r v).nextGang = s.nextGang := by unfold State.setReg; split <;> rfl
@[simp] theorem State.setReg_predictor (s : State) (r : SReg) (v : Word) : (s.setReg r v).predictor = s.predictor := by unfold State.setReg; split <;> rfl
@[simp] theorem State.setReg_tlb (s : State) (r : SReg) (v : Word) : (s.setReg r v).tlb = s.tlb := by unfold State.setReg; split <;> rfl
@[simp] theorem State.setReg_softErrors (s : State) (r : SReg) (v : Word) : (s.setReg r v).softErrors = s.softErrors := by unfold State.setReg; split <;> rfl
@[simp] theorem State.setReg_watchFlight (s : State) (r : SReg) (v : Word) : (s.setReg r v).watchFlight = s.watchFlight := by unfold State.setReg; split <;> rfl
@[simp] theorem State.setReg_pubs (s : State) (r : SReg) (v : Word) : (s.setReg r v).pubs = s.pubs := by unfold State.setReg; split <;> rfl
@[simp] theorem State.setReg_migrations (s : State) (r : SReg) (v : Word) : (s.setReg r v).migrations = s.migrations := by unfold State.setReg; split <;> rfl
@[simp] theorem State.setReg_packets (s : State) (r : SReg) (v : Word) : (s.setReg r v).packets = s.packets := by unfold State.setReg; split <;> rfl
@[simp] theorem State.setReg_outbox (s : State) (r : SReg) (v : Word) : (s.setReg r v).outbox = s.outbox := by unfold State.setReg; split <;> rfl
@[simp] theorem State.setReg_log (s : State) (r : SReg) (v : Word) : (s.setReg r v).log = s.log := by unfold State.setReg; split <;> rfl
@[simp] theorem State.setReg_diesPresent (s : State) (r : SReg) (v : Word) : (s.setReg r v).diesPresent = s.diesPresent := by unfold State.setReg; split <;> rfl
@[simp] theorem State.setReg_cxlSize (s : State) (r : SReg) (v : Word) : (s.setReg r v).cxlSize = s.cxlSize := by unfold State.setReg; split <;> rfl
@[simp] theorem State.setReg_linkHalf (s : State) (r : SReg) (v : Word) : (s.setReg r v).linkHalf = s.linkHalf := by unfold State.setReg; split <;> rfl
@[simp] theorem State.setReg_retrains (s : State) (r : SReg) (v : Word) : (s.setReg r v).retrains = s.retrains := by unfold State.setReg; split <;> rfl
@[simp] theorem State.setReg_capBase (s : State) (r : SReg) (v : Word) : (s.setReg r v).capBase = s.capBase := by unfold State.setReg; split <;> rfl
@[simp] theorem State.setReg_mgmt (s : State) (r : SReg) (v : Word) : (s.setReg r v).mgmt = s.mgmt := by unfold State.setReg; split <;> rfl
@[simp] theorem State.setReg_millerFw (s : State) (r : SReg) (v : Word) : (s.setReg r v).millerFw = s.millerFw := by unfold State.setReg; split <;> rfl
@[simp] theorem State.setReg_clock (s : State) (r : SReg) (v : Word) : (s.setReg r v).clock = s.clock := by unfold State.setReg; split <;> rfl
@[simp] theorem State.setReg_activations (s : State) (r : SReg) (v : Word) : (s.setReg r v).activations = s.activations := by unfold State.setReg; split <;> rfl
@[simp] theorem State.setReg_nextNode (s : State) (r : SReg) (v : Word) : (s.setReg r v).nextNode = s.nextNode := by unfold State.setReg; split <;> rfl
@[simp] theorem State.setReg_nextImage (s : State) (r : SReg) (v : Word) : (s.setReg r v).nextImage = s.nextImage := by unfold State.setReg; split <;> rfl
@[simp] theorem State.setReg_saved (s : State) (r : SReg) (v : Word) : (s.setReg r v).saved = s.saved := by unfold State.setReg; split <;> rfl
@[simp] theorem State.setReg_me_num (s : State) (r : SReg) (v : Word) : (s.setReg r v).me.num = s.me.num := by unfold State.setReg; split <;> rfl
@[simp] theorem State.setReg_me_core (s : State) (r : SReg) (v : Word) : (s.setReg r v).me.core = s.me.core := by unfold State.setReg; split <;> rfl
@[simp] theorem State.setReg_me_slot (s : State) (r : SReg) (v : Word) : (s.setReg r v).me.slot = s.me.slot := by unfold State.setReg; split <;> rfl
@[simp] theorem State.setReg_me_miller (s : State) (r : SReg) (v : Word) : (s.setReg r v).me.miller = s.me.miller := by unfold State.setReg; split <;> rfl
@[simp] theorem State.setReg_me_status (s : State) (r : SReg) (v : Word) : (s.setReg r v).me.status = s.me.status := by unfold State.setReg; split <;> rfl
@[simp] theorem State.setReg_me_level (s : State) (r : SReg) (v : Word) : (s.setReg r v).me.level = s.me.level := by unfold State.setReg; split <;> rfl
@[simp] theorem State.setReg_me_pc (s : State) (r : SReg) (v : Word) : (s.setReg r v).me.pc = s.me.pc := by unfold State.setReg; split <;> rfl
@[simp] theorem State.setReg_me_tok (s : State) (r : SReg) (v : Word) : (s.setReg r v).me.tok = s.me.tok := by unfold State.setReg; split <;> rfl
@[simp] theorem State.setReg_me_ext (s : State) (r : SReg) (v : Word) : (s.setReg r v).me.ext = s.me.ext := by unfold State.setReg; split <;> rfl
@[simp] theorem State.setReg_me_pend (s : State) (r : SReg) (v : Word) : (s.setReg r v).me.pend = s.me.pend := by unfold State.setReg; split <;> rfl
@[simp] theorem State.setReg_me_wbase (s : State) (r : SReg) (v : Word) : (s.setReg r v).me.wbase = s.me.wbase := by unfold State.setReg; split <;> rfl
@[simp] theorem State.setReg_me_wlo (s : State) (r : SReg) (v : Word) : (s.setReg r v).me.wlo = s.me.wlo := by unfold State.setReg; split <;> rfl
@[simp] theorem State.setReg_me_rets (s : State) (r : SReg) (v : Word) : (s.setReg r v).me.rets = s.me.rets := by unfold State.setReg; split <;> rfl
@[simp] theorem State.setReg_me_wsp (s : State) (r : SReg) (v : Word) : (s.setReg r v).me.wsp = s.me.wsp := by unfold State.setReg; split <;> rfl
@[simp] theorem State.setReg_me_rsp (s : State) (r : SReg) (v : Word) : (s.setReg r v).me.rsp = s.me.rsp := by unfold State.setReg; split <;> rfl
@[simp] theorem State.setReg_me_tokens (s : State) (r : SReg) (v : Word) : (s.setReg r v).me.tokens = s.me.tokens := by unfold State.setReg; split <;> rfl
@[simp] theorem State.setReg_me_cr (s : State) (r : SReg) (v : Word) : (s.setReg r v).me.cr = s.me.cr := by unfold State.setReg; split <;> rfl
@[simp] theorem State.setReg_me_vec (s : State) (r : SReg) (v : Word) : (s.setReg r v).me.vec = s.me.vec := by unfold State.setReg; split <;> rfl
@[simp] theorem State.setReg_me_gang (s : State) (r : SReg) (v : Word) : (s.setReg r v).me.gang = s.me.gang := by unfold State.setReg; split <;> rfl
@[simp] theorem State.setReg_me_spad (s : State) (r : SReg) (v : Word) : (s.setReg r v).me.spad = s.me.spad := by unfold State.setReg; split <;> rfl
@[simp] theorem State.setReg_me_barriers (s : State) (r : SReg) (v : Word) : (s.setReg r v).me.barriers = s.me.barriers := by unfold State.setReg; split <;> rfl
@[simp] theorem State.setReg_me_arrived (s : State) (r : SReg) (v : Word) : (s.setReg r v).me.arrived = s.me.arrived := by unfold State.setReg; split <;> rfl
@[simp] theorem State.setReg_me_triggered (s : State) (r : SReg) (v : Word) : (s.setReg r v).me.triggered = s.me.triggered := by unfold State.setReg; split <;> rfl
@[simp] theorem State.setReg_me_pause (s : State) (r : SReg) (v : Word) : (s.setReg r v).me.pause = s.me.pause := by unfold State.setReg; split <;> rfl
@[simp] theorem State.setReg_me_yieldTurns (s : State) (r : SReg) (v : Word) : (s.setReg r v).me.yieldTurns = s.me.yieldTurns := by unfold State.setReg; split <;> rfl
@[simp] theorem State.setReg_me_prov (s : State) (r : SReg) (v : Word) : (s.setReg r v).me.prov = s.me.prov := by unfold State.setReg; split <;> rfl
@[simp] theorem State.setReg_me_copies (s : State) (r : SReg) (v : Word) : (s.setReg r v).me.copies = s.me.copies := by unfold State.setReg; split <;> rfl
@[simp] theorem State.setReg_me_owed (s : State) (r : SReg) (v : Word) : (s.setReg r v).me.owed = s.me.owed := by unfold State.setReg; split <;> rfl
@[simp] theorem State.setReg_me_early (s : State) (r : SReg) (v : Word) : (s.setReg r v).me.early = s.me.early := by unfold State.setReg; split <;> rfl
@[simp] theorem State.setReg_me_givers (s : State) (r : SReg) (v : Word) : (s.setReg r v).me.givers = s.me.givers := by unfold State.setReg; split <;> rfl
@[simp] theorem State.setReg_me_matWriters (s : State) (r : SReg) (v : Word) : (s.setReg r v).me.matWriters = s.me.matWriters := by unfold State.setReg; split <;> rfl
@[simp] theorem State.setReg_me_holders (s : State) (r : SReg) (v : Word) : (s.setReg r v).me.holders = s.me.holders := by unfold State.setReg; split <;> rfl
@[simp] theorem State.setReg_me_woke (s : State) (r : SReg) (v : Word) : (s.setReg r v).me.woke = s.me.woke := by unfold State.setReg; split <;> rfl
@[simp] theorem State.setReg_me_fresh (s : State) (r : SReg) (v : Word) : (s.setReg r v).me.fresh = s.me.fresh := by unfold State.setReg; split <;> rfl
@[simp] theorem State.setReg_me_brun (s : State) (r : SReg) (v : Word) : (s.setReg r v).me.brun = s.me.brun := by unfold State.setReg; split <;> rfl
@[simp] theorem State.setReg_me_machine (s : State) (r : SReg) (v : Word) : (s.setReg r v).me.machine = s.me.machine := by unfold State.setReg; split <;> rfl
@[simp] theorem State.setReg_me_remoteFail (s : State) (r : SReg) (v : Word) : (s.setReg r v).me.remoteFail = s.me.remoteFail := by unfold State.setReg; split <;> rfl
@[simp] theorem State.setReg_me_checked (s : State) (r : SReg) (v : Word) : (s.setReg r v).me.checked = s.me.checked := by unfold State.setReg; split <;> rfl
@[simp] theorem State.setReg_me_met (s : State) (r : SReg) (v : Word) : (s.setReg r v).me.met = s.me.met := by unfold State.setReg; split <;> rfl

/-! State.orFlags -/

@[simp] theorem State.orFlags_others (s : State) (f : FlagSet) : (s.orFlags f).others = s.others := rfl
@[simp] theorem State.orFlags_cores (s : State) (f : FlagSet) : (s.orFlags f).cores = s.cores := rfl
@[simp] theorem State.orFlags_mem (s : State) (f : FlagSet) : (s.orFlags f).mem = s.mem := rfl
@[simp] theorem State.orFlags_time (s : State) (f : FlagSet) : (s.orFlags f).time = s.time := rfl
@[simp] theorem State.orFlags_stepNo (s : State) (f : FlagSet) : (s.orFlags f).stepNo = s.stepNo := rfl
@[simp] theorem State.orFlags_free (s : State) (f : FlagSet) : (s.orFlags f).free = s.free := rfl
@[simp] theorem State.orFlags_agenda (s : State) (f : FlagSet) : (s.orFlags f).agenda = s.agenda := rfl
@[simp] theorem State.orFlags_stopped (s : State) (f : FlagSet) : (s.orFlags f).stopped = s.stopped := rfl
@[simp] theorem State.orFlags_booted (s : State) (f : FlagSet) : (s.orFlags f).booted = s.booted := rfl
@[simp] theorem State.orFlags_recovery (s : State) (f : FlagSet) : (s.orFlags f).recovery = s.recovery := rfl
@[simp] theorem State.orFlags_resets (s : State) (f : FlagSet) : (s.orFlags f).resets = s.resets := rfl
@[simp] theorem State.orFlags_gangs (s : State) (f : FlagSet) : (s.orFlags f).gangs = s.gangs := rfl
@[simp] theorem State.orFlags_nextGang (s : State) (f : FlagSet) : (s.orFlags f).nextGang = s.nextGang := rfl
@[simp] theorem State.orFlags_predictor (s : State) (f : FlagSet) : (s.orFlags f).predictor = s.predictor := rfl
@[simp] theorem State.orFlags_tlb (s : State) (f : FlagSet) : (s.orFlags f).tlb = s.tlb := rfl
@[simp] theorem State.orFlags_softErrors (s : State) (f : FlagSet) : (s.orFlags f).softErrors = s.softErrors := rfl
@[simp] theorem State.orFlags_watchFlight (s : State) (f : FlagSet) : (s.orFlags f).watchFlight = s.watchFlight := rfl
@[simp] theorem State.orFlags_pubs (s : State) (f : FlagSet) : (s.orFlags f).pubs = s.pubs := rfl
@[simp] theorem State.orFlags_migrations (s : State) (f : FlagSet) : (s.orFlags f).migrations = s.migrations := rfl
@[simp] theorem State.orFlags_packets (s : State) (f : FlagSet) : (s.orFlags f).packets = s.packets := rfl
@[simp] theorem State.orFlags_outbox (s : State) (f : FlagSet) : (s.orFlags f).outbox = s.outbox := rfl
@[simp] theorem State.orFlags_log (s : State) (f : FlagSet) : (s.orFlags f).log = s.log := rfl
@[simp] theorem State.orFlags_diesPresent (s : State) (f : FlagSet) : (s.orFlags f).diesPresent = s.diesPresent := rfl
@[simp] theorem State.orFlags_cxlSize (s : State) (f : FlagSet) : (s.orFlags f).cxlSize = s.cxlSize := rfl
@[simp] theorem State.orFlags_linkHalf (s : State) (f : FlagSet) : (s.orFlags f).linkHalf = s.linkHalf := rfl
@[simp] theorem State.orFlags_retrains (s : State) (f : FlagSet) : (s.orFlags f).retrains = s.retrains := rfl
@[simp] theorem State.orFlags_capBase (s : State) (f : FlagSet) : (s.orFlags f).capBase = s.capBase := rfl
@[simp] theorem State.orFlags_mgmt (s : State) (f : FlagSet) : (s.orFlags f).mgmt = s.mgmt := rfl
@[simp] theorem State.orFlags_millerFw (s : State) (f : FlagSet) : (s.orFlags f).millerFw = s.millerFw := rfl
@[simp] theorem State.orFlags_clock (s : State) (f : FlagSet) : (s.orFlags f).clock = s.clock := rfl
@[simp] theorem State.orFlags_activations (s : State) (f : FlagSet) : (s.orFlags f).activations = s.activations := rfl
@[simp] theorem State.orFlags_nextNode (s : State) (f : FlagSet) : (s.orFlags f).nextNode = s.nextNode := rfl
@[simp] theorem State.orFlags_nextImage (s : State) (f : FlagSet) : (s.orFlags f).nextImage = s.nextImage := rfl
@[simp] theorem State.orFlags_saved (s : State) (f : FlagSet) : (s.orFlags f).saved = s.saved := rfl
@[simp] theorem State.orFlags_me_num (s : State) (f : FlagSet) : (s.orFlags f).me.num = s.me.num := rfl
@[simp] theorem State.orFlags_me_core (s : State) (f : FlagSet) : (s.orFlags f).me.core = s.me.core := rfl
@[simp] theorem State.orFlags_me_slot (s : State) (f : FlagSet) : (s.orFlags f).me.slot = s.me.slot := rfl
@[simp] theorem State.orFlags_me_miller (s : State) (f : FlagSet) : (s.orFlags f).me.miller = s.me.miller := rfl
@[simp] theorem State.orFlags_me_status (s : State) (f : FlagSet) : (s.orFlags f).me.status = s.me.status := rfl
@[simp] theorem State.orFlags_me_level (s : State) (f : FlagSet) : (s.orFlags f).me.level = s.me.level := rfl
@[simp] theorem State.orFlags_me_pc (s : State) (f : FlagSet) : (s.orFlags f).me.pc = s.me.pc := rfl
@[simp] theorem State.orFlags_me_tok (s : State) (f : FlagSet) : (s.orFlags f).me.tok = s.me.tok := rfl
@[simp] theorem State.orFlags_me_ext (s : State) (f : FlagSet) : (s.orFlags f).me.ext = s.me.ext := rfl
@[simp] theorem State.orFlags_me_regs (s : State) (f : FlagSet) : (s.orFlags f).me.regs = s.me.regs := rfl
@[simp] theorem State.orFlags_me_pend (s : State) (f : FlagSet) : (s.orFlags f).me.pend = s.me.pend := rfl
@[simp] theorem State.orFlags_me_wbase (s : State) (f : FlagSet) : (s.orFlags f).me.wbase = s.me.wbase := rfl
@[simp] theorem State.orFlags_me_wlo (s : State) (f : FlagSet) : (s.orFlags f).me.wlo = s.me.wlo := rfl
@[simp] theorem State.orFlags_me_rets (s : State) (f : FlagSet) : (s.orFlags f).me.rets = s.me.rets := rfl
@[simp] theorem State.orFlags_me_wsp (s : State) (f : FlagSet) : (s.orFlags f).me.wsp = s.me.wsp := rfl
@[simp] theorem State.orFlags_me_rsp (s : State) (f : FlagSet) : (s.orFlags f).me.rsp = s.me.rsp := rfl
@[simp] theorem State.orFlags_me_tokens (s : State) (f : FlagSet) : (s.orFlags f).me.tokens = s.me.tokens := rfl
@[simp] theorem State.orFlags_me_vec (s : State) (f : FlagSet) : (s.orFlags f).me.vec = s.me.vec := rfl
@[simp] theorem State.orFlags_me_gang (s : State) (f : FlagSet) : (s.orFlags f).me.gang = s.me.gang := rfl
@[simp] theorem State.orFlags_me_spad (s : State) (f : FlagSet) : (s.orFlags f).me.spad = s.me.spad := rfl
@[simp] theorem State.orFlags_me_barriers (s : State) (f : FlagSet) : (s.orFlags f).me.barriers = s.me.barriers := rfl
@[simp] theorem State.orFlags_me_arrived (s : State) (f : FlagSet) : (s.orFlags f).me.arrived = s.me.arrived := rfl
@[simp] theorem State.orFlags_me_triggered (s : State) (f : FlagSet) : (s.orFlags f).me.triggered = s.me.triggered := rfl
@[simp] theorem State.orFlags_me_pause (s : State) (f : FlagSet) : (s.orFlags f).me.pause = s.me.pause := rfl
@[simp] theorem State.orFlags_me_yieldTurns (s : State) (f : FlagSet) : (s.orFlags f).me.yieldTurns = s.me.yieldTurns := rfl
@[simp] theorem State.orFlags_me_prov (s : State) (f : FlagSet) : (s.orFlags f).me.prov = s.me.prov := rfl
@[simp] theorem State.orFlags_me_copies (s : State) (f : FlagSet) : (s.orFlags f).me.copies = s.me.copies := rfl
@[simp] theorem State.orFlags_me_owed (s : State) (f : FlagSet) : (s.orFlags f).me.owed = s.me.owed := rfl
@[simp] theorem State.orFlags_me_early (s : State) (f : FlagSet) : (s.orFlags f).me.early = s.me.early := rfl
@[simp] theorem State.orFlags_me_givers (s : State) (f : FlagSet) : (s.orFlags f).me.givers = s.me.givers := rfl
@[simp] theorem State.orFlags_me_matWriters (s : State) (f : FlagSet) : (s.orFlags f).me.matWriters = s.me.matWriters := rfl
@[simp] theorem State.orFlags_me_holders (s : State) (f : FlagSet) : (s.orFlags f).me.holders = s.me.holders := rfl
@[simp] theorem State.orFlags_me_woke (s : State) (f : FlagSet) : (s.orFlags f).me.woke = s.me.woke := rfl
@[simp] theorem State.orFlags_me_writers (s : State) (f : FlagSet) : (s.orFlags f).me.writers = s.me.writers := rfl
@[simp] theorem State.orFlags_me_fresh (s : State) (f : FlagSet) : (s.orFlags f).me.fresh = s.me.fresh := rfl
@[simp] theorem State.orFlags_me_brun (s : State) (f : FlagSet) : (s.orFlags f).me.brun = s.me.brun := rfl
@[simp] theorem State.orFlags_me_machine (s : State) (f : FlagSet) : (s.orFlags f).me.machine = s.me.machine := rfl
@[simp] theorem State.orFlags_me_remoteFail (s : State) (f : FlagSet) : (s.orFlags f).me.remoteFail = s.me.remoteFail := rfl
@[simp] theorem State.orFlags_me_checked (s : State) (f : FlagSet) : (s.orFlags f).me.checked = s.me.checked := rfl
@[simp] theorem State.orFlags_me_met (s : State) (f : FlagSet) : (s.orFlags f).me.met = s.me.met := rfl

@[simp] theorem State.orFlags_vflags (s : State) (f : FlagSet) : (s.orFlags f).me.cr.vflags = s.me.cr.vflags ||| f := rfl

/-! State.setCore -/

@[simp] theorem State.setCore_me (s : State) (c : Core) : (s.setCore c).me = s.me := by unfold State.setCore; split <;> rfl
@[simp] theorem State.setCore_others (s : State) (c : Core) : (s.setCore c).others = s.others := by unfold State.setCore; split <;> rfl
@[simp] theorem State.setCore_mem (s : State) (c : Core) : (s.setCore c).mem = s.mem := by unfold State.setCore; split <;> rfl
@[simp] theorem State.setCore_time (s : State) (c : Core) : (s.setCore c).time = s.time := by unfold State.setCore; split <;> rfl
@[simp] theorem State.setCore_stepNo (s : State) (c : Core) : (s.setCore c).stepNo = s.stepNo := by unfold State.setCore; split <;> rfl
@[simp] theorem State.setCore_free (s : State) (c : Core) : (s.setCore c).free = s.free := by unfold State.setCore; split <;> rfl
@[simp] theorem State.setCore_agenda (s : State) (c : Core) : (s.setCore c).agenda = s.agenda := by unfold State.setCore; split <;> rfl
@[simp] theorem State.setCore_stopped (s : State) (c : Core) : (s.setCore c).stopped = s.stopped := by unfold State.setCore; split <;> rfl
@[simp] theorem State.setCore_booted (s : State) (c : Core) : (s.setCore c).booted = s.booted := by unfold State.setCore; split <;> rfl
@[simp] theorem State.setCore_recovery (s : State) (c : Core) : (s.setCore c).recovery = s.recovery := by unfold State.setCore; split <;> rfl
@[simp] theorem State.setCore_resets (s : State) (c : Core) : (s.setCore c).resets = s.resets := by unfold State.setCore; split <;> rfl
@[simp] theorem State.setCore_gangs (s : State) (c : Core) : (s.setCore c).gangs = s.gangs := by unfold State.setCore; split <;> rfl
@[simp] theorem State.setCore_nextGang (s : State) (c : Core) : (s.setCore c).nextGang = s.nextGang := by unfold State.setCore; split <;> rfl
@[simp] theorem State.setCore_predictor (s : State) (c : Core) : (s.setCore c).predictor = s.predictor := by unfold State.setCore; split <;> rfl
@[simp] theorem State.setCore_tlb (s : State) (c : Core) : (s.setCore c).tlb = s.tlb := by unfold State.setCore; split <;> rfl
@[simp] theorem State.setCore_softErrors (s : State) (c : Core) : (s.setCore c).softErrors = s.softErrors := by unfold State.setCore; split <;> rfl
@[simp] theorem State.setCore_watchFlight (s : State) (c : Core) : (s.setCore c).watchFlight = s.watchFlight := by unfold State.setCore; split <;> rfl
@[simp] theorem State.setCore_pubs (s : State) (c : Core) : (s.setCore c).pubs = s.pubs := by unfold State.setCore; split <;> rfl
@[simp] theorem State.setCore_migrations (s : State) (c : Core) : (s.setCore c).migrations = s.migrations := by unfold State.setCore; split <;> rfl
@[simp] theorem State.setCore_packets (s : State) (c : Core) : (s.setCore c).packets = s.packets := by unfold State.setCore; split <;> rfl
@[simp] theorem State.setCore_outbox (s : State) (c : Core) : (s.setCore c).outbox = s.outbox := by unfold State.setCore; split <;> rfl
@[simp] theorem State.setCore_log (s : State) (c : Core) : (s.setCore c).log = s.log := by unfold State.setCore; split <;> rfl
@[simp] theorem State.setCore_diesPresent (s : State) (c : Core) : (s.setCore c).diesPresent = s.diesPresent := by unfold State.setCore; split <;> rfl
@[simp] theorem State.setCore_cxlSize (s : State) (c : Core) : (s.setCore c).cxlSize = s.cxlSize := by unfold State.setCore; split <;> rfl
@[simp] theorem State.setCore_linkHalf (s : State) (c : Core) : (s.setCore c).linkHalf = s.linkHalf := by unfold State.setCore; split <;> rfl
@[simp] theorem State.setCore_retrains (s : State) (c : Core) : (s.setCore c).retrains = s.retrains := by unfold State.setCore; split <;> rfl
@[simp] theorem State.setCore_capBase (s : State) (c : Core) : (s.setCore c).capBase = s.capBase := by unfold State.setCore; split <;> rfl
@[simp] theorem State.setCore_mgmt (s : State) (c : Core) : (s.setCore c).mgmt = s.mgmt := by unfold State.setCore; split <;> rfl
@[simp] theorem State.setCore_millerFw (s : State) (c : Core) : (s.setCore c).millerFw = s.millerFw := by unfold State.setCore; split <;> rfl
@[simp] theorem State.setCore_clock (s : State) (c : Core) : (s.setCore c).clock = s.clock := by unfold State.setCore; split <;> rfl
@[simp] theorem State.setCore_activations (s : State) (c : Core) : (s.setCore c).activations = s.activations := by unfold State.setCore; split <;> rfl
@[simp] theorem State.setCore_nextNode (s : State) (c : Core) : (s.setCore c).nextNode = s.nextNode := by unfold State.setCore; split <;> rfl
@[simp] theorem State.setCore_nextImage (s : State) (c : Core) : (s.setCore c).nextImage = s.nextImage := by unfold State.setCore; split <;> rfl
@[simp] theorem State.setCore_saved (s : State) (c : Core) : (s.setCore c).saved = s.saved := by unfold State.setCore; split <;> rfl

/-! State.store -/

@[simp] theorem State.store_me (s : State) (loc : Nat) (bs : List Byte) : (s.store loc bs).me = s.me := rfl
@[simp] theorem State.store_others (s : State) (loc : Nat) (bs : List Byte) : (s.store loc bs).others = s.others := rfl
@[simp] theorem State.store_cores (s : State) (loc : Nat) (bs : List Byte) : (s.store loc bs).cores = s.cores := rfl
@[simp] theorem State.store_time (s : State) (loc : Nat) (bs : List Byte) : (s.store loc bs).time = s.time := rfl
@[simp] theorem State.store_stepNo (s : State) (loc : Nat) (bs : List Byte) : (s.store loc bs).stepNo = s.stepNo := rfl
@[simp] theorem State.store_free (s : State) (loc : Nat) (bs : List Byte) : (s.store loc bs).free = s.free := rfl
@[simp] theorem State.store_agenda (s : State) (loc : Nat) (bs : List Byte) : (s.store loc bs).agenda = s.agenda := rfl
@[simp] theorem State.store_stopped (s : State) (loc : Nat) (bs : List Byte) : (s.store loc bs).stopped = s.stopped := rfl
@[simp] theorem State.store_booted (s : State) (loc : Nat) (bs : List Byte) : (s.store loc bs).booted = s.booted := rfl
@[simp] theorem State.store_recovery (s : State) (loc : Nat) (bs : List Byte) : (s.store loc bs).recovery = s.recovery := rfl
@[simp] theorem State.store_resets (s : State) (loc : Nat) (bs : List Byte) : (s.store loc bs).resets = s.resets := rfl
@[simp] theorem State.store_gangs (s : State) (loc : Nat) (bs : List Byte) : (s.store loc bs).gangs = s.gangs := rfl
@[simp] theorem State.store_nextGang (s : State) (loc : Nat) (bs : List Byte) : (s.store loc bs).nextGang = s.nextGang := rfl
@[simp] theorem State.store_predictor (s : State) (loc : Nat) (bs : List Byte) : (s.store loc bs).predictor = s.predictor := rfl
@[simp] theorem State.store_tlb (s : State) (loc : Nat) (bs : List Byte) : (s.store loc bs).tlb = s.tlb := rfl
@[simp] theorem State.store_watchFlight (s : State) (loc : Nat) (bs : List Byte) : (s.store loc bs).watchFlight = s.watchFlight := rfl
@[simp] theorem State.store_migrations (s : State) (loc : Nat) (bs : List Byte) : (s.store loc bs).migrations = s.migrations := rfl
@[simp] theorem State.store_packets (s : State) (loc : Nat) (bs : List Byte) : (s.store loc bs).packets = s.packets := rfl
@[simp] theorem State.store_outbox (s : State) (loc : Nat) (bs : List Byte) : (s.store loc bs).outbox = s.outbox := rfl
@[simp] theorem State.store_log (s : State) (loc : Nat) (bs : List Byte) : (s.store loc bs).log = s.log := rfl
@[simp] theorem State.store_diesPresent (s : State) (loc : Nat) (bs : List Byte) : (s.store loc bs).diesPresent = s.diesPresent := rfl
@[simp] theorem State.store_cxlSize (s : State) (loc : Nat) (bs : List Byte) : (s.store loc bs).cxlSize = s.cxlSize := rfl
@[simp] theorem State.store_linkHalf (s : State) (loc : Nat) (bs : List Byte) : (s.store loc bs).linkHalf = s.linkHalf := rfl
@[simp] theorem State.store_retrains (s : State) (loc : Nat) (bs : List Byte) : (s.store loc bs).retrains = s.retrains := rfl
@[simp] theorem State.store_capBase (s : State) (loc : Nat) (bs : List Byte) : (s.store loc bs).capBase = s.capBase := rfl
@[simp] theorem State.store_mgmt (s : State) (loc : Nat) (bs : List Byte) : (s.store loc bs).mgmt = s.mgmt := rfl
@[simp] theorem State.store_millerFw (s : State) (loc : Nat) (bs : List Byte) : (s.store loc bs).millerFw = s.millerFw := rfl
@[simp] theorem State.store_clock (s : State) (loc : Nat) (bs : List Byte) : (s.store loc bs).clock = s.clock := rfl
@[simp] theorem State.store_activations (s : State) (loc : Nat) (bs : List Byte) : (s.store loc bs).activations = s.activations := rfl
@[simp] theorem State.store_nextNode (s : State) (loc : Nat) (bs : List Byte) : (s.store loc bs).nextNode = s.nextNode := rfl
@[simp] theorem State.store_nextImage (s : State) (loc : Nat) (bs : List Byte) : (s.store loc bs).nextImage = s.nextImage := rfl
@[simp] theorem State.store_saved (s : State) (loc : Nat) (bs : List Byte) : (s.store loc bs).saved = s.saved := rfl

@[simp] theorem State.store_mem (s : State) (loc : Nat) (bs : List Byte) : (s.store loc bs).mem = memPut s.mem loc bs := rfl

/-! State.tick -/

@[simp] theorem State.tick_me (s : State)  : (s.tick).me = s.me := rfl
@[simp] theorem State.tick_others (s : State)  : (s.tick).others = s.others := rfl
@[simp] theorem State.tick_cores (s : State)  : (s.tick).cores = s.cores := rfl
@[simp] theorem State.tick_mem (s : State)  : (s.tick).mem = s.mem := rfl
@[simp] theorem State.tick_free (s : State)  : (s.tick).free = s.free := rfl
@[simp] theorem State.tick_agenda (s : State)  : (s.tick).agenda = s.agenda := rfl
@[simp] theorem State.tick_stopped (s : State)  : (s.tick).stopped = s.stopped := rfl
@[simp] theorem State.tick_booted (s : State)  : (s.tick).booted = s.booted := rfl
@[simp] theorem State.tick_recovery (s : State)  : (s.tick).recovery = s.recovery := rfl
@[simp] theorem State.tick_resets (s : State)  : (s.tick).resets = s.resets := rfl
@[simp] theorem State.tick_gangs (s : State)  : (s.tick).gangs = s.gangs := rfl
@[simp] theorem State.tick_nextGang (s : State)  : (s.tick).nextGang = s.nextGang := rfl
@[simp] theorem State.tick_predictor (s : State)  : (s.tick).predictor = s.predictor := rfl
@[simp] theorem State.tick_tlb (s : State)  : (s.tick).tlb = s.tlb := rfl
@[simp] theorem State.tick_softErrors (s : State)  : (s.tick).softErrors = s.softErrors := rfl
@[simp] theorem State.tick_watchFlight (s : State)  : (s.tick).watchFlight = s.watchFlight := rfl
@[simp] theorem State.tick_pubs (s : State)  : (s.tick).pubs = s.pubs := rfl
@[simp] theorem State.tick_migrations (s : State)  : (s.tick).migrations = s.migrations := rfl
@[simp] theorem State.tick_packets (s : State)  : (s.tick).packets = s.packets := rfl
@[simp] theorem State.tick_outbox (s : State)  : (s.tick).outbox = s.outbox := rfl
@[simp] theorem State.tick_log (s : State)  : (s.tick).log = s.log := rfl
@[simp] theorem State.tick_diesPresent (s : State)  : (s.tick).diesPresent = s.diesPresent := rfl
@[simp] theorem State.tick_cxlSize (s : State)  : (s.tick).cxlSize = s.cxlSize := rfl
@[simp] theorem State.tick_linkHalf (s : State)  : (s.tick).linkHalf = s.linkHalf := rfl
@[simp] theorem State.tick_retrains (s : State)  : (s.tick).retrains = s.retrains := rfl
@[simp] theorem State.tick_capBase (s : State)  : (s.tick).capBase = s.capBase := rfl
@[simp] theorem State.tick_mgmt (s : State)  : (s.tick).mgmt = s.mgmt := rfl
@[simp] theorem State.tick_millerFw (s : State)  : (s.tick).millerFw = s.millerFw := rfl
@[simp] theorem State.tick_clock (s : State)  : (s.tick).clock = s.clock := rfl
@[simp] theorem State.tick_activations (s : State)  : (s.tick).activations = s.activations := rfl
@[simp] theorem State.tick_nextNode (s : State)  : (s.tick).nextNode = s.nextNode := rfl
@[simp] theorem State.tick_nextImage (s : State)  : (s.tick).nextImage = s.nextImage := rfl
@[simp] theorem State.tick_saved (s : State)  : (s.tick).saved = s.saved := rfl

/-! State.endYields -/

@[simp] theorem State.endYields_cores (s : State) : s.endYields.cores = s.cores := rfl
@[simp] theorem State.endYields_mem (s : State) : s.endYields.mem = s.mem := rfl
@[simp] theorem State.endYields_time (s : State) : s.endYields.time = s.time := rfl
@[simp] theorem State.endYields_stepNo (s : State) : s.endYields.stepNo = s.stepNo := rfl
@[simp] theorem State.endYields_free (s : State) : s.endYields.free = s.free := rfl
@[simp] theorem State.endYields_agenda (s : State) : s.endYields.agenda = s.agenda := rfl
@[simp] theorem State.endYields_stopped (s : State) : s.endYields.stopped = s.stopped := rfl
@[simp] theorem State.endYields_booted (s : State) : s.endYields.booted = s.booted := rfl
@[simp] theorem State.endYields_recovery (s : State) : s.endYields.recovery = s.recovery := rfl
@[simp] theorem State.endYields_resets (s : State) : s.endYields.resets = s.resets := rfl
@[simp] theorem State.endYields_gangs (s : State) : s.endYields.gangs = s.gangs := rfl
@[simp] theorem State.endYields_nextGang (s : State) : s.endYields.nextGang = s.nextGang := rfl
@[simp] theorem State.endYields_predictor (s : State) : s.endYields.predictor = s.predictor := rfl
@[simp] theorem State.endYields_tlb (s : State) : s.endYields.tlb = s.tlb := rfl
@[simp] theorem State.endYields_softErrors (s : State) : s.endYields.softErrors = s.softErrors := rfl
@[simp] theorem State.endYields_watchFlight (s : State) : s.endYields.watchFlight = s.watchFlight := rfl
@[simp] theorem State.endYields_pubs (s : State) : s.endYields.pubs = s.pubs := rfl
@[simp] theorem State.endYields_migrations (s : State) : s.endYields.migrations = s.migrations := rfl
@[simp] theorem State.endYields_packets (s : State) : s.endYields.packets = s.packets := rfl
@[simp] theorem State.endYields_outbox (s : State) : s.endYields.outbox = s.outbox := rfl
@[simp] theorem State.endYields_log (s : State) : s.endYields.log = s.log := rfl
@[simp] theorem State.endYields_diesPresent (s : State) : s.endYields.diesPresent = s.diesPresent := rfl
@[simp] theorem State.endYields_cxlSize (s : State) : s.endYields.cxlSize = s.cxlSize := rfl
@[simp] theorem State.endYields_linkHalf (s : State) : s.endYields.linkHalf = s.linkHalf := rfl
@[simp] theorem State.endYields_retrains (s : State) : s.endYields.retrains = s.retrains := rfl
@[simp] theorem State.endYields_capBase (s : State) : s.endYields.capBase = s.capBase := rfl
@[simp] theorem State.endYields_mgmt (s : State) : s.endYields.mgmt = s.mgmt := rfl
@[simp] theorem State.endYields_millerFw (s : State) : s.endYields.millerFw = s.millerFw := rfl
@[simp] theorem State.endYields_clock (s : State) : s.endYields.clock = s.clock := rfl
@[simp] theorem State.endYields_activations (s : State) : s.endYields.activations = s.activations := rfl
@[simp] theorem State.endYields_nextNode (s : State) : s.endYields.nextNode = s.nextNode := rfl
@[simp] theorem State.endYields_nextImage (s : State) : s.endYields.nextImage = s.nextImage := rfl
@[simp] theorem State.endYields_saved (s : State) : s.endYields.saved = s.saved := rfl

@[simp] theorem State.endYield_num (s : State) (h : Hart) : (s.endYield h).num = h.num := by
  unfold State.endYield; split <;> rfl
@[simp] theorem State.endYields_me_num (s : State) : s.endYields.me.num = s.me.num := s.endYield_num s.me
@[simp] theorem State.endYield_core (s : State) (h : Hart) : (s.endYield h).core = h.core := by
  unfold State.endYield; split <;> rfl
@[simp] theorem State.endYields_me_core (s : State) : s.endYields.me.core = s.me.core := s.endYield_core s.me
@[simp] theorem State.endYield_slot (s : State) (h : Hart) : (s.endYield h).slot = h.slot := by
  unfold State.endYield; split <;> rfl
@[simp] theorem State.endYields_me_slot (s : State) : s.endYields.me.slot = s.me.slot := s.endYield_slot s.me
@[simp] theorem State.endYield_miller (s : State) (h : Hart) : (s.endYield h).miller = h.miller := by
  unfold State.endYield; split <;> rfl
@[simp] theorem State.endYields_me_miller (s : State) : s.endYields.me.miller = s.me.miller := s.endYield_miller s.me
@[simp] theorem State.endYield_status (s : State) (h : Hart) : (s.endYield h).status = h.status := by
  unfold State.endYield; split <;> rfl
@[simp] theorem State.endYields_me_status (s : State) : s.endYields.me.status = s.me.status := s.endYield_status s.me
@[simp] theorem State.endYield_level (s : State) (h : Hart) : (s.endYield h).level = h.level := by
  unfold State.endYield; split <;> rfl
@[simp] theorem State.endYields_me_level (s : State) : s.endYields.me.level = s.me.level := s.endYield_level s.me
@[simp] theorem State.endYield_pc (s : State) (h : Hart) : (s.endYield h).pc = h.pc := by
  unfold State.endYield; split <;> rfl
@[simp] theorem State.endYields_me_pc (s : State) : s.endYields.me.pc = s.me.pc := s.endYield_pc s.me
@[simp] theorem State.endYield_tok (s : State) (h : Hart) : (s.endYield h).tok = h.tok := by
  unfold State.endYield; split <;> rfl
@[simp] theorem State.endYields_me_tok (s : State) : s.endYields.me.tok = s.me.tok := s.endYield_tok s.me
@[simp] theorem State.endYield_ext (s : State) (h : Hart) : (s.endYield h).ext = h.ext := by
  unfold State.endYield; split <;> rfl
@[simp] theorem State.endYields_me_ext (s : State) : s.endYields.me.ext = s.me.ext := s.endYield_ext s.me
@[simp] theorem State.endYield_regs (s : State) (h : Hart) : (s.endYield h).regs = h.regs := by
  unfold State.endYield; split <;> rfl
@[simp] theorem State.endYields_me_regs (s : State) : s.endYields.me.regs = s.me.regs := s.endYield_regs s.me
@[simp] theorem State.endYield_pend (s : State) (h : Hart) : (s.endYield h).pend = h.pend := by
  unfold State.endYield; split <;> rfl
@[simp] theorem State.endYields_me_pend (s : State) : s.endYields.me.pend = s.me.pend := s.endYield_pend s.me
@[simp] theorem State.endYield_wbase (s : State) (h : Hart) : (s.endYield h).wbase = h.wbase := by
  unfold State.endYield; split <;> rfl
@[simp] theorem State.endYields_me_wbase (s : State) : s.endYields.me.wbase = s.me.wbase := s.endYield_wbase s.me
@[simp] theorem State.endYield_wlo (s : State) (h : Hart) : (s.endYield h).wlo = h.wlo := by
  unfold State.endYield; split <;> rfl
@[simp] theorem State.endYields_me_wlo (s : State) : s.endYields.me.wlo = s.me.wlo := s.endYield_wlo s.me
@[simp] theorem State.endYield_rets (s : State) (h : Hart) : (s.endYield h).rets = h.rets := by
  unfold State.endYield; split <;> rfl
@[simp] theorem State.endYields_me_rets (s : State) : s.endYields.me.rets = s.me.rets := s.endYield_rets s.me
@[simp] theorem State.endYield_wsp (s : State) (h : Hart) : (s.endYield h).wsp = h.wsp := by
  unfold State.endYield; split <;> rfl
@[simp] theorem State.endYields_me_wsp (s : State) : s.endYields.me.wsp = s.me.wsp := s.endYield_wsp s.me
@[simp] theorem State.endYield_rsp (s : State) (h : Hart) : (s.endYield h).rsp = h.rsp := by
  unfold State.endYield; split <;> rfl
@[simp] theorem State.endYields_me_rsp (s : State) : s.endYields.me.rsp = s.me.rsp := s.endYield_rsp s.me
@[simp] theorem State.endYield_tokens (s : State) (h : Hart) : (s.endYield h).tokens = h.tokens := by
  unfold State.endYield; split <;> rfl
@[simp] theorem State.endYields_me_tokens (s : State) : s.endYields.me.tokens = s.me.tokens := s.endYield_tokens s.me
@[simp] theorem State.endYield_cr (s : State) (h : Hart) : (s.endYield h).cr = h.cr := by
  unfold State.endYield; split <;> rfl
@[simp] theorem State.endYields_me_cr (s : State) : s.endYields.me.cr = s.me.cr := s.endYield_cr s.me
@[simp] theorem State.endYield_vec (s : State) (h : Hart) : (s.endYield h).vec = h.vec := by
  unfold State.endYield; split <;> rfl
@[simp] theorem State.endYields_me_vec (s : State) : s.endYields.me.vec = s.me.vec := s.endYield_vec s.me
@[simp] theorem State.endYield_gang (s : State) (h : Hart) : (s.endYield h).gang = h.gang := by
  unfold State.endYield; split <;> rfl
@[simp] theorem State.endYields_me_gang (s : State) : s.endYields.me.gang = s.me.gang := s.endYield_gang s.me
@[simp] theorem State.endYield_spad (s : State) (h : Hart) : (s.endYield h).spad = h.spad := by
  unfold State.endYield; split <;> rfl
@[simp] theorem State.endYields_me_spad (s : State) : s.endYields.me.spad = s.me.spad := s.endYield_spad s.me
@[simp] theorem State.endYield_barriers (s : State) (h : Hart) : (s.endYield h).barriers = h.barriers := by
  unfold State.endYield; split <;> rfl
@[simp] theorem State.endYields_me_barriers (s : State) : s.endYields.me.barriers = s.me.barriers := s.endYield_barriers s.me
@[simp] theorem State.endYield_arrived (s : State) (h : Hart) : (s.endYield h).arrived = h.arrived := by
  unfold State.endYield; split <;> rfl
@[simp] theorem State.endYields_me_arrived (s : State) : s.endYields.me.arrived = s.me.arrived := s.endYield_arrived s.me
@[simp] theorem State.endYield_triggered (s : State) (h : Hart) : (s.endYield h).triggered = h.triggered := by
  unfold State.endYield; split <;> rfl
@[simp] theorem State.endYields_me_triggered (s : State) : s.endYields.me.triggered = s.me.triggered := s.endYield_triggered s.me
@[simp] theorem State.endYield_pause (s : State) (h : Hart) : (s.endYield h).pause = h.pause := by
  unfold State.endYield; split <;> rfl
@[simp] theorem State.endYields_me_pause (s : State) : s.endYields.me.pause = s.me.pause := s.endYield_pause s.me
@[simp] theorem State.endYield_prov (s : State) (h : Hart) : (s.endYield h).prov = h.prov := by
  unfold State.endYield; split <;> rfl
@[simp] theorem State.endYields_me_prov (s : State) : s.endYields.me.prov = s.me.prov := s.endYield_prov s.me
@[simp] theorem State.endYield_copies (s : State) (h : Hart) : (s.endYield h).copies = h.copies := by
  unfold State.endYield; split <;> rfl
@[simp] theorem State.endYields_me_copies (s : State) : s.endYields.me.copies = s.me.copies := s.endYield_copies s.me
@[simp] theorem State.endYield_owed (s : State) (h : Hart) : (s.endYield h).owed = h.owed := by
  unfold State.endYield; split <;> rfl
@[simp] theorem State.endYields_me_owed (s : State) : s.endYields.me.owed = s.me.owed := s.endYield_owed s.me
@[simp] theorem State.endYield_early (s : State) (h : Hart) : (s.endYield h).early = h.early := by
  unfold State.endYield; split <;> rfl
@[simp] theorem State.endYields_me_early (s : State) : s.endYields.me.early = s.me.early := s.endYield_early s.me
@[simp] theorem State.endYield_givers (s : State) (h : Hart) : (s.endYield h).givers = h.givers := by
  unfold State.endYield; split <;> rfl
@[simp] theorem State.endYields_me_givers (s : State) : s.endYields.me.givers = s.me.givers := s.endYield_givers s.me
@[simp] theorem State.endYield_writers (s : State) (h : Hart) : (s.endYield h).writers = h.writers := by
  unfold State.endYield; split <;> rfl
@[simp] theorem State.endYields_me_writers (s : State) : s.endYields.me.writers = s.me.writers := s.endYield_writers s.me
@[simp] theorem State.endYield_matWriters (s : State) (h : Hart) : (s.endYield h).matWriters = h.matWriters := by
  unfold State.endYield; split <;> rfl
@[simp] theorem State.endYields_me_matWriters (s : State) : s.endYields.me.matWriters = s.me.matWriters := s.endYield_matWriters s.me
@[simp] theorem State.endYield_holders (s : State) (h : Hart) : (s.endYield h).holders = h.holders := by
  unfold State.endYield; split <;> rfl
@[simp] theorem State.endYields_me_holders (s : State) : s.endYields.me.holders = s.me.holders := s.endYield_holders s.me
@[simp] theorem State.endYield_woke (s : State) (h : Hart) : (s.endYield h).woke = h.woke := by
  unfold State.endYield; split <;> rfl
@[simp] theorem State.endYields_me_woke (s : State) : s.endYields.me.woke = s.me.woke := s.endYield_woke s.me
@[simp] theorem State.endYield_fresh (s : State) (h : Hart) : (s.endYield h).fresh = h.fresh := by
  unfold State.endYield; split <;> rfl
@[simp] theorem State.endYields_me_fresh (s : State) : s.endYields.me.fresh = s.me.fresh := s.endYield_fresh s.me
@[simp] theorem State.endYield_brun (s : State) (h : Hart) : (s.endYield h).brun = h.brun := by
  unfold State.endYield; split <;> rfl
@[simp] theorem State.endYields_me_brun (s : State) : s.endYields.me.brun = s.me.brun := s.endYield_brun s.me
@[simp] theorem State.endYield_machine (s : State) (h : Hart) : (s.endYield h).machine = h.machine := by
  unfold State.endYield; split <;> rfl
@[simp] theorem State.endYields_me_machine (s : State) : s.endYields.me.machine = s.me.machine := s.endYield_machine s.me
@[simp] theorem State.endYield_remoteFail (s : State) (h : Hart) : (s.endYield h).remoteFail = h.remoteFail := by
  unfold State.endYield; split <;> rfl
@[simp] theorem State.endYields_me_remoteFail (s : State) : s.endYields.me.remoteFail = s.me.remoteFail := s.endYield_remoteFail s.me
@[simp] theorem State.endYield_checked (s : State) (h : Hart) : (s.endYield h).checked = h.checked := by
  unfold State.endYield; split <;> rfl
@[simp] theorem State.endYields_me_checked (s : State) : s.endYields.me.checked = s.me.checked := s.endYield_checked s.me
@[simp] theorem State.endYield_met (s : State) (h : Hart) : (s.endYield h).met = h.met := by
  unfold State.endYield; split <;> rfl
@[simp] theorem State.endYields_me_met (s : State) : s.endYields.me.met = s.me.met := s.endYield_met s.me

/-- Where no hart waits out a YIELD, nothing ends. -/
theorem State.endYields_idle (s : State) (hm : s.me.yieldTurns = 0) (ho : ∀ h ∈ s.others, h.yieldTurns = 0) :
    s.endYields = s := by
  have e : ∀ h : Hart, h.yieldTurns = 0 → s.endYield h = h := fun h hh => by simp [State.endYield, hh]
  have eo : s.others.map s.endYield = s.others := by
    conv => rhs; rw [← List.map_id s.others]
    exact List.map_congr_left fun h hh => e h (ho h hh)
  unfold State.endYields
  rw [e _ hm, eo]

/-! State.tlbRemove -/

@[simp] theorem State.tlbRemove_me (s : State) (w : Word) : (s.tlbRemove w).me = s.me := rfl
@[simp] theorem State.tlbRemove_others (s : State) (w : Word) : (s.tlbRemove w).others = s.others := rfl
@[simp] theorem State.tlbRemove_cores (s : State) (w : Word) : (s.tlbRemove w).cores = s.cores := rfl
@[simp] theorem State.tlbRemove_mem (s : State) (w : Word) : (s.tlbRemove w).mem = s.mem := rfl
@[simp] theorem State.tlbRemove_time (s : State) (w : Word) : (s.tlbRemove w).time = s.time := rfl
@[simp] theorem State.tlbRemove_stepNo (s : State) (w : Word) : (s.tlbRemove w).stepNo = s.stepNo := rfl
@[simp] theorem State.tlbRemove_free (s : State) (w : Word) : (s.tlbRemove w).free = s.free := rfl
@[simp] theorem State.tlbRemove_agenda (s : State) (w : Word) : (s.tlbRemove w).agenda = s.agenda := rfl
@[simp] theorem State.tlbRemove_stopped (s : State) (w : Word) : (s.tlbRemove w).stopped = s.stopped := rfl
@[simp] theorem State.tlbRemove_booted (s : State) (w : Word) : (s.tlbRemove w).booted = s.booted := rfl
@[simp] theorem State.tlbRemove_recovery (s : State) (w : Word) : (s.tlbRemove w).recovery = s.recovery := rfl
@[simp] theorem State.tlbRemove_resets (s : State) (w : Word) : (s.tlbRemove w).resets = s.resets := rfl
@[simp] theorem State.tlbRemove_gangs (s : State) (w : Word) : (s.tlbRemove w).gangs = s.gangs := rfl
@[simp] theorem State.tlbRemove_nextGang (s : State) (w : Word) : (s.tlbRemove w).nextGang = s.nextGang := rfl
@[simp] theorem State.tlbRemove_predictor (s : State) (w : Word) : (s.tlbRemove w).predictor = s.predictor := rfl
@[simp] theorem State.tlbRemove_softErrors (s : State) (w : Word) : (s.tlbRemove w).softErrors = s.softErrors := rfl
@[simp] theorem State.tlbRemove_watchFlight (s : State) (w : Word) : (s.tlbRemove w).watchFlight = s.watchFlight := rfl
@[simp] theorem State.tlbRemove_pubs (s : State) (w : Word) : (s.tlbRemove w).pubs = s.pubs := rfl
@[simp] theorem State.tlbRemove_migrations (s : State) (w : Word) : (s.tlbRemove w).migrations = s.migrations := rfl
@[simp] theorem State.tlbRemove_packets (s : State) (w : Word) : (s.tlbRemove w).packets = s.packets := rfl
@[simp] theorem State.tlbRemove_outbox (s : State) (w : Word) : (s.tlbRemove w).outbox = s.outbox := rfl
@[simp] theorem State.tlbRemove_log (s : State) (w : Word) : (s.tlbRemove w).log = s.log := rfl
@[simp] theorem State.tlbRemove_diesPresent (s : State) (w : Word) : (s.tlbRemove w).diesPresent = s.diesPresent := rfl
@[simp] theorem State.tlbRemove_cxlSize (s : State) (w : Word) : (s.tlbRemove w).cxlSize = s.cxlSize := rfl
@[simp] theorem State.tlbRemove_linkHalf (s : State) (w : Word) : (s.tlbRemove w).linkHalf = s.linkHalf := rfl
@[simp] theorem State.tlbRemove_retrains (s : State) (w : Word) : (s.tlbRemove w).retrains = s.retrains := rfl
@[simp] theorem State.tlbRemove_capBase (s : State) (w : Word) : (s.tlbRemove w).capBase = s.capBase := rfl
@[simp] theorem State.tlbRemove_mgmt (s : State) (w : Word) : (s.tlbRemove w).mgmt = s.mgmt := rfl
@[simp] theorem State.tlbRemove_millerFw (s : State) (w : Word) : (s.tlbRemove w).millerFw = s.millerFw := rfl
@[simp] theorem State.tlbRemove_clock (s : State) (w : Word) : (s.tlbRemove w).clock = s.clock := rfl
@[simp] theorem State.tlbRemove_activations (s : State) (w : Word) : (s.tlbRemove w).activations = s.activations := rfl
@[simp] theorem State.tlbRemove_nextNode (s : State) (w : Word) : (s.tlbRemove w).nextNode = s.nextNode := rfl
@[simp] theorem State.tlbRemove_nextImage (s : State) (w : Word) : (s.tlbRemove w).nextImage = s.nextImage := rfl
@[simp] theorem State.tlbRemove_saved (s : State) (w : Word) : (s.tlbRemove w).saved = s.saved := rfl

/-! State.sendPackets -/

@[simp] theorem State.sendPackets_me (s : State) (ps : List Packet) : (s.sendPackets ps).me = s.me := rfl
@[simp] theorem State.sendPackets_others (s : State) (ps : List Packet) : (s.sendPackets ps).others = s.others := rfl
@[simp] theorem State.sendPackets_cores (s : State) (ps : List Packet) : (s.sendPackets ps).cores = s.cores := rfl
@[simp] theorem State.sendPackets_mem (s : State) (ps : List Packet) : (s.sendPackets ps).mem = s.mem := rfl
@[simp] theorem State.sendPackets_time (s : State) (ps : List Packet) : (s.sendPackets ps).time = s.time := rfl
@[simp] theorem State.sendPackets_stepNo (s : State) (ps : List Packet) : (s.sendPackets ps).stepNo = s.stepNo := rfl
@[simp] theorem State.sendPackets_free (s : State) (ps : List Packet) : (s.sendPackets ps).free = s.free := rfl
@[simp] theorem State.sendPackets_agenda (s : State) (ps : List Packet) : (s.sendPackets ps).agenda = s.agenda := rfl
@[simp] theorem State.sendPackets_stopped (s : State) (ps : List Packet) : (s.sendPackets ps).stopped = s.stopped := rfl
@[simp] theorem State.sendPackets_booted (s : State) (ps : List Packet) : (s.sendPackets ps).booted = s.booted := rfl
@[simp] theorem State.sendPackets_recovery (s : State) (ps : List Packet) : (s.sendPackets ps).recovery = s.recovery := rfl
@[simp] theorem State.sendPackets_resets (s : State) (ps : List Packet) : (s.sendPackets ps).resets = s.resets := rfl
@[simp] theorem State.sendPackets_gangs (s : State) (ps : List Packet) : (s.sendPackets ps).gangs = s.gangs := rfl
@[simp] theorem State.sendPackets_nextGang (s : State) (ps : List Packet) : (s.sendPackets ps).nextGang = s.nextGang := rfl
@[simp] theorem State.sendPackets_predictor (s : State) (ps : List Packet) : (s.sendPackets ps).predictor = s.predictor := rfl
@[simp] theorem State.sendPackets_tlb (s : State) (ps : List Packet) : (s.sendPackets ps).tlb = s.tlb := rfl
@[simp] theorem State.sendPackets_softErrors (s : State) (ps : List Packet) : (s.sendPackets ps).softErrors = s.softErrors := rfl
@[simp] theorem State.sendPackets_watchFlight (s : State) (ps : List Packet) : (s.sendPackets ps).watchFlight = s.watchFlight := rfl
@[simp] theorem State.sendPackets_pubs (s : State) (ps : List Packet) : (s.sendPackets ps).pubs = s.pubs := rfl
@[simp] theorem State.sendPackets_migrations (s : State) (ps : List Packet) : (s.sendPackets ps).migrations = s.migrations := rfl
@[simp] theorem State.sendPackets_outbox (s : State) (ps : List Packet) : (s.sendPackets ps).outbox = s.outbox := rfl
@[simp] theorem State.sendPackets_log (s : State) (ps : List Packet) : (s.sendPackets ps).log = s.log := rfl
@[simp] theorem State.sendPackets_diesPresent (s : State) (ps : List Packet) : (s.sendPackets ps).diesPresent = s.diesPresent := rfl
@[simp] theorem State.sendPackets_cxlSize (s : State) (ps : List Packet) : (s.sendPackets ps).cxlSize = s.cxlSize := rfl
@[simp] theorem State.sendPackets_linkHalf (s : State) (ps : List Packet) : (s.sendPackets ps).linkHalf = s.linkHalf := rfl
@[simp] theorem State.sendPackets_retrains (s : State) (ps : List Packet) : (s.sendPackets ps).retrains = s.retrains := rfl
@[simp] theorem State.sendPackets_capBase (s : State) (ps : List Packet) : (s.sendPackets ps).capBase = s.capBase := rfl
@[simp] theorem State.sendPackets_mgmt (s : State) (ps : List Packet) : (s.sendPackets ps).mgmt = s.mgmt := rfl
@[simp] theorem State.sendPackets_millerFw (s : State) (ps : List Packet) : (s.sendPackets ps).millerFw = s.millerFw := rfl
@[simp] theorem State.sendPackets_clock (s : State) (ps : List Packet) : (s.sendPackets ps).clock = s.clock := rfl
@[simp] theorem State.sendPackets_activations (s : State) (ps : List Packet) : (s.sendPackets ps).activations = s.activations := rfl
@[simp] theorem State.sendPackets_nextNode (s : State) (ps : List Packet) : (s.sendPackets ps).nextNode = s.nextNode := rfl
@[simp] theorem State.sendPackets_nextImage (s : State) (ps : List Packet) : (s.sendPackets ps).nextImage = s.nextImage := rfl
@[simp] theorem State.sendPackets_saved (s : State) (ps : List Packet) : (s.sendPackets ps).saved = s.saved := rfl

@[simp] theorem State.sendPackets_packets (s : State) (ps : List Packet) : (s.sendPackets ps).packets = s.packets ++ ps := rfl

/-! State.updGang -/

@[simp] theorem State.updGang_me (s : State) (g : Nat) (f : Gang → Gang) : (s.updGang g f).me = s.me := rfl
@[simp] theorem State.updGang_others (s : State) (g : Nat) (f : Gang → Gang) : (s.updGang g f).others = s.others := rfl
@[simp] theorem State.updGang_cores (s : State) (g : Nat) (f : Gang → Gang) : (s.updGang g f).cores = s.cores := rfl
@[simp] theorem State.updGang_mem (s : State) (g : Nat) (f : Gang → Gang) : (s.updGang g f).mem = s.mem := rfl
@[simp] theorem State.updGang_time (s : State) (g : Nat) (f : Gang → Gang) : (s.updGang g f).time = s.time := rfl
@[simp] theorem State.updGang_stepNo (s : State) (g : Nat) (f : Gang → Gang) : (s.updGang g f).stepNo = s.stepNo := rfl
@[simp] theorem State.updGang_free (s : State) (g : Nat) (f : Gang → Gang) : (s.updGang g f).free = s.free := rfl
@[simp] theorem State.updGang_agenda (s : State) (g : Nat) (f : Gang → Gang) : (s.updGang g f).agenda = s.agenda := rfl
@[simp] theorem State.updGang_stopped (s : State) (g : Nat) (f : Gang → Gang) : (s.updGang g f).stopped = s.stopped := rfl
@[simp] theorem State.updGang_booted (s : State) (g : Nat) (f : Gang → Gang) : (s.updGang g f).booted = s.booted := rfl
@[simp] theorem State.updGang_recovery (s : State) (g : Nat) (f : Gang → Gang) : (s.updGang g f).recovery = s.recovery := rfl
@[simp] theorem State.updGang_resets (s : State) (g : Nat) (f : Gang → Gang) : (s.updGang g f).resets = s.resets := rfl
@[simp] theorem State.updGang_nextGang (s : State) (g : Nat) (f : Gang → Gang) : (s.updGang g f).nextGang = s.nextGang := rfl
@[simp] theorem State.updGang_predictor (s : State) (g : Nat) (f : Gang → Gang) : (s.updGang g f).predictor = s.predictor := rfl
@[simp] theorem State.updGang_tlb (s : State) (g : Nat) (f : Gang → Gang) : (s.updGang g f).tlb = s.tlb := rfl
@[simp] theorem State.updGang_softErrors (s : State) (g : Nat) (f : Gang → Gang) : (s.updGang g f).softErrors = s.softErrors := rfl
@[simp] theorem State.updGang_watchFlight (s : State) (g : Nat) (f : Gang → Gang) : (s.updGang g f).watchFlight = s.watchFlight := rfl
@[simp] theorem State.updGang_pubs (s : State) (g : Nat) (f : Gang → Gang) : (s.updGang g f).pubs = s.pubs := rfl
@[simp] theorem State.updGang_migrations (s : State) (g : Nat) (f : Gang → Gang) : (s.updGang g f).migrations = s.migrations := rfl
@[simp] theorem State.updGang_packets (s : State) (g : Nat) (f : Gang → Gang) : (s.updGang g f).packets = s.packets := rfl
@[simp] theorem State.updGang_outbox (s : State) (g : Nat) (f : Gang → Gang) : (s.updGang g f).outbox = s.outbox := rfl
@[simp] theorem State.updGang_log (s : State) (g : Nat) (f : Gang → Gang) : (s.updGang g f).log = s.log := rfl
@[simp] theorem State.updGang_diesPresent (s : State) (g : Nat) (f : Gang → Gang) : (s.updGang g f).diesPresent = s.diesPresent := rfl
@[simp] theorem State.updGang_cxlSize (s : State) (g : Nat) (f : Gang → Gang) : (s.updGang g f).cxlSize = s.cxlSize := rfl
@[simp] theorem State.updGang_linkHalf (s : State) (g : Nat) (f : Gang → Gang) : (s.updGang g f).linkHalf = s.linkHalf := rfl
@[simp] theorem State.updGang_retrains (s : State) (g : Nat) (f : Gang → Gang) : (s.updGang g f).retrains = s.retrains := rfl
@[simp] theorem State.updGang_capBase (s : State) (g : Nat) (f : Gang → Gang) : (s.updGang g f).capBase = s.capBase := rfl
@[simp] theorem State.updGang_mgmt (s : State) (g : Nat) (f : Gang → Gang) : (s.updGang g f).mgmt = s.mgmt := rfl
@[simp] theorem State.updGang_millerFw (s : State) (g : Nat) (f : Gang → Gang) : (s.updGang g f).millerFw = s.millerFw := rfl
@[simp] theorem State.updGang_clock (s : State) (g : Nat) (f : Gang → Gang) : (s.updGang g f).clock = s.clock := rfl
@[simp] theorem State.updGang_activations (s : State) (g : Nat) (f : Gang → Gang) : (s.updGang g f).activations = s.activations := rfl
@[simp] theorem State.updGang_nextNode (s : State) (g : Nat) (f : Gang → Gang) : (s.updGang g f).nextNode = s.nextNode := rfl
@[simp] theorem State.updGang_nextImage (s : State) (g : Nat) (f : Gang → Gang) : (s.updGang g f).nextImage = s.nextImage := rfl
@[simp] theorem State.updGang_saved (s : State) (g : Nat) (f : Gang → Gang) : (s.updGang g f).saved = s.saved := rfl

/-! Scalar registers -/

/-- The zero register reads 0. -/
@[simp] theorem Hart.reg_zero (h : Hart) : h.reg 0 = 0 := rfl

/-- A write of the zero register changes nothing. -/
@[simp] theorem State.setReg_zero (s : State) (v : Word) : s.setReg 0 v = s := rfl

/-- A vector reads back what was set. -/
theorem vget_set_self {α : Type} {n : Nat} (v : Vector α n) (i : Fin n) (x : α) : (v.set i x).get i = x := by
  show (v.set i.val x i.isLt)[i.val] = x
  simp

/-- Other entries of a vector stay. -/
theorem vget_set_other {α : Type} {n : Nat} (v : Vector α n) (i j : Fin n) (x : α) (h : i ≠ j) :
    (v.set i x).get j = v.get j := by
  have h' : i.val ≠ j.val := fun e => h (Fin.ext e)
  show (v.set i.val x i.isLt)[j.val] = v[j.val]
  simp [h']

/-- A scalar reads back what was written. -/
theorem State.setReg_reg_self (s : State) (r : SReg) (v : Word) (h : r ≠ 0) : (s.setReg r v).me.reg r = v := by
  unfold State.setReg Hart.reg
  rw [if_neg h, if_neg h]
  exact vget_set_self _ _ _

/-- Two fields that name different registers name different physical scalars. -/
theorem Hart.phys_inj (h : Hart) (r q : SReg) (hrq : r ≠ q) : h.phys r ≠ h.phys q := by
  have e : r.toNat ≠ q.toNat := fun e => hrq (BitVec.eq_of_toNat_eq e)
  have hr := r.isLt
  have hq := q.isLt
  intro hp
  have hv := congrArg Fin.val hp
  unfold Hart.phys at hv
  split at hv <;> split at hv <;> simp only at hv <;> omega

/-- Other scalars keep their values. -/
theorem State.setReg_reg_other (s : State) (r q : SReg) (v : Word) (h : r ≠ q) :
    (s.setReg r v).me.reg q = s.me.reg q := by
  unfold State.setReg
  split
  · rfl
  · unfold Hart.reg
    split
    · rfl
    · exact vget_set_other _ _ _ _ (s.me.phys_inj r q h)

end Sys2Proof.Machine
end

