-- ==== Sys2Proof/Laws/Memory.lean ====
section
/-! SUPPORT. What memory reads after a write, and that every memory operation keeps the canonical form (log 1). -/

namespace Sys2Proof.Machine

/-- The canonical form of a list with a first cell. -/
theorem memWfAbove_cons {lo : Option Nat} {k : Nat} {b : Byte} {r : List Host.Cell} :
    memWfAbove lo ((k, b) :: r) = true ↔ (∀ l, lo = some l → l < k) ∧ b ≠ memBlank ∧ memWfAbove (some k) r = true := by
  cases lo <;> simp [memWfAbove, and_assoc]

/-- An address below every key reads as blank. -/
theorem memGet_below {r : List Host.Cell} : ∀ {k a : Nat}, memWfAbove (some k) r = true → a ≤ k →
    memGet r a = memBlank := by
  induction r with
  | nil => intros; rfl
  | cons c r ih =>
    intro k a h ha
    obtain ⟨j, b⟩ := c
    rw [memWfAbove_cons] at h
    have hj := h.1 k rfl
    simp only [memGet]
    rw [if_neg (by omega)]
    exact ih h.2.2 (by omega)

/-- Every byte after one byte is replaced. -/
theorem memGet_memSet {a : Nat} {b : Byte} {x : Nat} : ∀ {m : List Host.Cell} {lo : Option Nat},
    memWfAbove lo m = true → memGet (memSet m a b) x = if x = a then b else memGet m x := by
  intro m
  induction m with
  | nil =>
    intro lo _
    by_cases hx : x = a
    · subst hx; by_cases hb : b = memBlank <;> simp [memSet, memGet, hb]
    · by_cases hb : b = memBlank <;> simp [memSet, memGet, hb, hx, Ne.symm hx]
  | cons c r ih =>
    obtain ⟨k, y⟩ := c
    intro lo h
    rw [memWfAbove_cons] at h
    have ih' := ih h.2.2
    simp only [memSet]
    split
    · rename_i hak
      split
      · rename_i hb
        subst hb
        by_cases hx : x = a
        · subst hx
          rw [if_pos rfl]
          simp only [memGet]
          rw [if_neg (by omega)]
          exact memGet_below h.2.2 (by omega)
        · rw [if_neg hx]
      · by_cases hx : x = a
        · subst hx; simp [memGet]
        · rw [if_neg hx]; simp only [memGet]; rw [if_neg (Ne.symm hx)]
    · split
      · rename_i _ hak
        subst hak
        split
        · rename_i hb
          subst hb
          by_cases hx : x = a
          · subst hx; rw [if_pos rfl]; exact memGet_below h.2.2 (Nat.le_refl _)
          · rw [if_neg hx]; simp only [memGet]; rw [if_neg (Ne.symm hx)]
        · by_cases hx : x = a
          · subst hx; simp [memGet]
          · rw [if_neg hx]; simp only [memGet]; rw [if_neg (Ne.symm hx), if_neg (Ne.symm hx)]
      · simp only [memGet]
        by_cases hk : k = x
        · subst hk; rw [if_pos rfl, if_pos rfl, if_neg (by omega)]
        · rw [if_neg hk, if_neg hk]; exact ih'

/-- Replacing a byte keeps the canonical form above a bound. -/
theorem memWfAbove_memSet {a : Nat} {b : Byte} : ∀ {m : List Host.Cell} {lo : Option Nat},
    memWfAbove lo m = true → (∀ l, lo = some l → l < a) → memWfAbove lo (memSet m a b) = true := by
  intro m
  induction m with
  | nil =>
    intro lo _ hlo
    simp only [memSet]
    split
    · rfl
    · rename_i hb
      exact memWfAbove_cons.2 ⟨hlo, hb, rfl⟩
  | cons c r ih =>
    obtain ⟨k, y⟩ := c
    intro lo h hlo
    have h' := memWfAbove_cons.1 h
    simp only [memSet]
    split
    · rename_i hak
      split
      · exact h
      · rename_i hb
        exact memWfAbove_cons.2 ⟨hlo, hb, memWfAbove_cons.2 ⟨fun l e => by cases e; exact hak, h'.2⟩⟩
    · split
      · rename_i _ hak
        subst hak
        split
        · cases r with
          | nil => rfl
          | cons c2 r2 =>
            obtain ⟨k2, y2⟩ := c2
            have h2 := memWfAbove_cons.1 h'.2.2
            exact memWfAbove_cons.2 ⟨fun l e => by have := h2.1 a rfl; have := hlo l e; omega, h2.2⟩
        · rename_i hb
          exact memWfAbove_cons.2 ⟨hlo, hb, h'.2.2⟩
      · exact memWfAbove_cons.2 ⟨h'.1, h'.2.1, ih h'.2.2 (fun l e => by cases e; omega)⟩

/-- Replacing a byte keeps the canonical form. -/
theorem memWf_memSet {m : List Host.Cell} {a : Nat} {b : Byte} (h : memWf m = true) : memWf (memSet m a b) = true :=
  memWfAbove_memSet h (fun _ e => by cases e)

/-- Replacing a run of bytes keeps the canonical form. -/
theorem memWf_memPut {bs : List Byte} : ∀ {m : List Host.Cell} {a : Nat}, memWf m = true →
    memWf (memPut m a bs) = true := by
  induction bs with
  | nil => intro m a h; exact h
  | cons b r ih => intro m a h; exact ih (memWf_memSet h)

/-- Every byte after a run of bytes is replaced. -/
theorem memGet_memPut {bs : List Byte} : ∀ {m : List Host.Cell} {a x : Nat}, memWf m = true →
    memGet (memPut m a bs) x = if a ≤ x ∧ x < a + bs.length then bs.getD (x - a) 0 else memGet m x := by
  induction bs with
  | nil => intro m a x _; simp [memPut]
  | cons b r ih =>
    intro m a x h
    simp only [memPut]
    rw [ih (memWf_memSet h), memGet_memSet h]
    simp only [List.length_cons]
    by_cases h1 : a + 1 ≤ x ∧ x < a + 1 + r.length
    · rw [if_pos h1, if_pos (by omega), show x - a = (x - (a + 1)) + 1 by omega]
      simp
    · rw [if_neg h1]
      by_cases h2 : x = a
      · subst h2; rw [if_pos rfl, if_pos (by omega)]; simp
      · rw [if_neg h2, if_neg (by omega)]

/-- The bytes of a range read back what a write of it stored. -/
theorem memBytes_memPut {bs : List Byte} {m : List Host.Cell} {a : Nat} (h : memWf m = true) :
    memBytes (memPut m a bs) a bs.length = bs := by
  have key : ∀ (n k : Nat), k + n = bs.length → memBytes (memPut m a bs) (a + k) n = bs.drop k := by
    intro n
    induction n with
    | zero => intro k hk; simp [memBytes, List.drop_eq_nil_of_le (show bs.length ≤ k by omega)]
    | succ n ih =>
      intro k hk
      have hlt : k < bs.length := by omega
      rw [List.drop_eq_getElem_cons hlt]
      simp only [memBytes]
      rw [memGet_memPut h, if_pos (by omega), show a + k + 1 = a + (k + 1) by omega, ih (k + 1) (by omega)]
      simp [hlt]
  simpa using key bs.length 0 (by omega)

/-- Memory at reset lists nothing. -/
theorem memWf_reset : memWf State.reset.mem = true := rfl

/-! ### The operations of the machine -/

/-- Every operation below changes memory only so that its canonical form stays. -/
def KeepsForm (s t : State) : Prop := memWf s.mem = true → memWf t.mem = true

theorem KeepsForm.refl (s : State) : KeepsForm s s := id

theorem KeepsForm.trans {s t u : State} (h : KeepsForm s t) (g : KeepsForm t u) : KeepsForm s u := fun w => g (h w)

theorem KeepsForm.of_mem_eq {s t : State} (h : t.mem = s.mem) : KeepsForm s t := fun w => by rw [h]; exact w

theorem KeepsForm.store (s : State) (loc : Nat) (bs : List Byte) : KeepsForm s (s.store loc bs) := fun w => memWf_memPut w

theorem KeepsForm.performWrite (s : State) (loc : Nat) (bs : List Byte) : KeepsForm s (s.performWrite loc bs) := by
  unfold State.performWrite
  split
  · exact .store s loc bs
  · split <;> exact .refl _
  · exact .refl _

theorem KeepsForm.writeLoc (s : State) (loc : Nat) (bs : List Byte) : KeepsForm s (s.writeLoc loc bs) := by
  unfold State.writeLoc
  dsimp only
  split
  · exact .performWrite s loc bs
  · split
    · exact .performWrite s _ _
    · exact .refl _

theorem KeepsForm.writePte (s : State) (loc p : Nat) : KeepsForm s (s.writePte loc p) := by
  unfold State.writePte
  split
  · exact .refl _
  · exact .store s loc _

/-- A read leaves memory alone. -/
theorem readLoc_mem (s : State) (loc n : Nat) : (s.readLoc loc n).1.mem = s.mem := by
  unfold State.readLoc
  split
  · rfl
  · split
    · split <;> rfl
    · split <;> rfl
    · rfl

/-- A page-table entry's read leaves memory alone. -/
theorem readPte_mem (s : State) (loc : Nat) : (s.readPte loc).1.mem = s.mem := by
  unfold State.readPte
  split
  · rfl
  · exact readLoc_mem s loc 8

/-- A walk leaves memory alone. -/
theorem walk_mem (s : State) (p : Word) (va : Nat) : (s.walk p va).1.mem = s.mem := by
  have e := readPte_mem
  unfold State.walk
  dsimp only
  split
  · exact e _ _
  · split
    · rw [e, e]
    · split
      · rw [e, e]
      · split <;> rw [e, e, e]

/-- An entry that joins the TLBs leaves memory alone. -/
@[simp] theorem tlbFill_mem (s : State) (p : Word) (x : Translation) : (s.tlbFill p x).mem = s.mem := rfl

theorem KeepsForm.translateWalk {s t : State} {p : Word} {u : Bool} {va : Nat} {k : Kind} {x : Translation}
    (h : s.translateWalk p u va k = .ok (t, x)) : KeepsForm s t := by
  unfold State.translateWalk at h
  split at h
  · cases h
  · rename_i s1 loc q large hw
    have e : s1.mem = s.mem := by have := walk_mem s p va; rw [hw] at this; exact this
    split at h
    · cases h
    · cases h
      split
      · exact .of_mem_eq e
      · exact .trans (.of_mem_eq e) (.writePte s1 _ _)

theorem KeepsForm.translateFill {s t : State} {p : Word} {u : Bool} {va : Nat} {k : Kind} {x : Translation}
    (h : s.translateFill p u va k = .ok (t, x)) : KeepsForm s t := by
  unfold State.translateFill at h
  split at h
  · cases h
  · rename_i hx
    cases h
    exact .trans (.translateWalk hx) (.of_mem_eq rfl)

theorem KeepsForm.translateAs {s t : State} {p : Word} {u : Bool} {va : Nat} {k : Kind} {x : Translation}
    (h : s.translateAs p u va k = .ok (t, x)) : KeepsForm s t := by
  unfold State.translateAs at h
  split at h
  · split at h
    · cases h
    · split at h
      · exact .translateFill h
      · cases h; exact .refl _
  · exact .translateFill h

/-- A translation's location leaves memory alone. -/
theorem frameOf_mem (s : State) (x : Translation) (va : Nat) : (s.frameOf x va).1.mem = s.mem := by
  unfold State.frameOf
  dsimp only
  split <;> rfl

theorem KeepsForm.locate {s t : State} {va : Word} {k : Kind} {loc : Nat} (h : s.locate va k = .ok (t, loc)) :
    KeepsForm s t := by
  unfold State.locate at h
  split at h
  · cases h
  · split at h
    · split at h
      · cases h
      · cases h; exact .refl _
    · split at h
      · cases h
      · rename_i s1 x hx
        have e : (s1.frameOf x va.toNat).1 = t := congrArg Prod.fst (Except.ok.inj h)
        exact .trans (.translateAs hx) (.of_mem_eq (e ▸ frameOf_mem s1 x va.toNat))

/-- The canonical form after the cells of a boot image. -/
theorem memWf_putCells {cs : List Host.Cell} : ∀ {m : List Host.Cell}, memWf m = true →
    memWf (cs.foldl (fun m c => memSet m c.1 c.2) m) = true := by
  induction cs with
  | nil => intro m h; exact h
  | cons c r ih => intro m h; exact ih (memWf_memSet h)

end Sys2Proof.Machine
end

