-- ==== Sys2Proof/Laws/PerInstr.lean ====
section
/-! SUPPORT. The encoding's round trip, constructor by constructor. -/

set_option Elab.async false
set_option linter.unusedSimpArgs false

namespace Sys2Proof.Laws.RoundTrip

/-- A well-formed instruction is what its own word decodes to. -/
def Statement (i : Instr) : Prop := i.wf = true → decode (encode i) = some i

theorem add (d a b : SReg) (w : Bool) : Statement (.add d a b w) := by
  intro h
  have b_d := d.isLt
  have b_a := a.isLt
  have b_b := b.isLt
  have b_w := w.toNat_lt
  obtain ⟨wd, e⟩ : ∃ wd, wd = d.toNat * 2 ^ 21 + (a.toNat * 2 ^ 16 + (b.toNat * 2 ^ 11 + (w.toNat * 2 ^ 1 + 1 * 2 ^ 26))) := ⟨_, rfl⟩
  rw [show encode (.add d a b w) = wd from e.symm]
  refine decode_of_fields ?_ h
  rw [decodeFields_01 (by unfold fld; omega)]
  have f0 : fld wd 6 5 = 0 := by unfold fld; omega
  have f1 : fld wd 0 1 = 0 := by unfold fld; omega
  have f2 : fld wd 2 4 = 0 := by unfold fld; omega
  have f3 : bv wd 21 5 = d := bv_eq (by omega)
  have f4 : bv wd 16 5 = a := bv_eq (by omega)
  have f5 : bv wd 11 5 = b := bv_eq (by omega)
  have f6 : bit wd 1 = w := bit_eq (by omega)
  simp only [decode01, f0, f1, f2, f3, f4, f5, f6, and_self, reduceIte]

theorem addImm (d a : SReg) (i : BitVec 16) : Statement (.addImm d a i) := by
  intro h
  have b_d := d.isLt
  have b_a := a.isLt
  have b_i := i.isLt
  obtain ⟨wd, e⟩ : ∃ wd, wd = d.toNat * 2 ^ 21 + (a.toNat * 2 ^ 16 + (i.toNat * 2 ^ 0 + 2 * 2 ^ 26)) := ⟨_, rfl⟩
  rw [show encode (.addImm d a i) = wd from e.symm]
  refine decode_of_fields ?_ h
  rw [decodeFields_02 (by unfold fld; omega)]
  have f0 : bv wd 21 5 = d := bv_eq (by omega)
  have f1 : bv wd 16 5 = a := bv_eq (by omega)
  have f2 : bv wd 0 16 = i := bv_eq (by omega)
  simp only [decode02, f0, f1, f2, and_self, reduceIte]

theorem sub (d a b : SReg) (w : Bool) : Statement (.sub d a b w) := by
  intro h
  have b_d := d.isLt
  have b_a := a.isLt
  have b_b := b.isLt
  have b_w := w.toNat_lt
  obtain ⟨wd, e⟩ : ∃ wd, wd = 1 * 2 ^ 6 + (d.toNat * 2 ^ 21 + (a.toNat * 2 ^ 16 + (b.toNat * 2 ^ 11 + (w.toNat * 2 ^ 1 + 1 * 2 ^ 26)))) := ⟨_, rfl⟩
  rw [show encode (.sub d a b w) = wd from e.symm]
  refine decode_of_fields ?_ h
  rw [decodeFields_01 (by unfold fld; omega)]
  have f0 : fld wd 6 5 = 1 := by unfold fld; omega
  have f1 : fld wd 0 1 = 0 := by unfold fld; omega
  have f2 : fld wd 2 4 = 0 := by unfold fld; omega
  have f3 : bv wd 21 5 = d := bv_eq (by omega)
  have f4 : bv wd 16 5 = a := bv_eq (by omega)
  have f5 : bv wd 11 5 = b := bv_eq (by omega)
  have f6 : bit wd 1 = w := bit_eq (by omega)
  simp only [decode01, f0, f1, f2, f3, f4, f5, f6, and_self, reduceIte]

theorem mul (d a b : SReg) (w : Bool) : Statement (.mul d a b w) := by
  intro h
  have b_d := d.isLt
  have b_a := a.isLt
  have b_b := b.isLt
  have b_w := w.toNat_lt
  obtain ⟨wd, e⟩ : ∃ wd, wd = 2 * 2 ^ 6 + (d.toNat * 2 ^ 21 + (a.toNat * 2 ^ 16 + (b.toNat * 2 ^ 11 + (w.toNat * 2 ^ 1 + 1 * 2 ^ 26)))) := ⟨_, rfl⟩
  rw [show encode (.mul d a b w) = wd from e.symm]
  refine decode_of_fields ?_ h
  rw [decodeFields_01 (by unfold fld; omega)]
  have f0 : fld wd 6 5 = 2 := by unfold fld; omega
  have f1 : fld wd 0 1 = 0 := by unfold fld; omega
  have f2 : fld wd 2 4 = 0 := by unfold fld; omega
  have f3 : bv wd 21 5 = d := bv_eq (by omega)
  have f4 : bv wd 16 5 = a := bv_eq (by omega)
  have f5 : bv wd 11 5 = b := bv_eq (by omega)
  have f6 : bit wd 1 = w := bit_eq (by omega)
  simp only [decode01, f0, f1, f2, f3, f4, f5, f6, and_self, reduceIte]

theorem mulh (d a b : SReg) (w u : Bool) : Statement (.mulh d a b w u) := by
  intro h
  have b_d := d.isLt
  have b_a := a.isLt
  have b_b := b.isLt
  have b_w := w.toNat_lt
  have b_u := u.toNat_lt
  obtain ⟨wd, e⟩ : ∃ wd, wd = 3 * 2 ^ 6 + (d.toNat * 2 ^ 21 + (a.toNat * 2 ^ 16 + (b.toNat * 2 ^ 11 + (w.toNat * 2 ^ 1 + (u.toNat * 2 ^ 0 + 1 * 2 ^ 26))))) := ⟨_, rfl⟩
  rw [show encode (.mulh d a b w u) = wd from e.symm]
  refine decode_of_fields ?_ h
  rw [decodeFields_01 (by unfold fld; omega)]
  have f0 : fld wd 6 5 = 3 := by unfold fld; omega
  have f1 : fld wd 2 4 = 0 := by unfold fld; omega
  have f2 : bv wd 21 5 = d := bv_eq (by omega)
  have f3 : bv wd 16 5 = a := bv_eq (by omega)
  have f4 : bv wd 11 5 = b := bv_eq (by omega)
  have f5 : bit wd 1 = w := bit_eq (by omega)
  have f6 : bit wd 0 = u := bit_eq (by omega)
  simp only [decode01, f0, f1, f2, f3, f4, f5, f6, and_self, reduceIte]

theorem div (d a b : SReg) (w u : Bool) : Statement (.div d a b w u) := by
  intro h
  have b_d := d.isLt
  have b_a := a.isLt
  have b_b := b.isLt
  have b_w := w.toNat_lt
  have b_u := u.toNat_lt
  obtain ⟨wd, e⟩ : ∃ wd, wd = 4 * 2 ^ 6 + (d.toNat * 2 ^ 21 + (a.toNat * 2 ^ 16 + (b.toNat * 2 ^ 11 + (w.toNat * 2 ^ 1 + (u.toNat * 2 ^ 0 + 1 * 2 ^ 26))))) := ⟨_, rfl⟩
  rw [show encode (.div d a b w u) = wd from e.symm]
  refine decode_of_fields ?_ h
  rw [decodeFields_01 (by unfold fld; omega)]
  have f0 : fld wd 6 5 = 4 := by unfold fld; omega
  have f1 : fld wd 2 4 = 0 := by unfold fld; omega
  have f2 : bv wd 21 5 = d := bv_eq (by omega)
  have f3 : bv wd 16 5 = a := bv_eq (by omega)
  have f4 : bv wd 11 5 = b := bv_eq (by omega)
  have f5 : bit wd 1 = w := bit_eq (by omega)
  have f6 : bit wd 0 = u := bit_eq (by omega)
  simp only [decode01, f0, f1, f2, f3, f4, f5, f6, and_self, reduceIte]

theorem rem (d a b : SReg) (w u : Bool) : Statement (.rem d a b w u) := by
  intro h
  have b_d := d.isLt
  have b_a := a.isLt
  have b_b := b.isLt
  have b_w := w.toNat_lt
  have b_u := u.toNat_lt
  obtain ⟨wd, e⟩ : ∃ wd, wd = 5 * 2 ^ 6 + (d.toNat * 2 ^ 21 + (a.toNat * 2 ^ 16 + (b.toNat * 2 ^ 11 + (w.toNat * 2 ^ 1 + (u.toNat * 2 ^ 0 + 1 * 2 ^ 26))))) := ⟨_, rfl⟩
  rw [show encode (.rem d a b w u) = wd from e.symm]
  refine decode_of_fields ?_ h
  rw [decodeFields_01 (by unfold fld; omega)]
  have f0 : fld wd 6 5 = 5 := by unfold fld; omega
  have f1 : fld wd 2 4 = 0 := by unfold fld; omega
  have f2 : bv wd 21 5 = d := bv_eq (by omega)
  have f3 : bv wd 16 5 = a := bv_eq (by omega)
  have f4 : bv wd 11 5 = b := bv_eq (by omega)
  have f5 : bit wd 1 = w := bit_eq (by omega)
  have f6 : bit wd 0 = u := bit_eq (by omega)
  simp only [decode01, f0, f1, f2, f3, f4, f5, f6, and_self, reduceIte]

theorem and (d a b : SReg) (w : Bool) : Statement (.and d a b w) := by
  intro h
  have b_d := d.isLt
  have b_a := a.isLt
  have b_b := b.isLt
  have b_w := w.toNat_lt
  obtain ⟨wd, e⟩ : ∃ wd, wd = 6 * 2 ^ 6 + (d.toNat * 2 ^ 21 + (a.toNat * 2 ^ 16 + (b.toNat * 2 ^ 11 + (w.toNat * 2 ^ 1 + 1 * 2 ^ 26)))) := ⟨_, rfl⟩
  rw [show encode (.and d a b w) = wd from e.symm]
  refine decode_of_fields ?_ h
  rw [decodeFields_01 (by unfold fld; omega)]
  have f0 : fld wd 6 5 = 6 := by unfold fld; omega
  have f1 : fld wd 0 1 = 0 := by unfold fld; omega
  have f2 : fld wd 2 4 = 0 := by unfold fld; omega
  have f3 : bv wd 21 5 = d := bv_eq (by omega)
  have f4 : bv wd 16 5 = a := bv_eq (by omega)
  have f5 : bv wd 11 5 = b := bv_eq (by omega)
  have f6 : bit wd 1 = w := bit_eq (by omega)
  simp only [decode01, f0, f1, f2, f3, f4, f5, f6, and_self, reduceIte]

theorem andImm (d a : SReg) (i : BitVec 16) : Statement (.andImm d a i) := by
  intro h
  have b_d := d.isLt
  have b_a := a.isLt
  have b_i := i.isLt
  obtain ⟨wd, e⟩ : ∃ wd, wd = d.toNat * 2 ^ 21 + (a.toNat * 2 ^ 16 + (i.toNat * 2 ^ 0 + 3 * 2 ^ 26)) := ⟨_, rfl⟩
  rw [show encode (.andImm d a i) = wd from e.symm]
  refine decode_of_fields ?_ h
  rw [decodeFields_03 (by unfold fld; omega)]
  have f0 : bv wd 21 5 = d := bv_eq (by omega)
  have f1 : bv wd 16 5 = a := bv_eq (by omega)
  have f2 : bv wd 0 16 = i := bv_eq (by omega)
  simp only [decode03, f0, f1, f2, and_self, reduceIte]

theorem or (d a b : SReg) (w : Bool) : Statement (.or d a b w) := by
  intro h
  have b_d := d.isLt
  have b_a := a.isLt
  have b_b := b.isLt
  have b_w := w.toNat_lt
  obtain ⟨wd, e⟩ : ∃ wd, wd = 7 * 2 ^ 6 + (d.toNat * 2 ^ 21 + (a.toNat * 2 ^ 16 + (b.toNat * 2 ^ 11 + (w.toNat * 2 ^ 1 + 1 * 2 ^ 26)))) := ⟨_, rfl⟩
  rw [show encode (.or d a b w) = wd from e.symm]
  refine decode_of_fields ?_ h
  rw [decodeFields_01 (by unfold fld; omega)]
  have f0 : fld wd 6 5 = 7 := by unfold fld; omega
  have f1 : fld wd 0 1 = 0 := by unfold fld; omega
  have f2 : fld wd 2 4 = 0 := by unfold fld; omega
  have f3 : bv wd 21 5 = d := bv_eq (by omega)
  have f4 : bv wd 16 5 = a := bv_eq (by omega)
  have f5 : bv wd 11 5 = b := bv_eq (by omega)
  have f6 : bit wd 1 = w := bit_eq (by omega)
  simp only [decode01, f0, f1, f2, f3, f4, f5, f6, and_self, reduceIte]

theorem orImm (d a : SReg) (i : BitVec 16) : Statement (.orImm d a i) := by
  intro h
  have b_d := d.isLt
  have b_a := a.isLt
  have b_i := i.isLt
  obtain ⟨wd, e⟩ : ∃ wd, wd = d.toNat * 2 ^ 21 + (a.toNat * 2 ^ 16 + (i.toNat * 2 ^ 0 + 4 * 2 ^ 26)) := ⟨_, rfl⟩
  rw [show encode (.orImm d a i) = wd from e.symm]
  refine decode_of_fields ?_ h
  rw [decodeFields_04 (by unfold fld; omega)]
  have f0 : bv wd 21 5 = d := bv_eq (by omega)
  have f1 : bv wd 16 5 = a := bv_eq (by omega)
  have f2 : bv wd 0 16 = i := bv_eq (by omega)
  simp only [decode04, f0, f1, f2, and_self, reduceIte]

theorem xor (d a b : SReg) (w : Bool) : Statement (.xor d a b w) := by
  intro h
  have b_d := d.isLt
  have b_a := a.isLt
  have b_b := b.isLt
  have b_w := w.toNat_lt
  obtain ⟨wd, e⟩ : ∃ wd, wd = 8 * 2 ^ 6 + (d.toNat * 2 ^ 21 + (a.toNat * 2 ^ 16 + (b.toNat * 2 ^ 11 + (w.toNat * 2 ^ 1 + 1 * 2 ^ 26)))) := ⟨_, rfl⟩
  rw [show encode (.xor d a b w) = wd from e.symm]
  refine decode_of_fields ?_ h
  rw [decodeFields_01 (by unfold fld; omega)]
  have f0 : fld wd 6 5 = 8 := by unfold fld; omega
  have f1 : fld wd 0 1 = 0 := by unfold fld; omega
  have f2 : fld wd 2 4 = 0 := by unfold fld; omega
  have f3 : bv wd 21 5 = d := bv_eq (by omega)
  have f4 : bv wd 16 5 = a := bv_eq (by omega)
  have f5 : bv wd 11 5 = b := bv_eq (by omega)
  have f6 : bit wd 1 = w := bit_eq (by omega)
  simp only [decode01, f0, f1, f2, f3, f4, f5, f6, and_self, reduceIte]

theorem xorImm (d a : SReg) (i : BitVec 16) : Statement (.xorImm d a i) := by
  intro h
  have b_d := d.isLt
  have b_a := a.isLt
  have b_i := i.isLt
  obtain ⟨wd, e⟩ : ∃ wd, wd = d.toNat * 2 ^ 21 + (a.toNat * 2 ^ 16 + (i.toNat * 2 ^ 0 + 5 * 2 ^ 26)) := ⟨_, rfl⟩
  rw [show encode (.xorImm d a i) = wd from e.symm]
  refine decode_of_fields ?_ h
  rw [decodeFields_05 (by unfold fld; omega)]
  have f0 : bv wd 21 5 = d := bv_eq (by omega)
  have f1 : bv wd 16 5 = a := bv_eq (by omega)
  have f2 : bv wd 0 16 = i := bv_eq (by omega)
  simp only [decode05, f0, f1, f2, and_self, reduceIte]

theorem shl (d a b : SReg) (w : Bool) : Statement (.shl d a b w) := by
  intro h
  have b_d := d.isLt
  have b_a := a.isLt
  have b_b := b.isLt
  have b_w := w.toNat_lt
  obtain ⟨wd, e⟩ : ∃ wd, wd = 9 * 2 ^ 6 + (d.toNat * 2 ^ 21 + (a.toNat * 2 ^ 16 + (b.toNat * 2 ^ 11 + (w.toNat * 2 ^ 1 + 1 * 2 ^ 26)))) := ⟨_, rfl⟩
  rw [show encode (.shl d a b w) = wd from e.symm]
  refine decode_of_fields ?_ h
  rw [decodeFields_01 (by unfold fld; omega)]
  have f0 : fld wd 6 5 = 9 := by unfold fld; omega
  have f1 : fld wd 0 1 = 0 := by unfold fld; omega
  have f2 : fld wd 2 4 = 0 := by unfold fld; omega
  have f3 : bv wd 21 5 = d := bv_eq (by omega)
  have f4 : bv wd 16 5 = a := bv_eq (by omega)
  have f5 : bv wd 11 5 = b := bv_eq (by omega)
  have f6 : bit wd 1 = w := bit_eq (by omega)
  simp only [decode01, f0, f1, f2, f3, f4, f5, f6, and_self, reduceIte]

theorem shr (d a b : SReg) (w : Bool) : Statement (.shr d a b w) := by
  intro h
  have b_d := d.isLt
  have b_a := a.isLt
  have b_b := b.isLt
  have b_w := w.toNat_lt
  obtain ⟨wd, e⟩ : ∃ wd, wd = 10 * 2 ^ 6 + (d.toNat * 2 ^ 21 + (a.toNat * 2 ^ 16 + (b.toNat * 2 ^ 11 + (w.toNat * 2 ^ 1 + 1 * 2 ^ 26)))) := ⟨_, rfl⟩
  rw [show encode (.shr d a b w) = wd from e.symm]
  refine decode_of_fields ?_ h
  rw [decodeFields_01 (by unfold fld; omega)]
  have f0 : fld wd 6 5 = 10 := by unfold fld; omega
  have f1 : fld wd 0 1 = 0 := by unfold fld; omega
  have f2 : fld wd 2 4 = 0 := by unfold fld; omega
  have f3 : bv wd 21 5 = d := bv_eq (by omega)
  have f4 : bv wd 16 5 = a := bv_eq (by omega)
  have f5 : bv wd 11 5 = b := bv_eq (by omega)
  have f6 : bit wd 1 = w := bit_eq (by omega)
  simp only [decode01, f0, f1, f2, f3, f4, f5, f6, and_self, reduceIte]

theorem sha (d a b : SReg) (w : Bool) : Statement (.sha d a b w) := by
  intro h
  have b_d := d.isLt
  have b_a := a.isLt
  have b_b := b.isLt
  have b_w := w.toNat_lt
  obtain ⟨wd, e⟩ : ∃ wd, wd = 11 * 2 ^ 6 + (d.toNat * 2 ^ 21 + (a.toNat * 2 ^ 16 + (b.toNat * 2 ^ 11 + (w.toNat * 2 ^ 1 + 1 * 2 ^ 26)))) := ⟨_, rfl⟩
  rw [show encode (.sha d a b w) = wd from e.symm]
  refine decode_of_fields ?_ h
  rw [decodeFields_01 (by unfold fld; omega)]
  have f0 : fld wd 6 5 = 11 := by unfold fld; omega
  have f1 : fld wd 0 1 = 0 := by unfold fld; omega
  have f2 : fld wd 2 4 = 0 := by unfold fld; omega
  have f3 : bv wd 21 5 = d := bv_eq (by omega)
  have f4 : bv wd 16 5 = a := bv_eq (by omega)
  have f5 : bv wd 11 5 = b := bv_eq (by omega)
  have f6 : bit wd 1 = w := bit_eq (by omega)
  simp only [decode01, f0, f1, f2, f3, f4, f5, f6, and_self, reduceIte]

theorem shlImm (d a : SReg) (n : BitVec 6) : Statement (.shlImm d a n) := by
  intro h
  have b_d := d.isLt
  have b_a := a.isLt
  have b_n := n.isLt
  obtain ⟨wd, e⟩ : ∃ wd, wd = d.toNat * 2 ^ 21 + (a.toNat * 2 ^ 16 + (n.toNat * 2 ^ 0 + 6 * 2 ^ 26)) := ⟨_, rfl⟩
  rw [show encode (.shlImm d a n) = wd from e.symm]
  refine decode_of_fields ?_ h
  rw [decodeFields_06 (by unfold fld; omega)]
  have f0 : fld wd 6 2 = 0 := by unfold fld; omega
  have f1 : fld wd 8 8 = 0 := by unfold fld; omega
  have f2 : bv wd 21 5 = d := bv_eq (by omega)
  have f3 : bv wd 16 5 = a := bv_eq (by omega)
  have f4 : bv wd 0 6 = n := bv_eq (by omega)
  simp only [decode06, f0, f1, f2, f3, f4, and_self, reduceIte]

theorem shrImm (d a : SReg) (n : BitVec 6) : Statement (.shrImm d a n) := by
  intro h
  have b_d := d.isLt
  have b_a := a.isLt
  have b_n := n.isLt
  obtain ⟨wd, e⟩ : ∃ wd, wd = 1 * 2 ^ 6 + (d.toNat * 2 ^ 21 + (a.toNat * 2 ^ 16 + (n.toNat * 2 ^ 0 + 6 * 2 ^ 26))) := ⟨_, rfl⟩
  rw [show encode (.shrImm d a n) = wd from e.symm]
  refine decode_of_fields ?_ h
  rw [decodeFields_06 (by unfold fld; omega)]
  have f0 : fld wd 6 2 = 1 := by unfold fld; omega
  have f1 : fld wd 8 8 = 0 := by unfold fld; omega
  have f2 : bv wd 21 5 = d := bv_eq (by omega)
  have f3 : bv wd 16 5 = a := bv_eq (by omega)
  have f4 : bv wd 0 6 = n := bv_eq (by omega)
  simp only [decode06, f0, f1, f2, f3, f4, and_self, reduceIte]

theorem shaImm (d a : SReg) (n : BitVec 6) : Statement (.shaImm d a n) := by
  intro h
  have b_d := d.isLt
  have b_a := a.isLt
  have b_n := n.isLt
  obtain ⟨wd, e⟩ : ∃ wd, wd = 2 * 2 ^ 6 + (d.toNat * 2 ^ 21 + (a.toNat * 2 ^ 16 + (n.toNat * 2 ^ 0 + 6 * 2 ^ 26))) := ⟨_, rfl⟩
  rw [show encode (.shaImm d a n) = wd from e.symm]
  refine decode_of_fields ?_ h
  rw [decodeFields_06 (by unfold fld; omega)]
  have f0 : fld wd 6 2 = 2 := by unfold fld; omega
  have f1 : fld wd 8 8 = 0 := by unfold fld; omega
  have f2 : bv wd 21 5 = d := bv_eq (by omega)
  have f3 : bv wd 16 5 = a := bv_eq (by omega)
  have f4 : bv wd 0 6 = n := bv_eq (by omega)
  simp only [decode06, f0, f1, f2, f3, f4, and_self, reduceIte]

theorem min (d a b : SReg) (w u : Bool) : Statement (.min d a b w u) := by
  intro h
  have b_d := d.isLt
  have b_a := a.isLt
  have b_b := b.isLt
  have b_w := w.toNat_lt
  have b_u := u.toNat_lt
  obtain ⟨wd, e⟩ : ∃ wd, wd = 12 * 2 ^ 6 + (d.toNat * 2 ^ 21 + (a.toNat * 2 ^ 16 + (b.toNat * 2 ^ 11 + (w.toNat * 2 ^ 1 + (u.toNat * 2 ^ 0 + 1 * 2 ^ 26))))) := ⟨_, rfl⟩
  rw [show encode (.min d a b w u) = wd from e.symm]
  refine decode_of_fields ?_ h
  rw [decodeFields_01 (by unfold fld; omega)]
  have f0 : fld wd 6 5 = 12 := by unfold fld; omega
  have f1 : fld wd 2 4 = 0 := by unfold fld; omega
  have f2 : bv wd 21 5 = d := bv_eq (by omega)
  have f3 : bv wd 16 5 = a := bv_eq (by omega)
  have f4 : bv wd 11 5 = b := bv_eq (by omega)
  have f5 : bit wd 1 = w := bit_eq (by omega)
  have f6 : bit wd 0 = u := bit_eq (by omega)
  simp only [decode01, f0, f1, f2, f3, f4, f5, f6, and_self, reduceIte]

theorem max (d a b : SReg) (w u : Bool) : Statement (.max d a b w u) := by
  intro h
  have b_d := d.isLt
  have b_a := a.isLt
  have b_b := b.isLt
  have b_w := w.toNat_lt
  have b_u := u.toNat_lt
  obtain ⟨wd, e⟩ : ∃ wd, wd = 13 * 2 ^ 6 + (d.toNat * 2 ^ 21 + (a.toNat * 2 ^ 16 + (b.toNat * 2 ^ 11 + (w.toNat * 2 ^ 1 + (u.toNat * 2 ^ 0 + 1 * 2 ^ 26))))) := ⟨_, rfl⟩
  rw [show encode (.max d a b w u) = wd from e.symm]
  refine decode_of_fields ?_ h
  rw [decodeFields_01 (by unfold fld; omega)]
  have f0 : fld wd 6 5 = 13 := by unfold fld; omega
  have f1 : fld wd 2 4 = 0 := by unfold fld; omega
  have f2 : bv wd 21 5 = d := bv_eq (by omega)
  have f3 : bv wd 16 5 = a := bv_eq (by omega)
  have f4 : bv wd 11 5 = b := bv_eq (by omega)
  have f5 : bit wd 1 = w := bit_eq (by omega)
  have f6 : bit wd 0 = u := bit_eq (by omega)
  simp only [decode01, f0, f1, f2, f3, f4, f5, f6, and_self, reduceIte]

theorem slt (d a b : SReg) (w u : Bool) : Statement (.slt d a b w u) := by
  intro h
  have b_d := d.isLt
  have b_a := a.isLt
  have b_b := b.isLt
  have b_w := w.toNat_lt
  have b_u := u.toNat_lt
  obtain ⟨wd, e⟩ : ∃ wd, wd = 14 * 2 ^ 6 + (d.toNat * 2 ^ 21 + (a.toNat * 2 ^ 16 + (b.toNat * 2 ^ 11 + (w.toNat * 2 ^ 1 + (u.toNat * 2 ^ 0 + 1 * 2 ^ 26))))) := ⟨_, rfl⟩
  rw [show encode (.slt d a b w u) = wd from e.symm]
  refine decode_of_fields ?_ h
  rw [decodeFields_01 (by unfold fld; omega)]
  have f0 : fld wd 6 5 = 14 := by unfold fld; omega
  have f1 : fld wd 2 4 = 0 := by unfold fld; omega
  have f2 : bv wd 21 5 = d := bv_eq (by omega)
  have f3 : bv wd 16 5 = a := bv_eq (by omega)
  have f4 : bv wd 11 5 = b := bv_eq (by omega)
  have f5 : bit wd 1 = w := bit_eq (by omega)
  have f6 : bit wd 0 = u := bit_eq (by omega)
  simp only [decode01, f0, f1, f2, f3, f4, f5, f6, and_self, reduceIte]

theorem sltImm (d a : SReg) (i : BitVec 16) : Statement (.sltImm d a i) := by
  intro h
  have b_d := d.isLt
  have b_a := a.isLt
  have b_i := i.isLt
  obtain ⟨wd, e⟩ : ∃ wd, wd = d.toNat * 2 ^ 21 + (a.toNat * 2 ^ 16 + (i.toNat * 2 ^ 0 + 7 * 2 ^ 26)) := ⟨_, rfl⟩
  rw [show encode (.sltImm d a i) = wd from e.symm]
  refine decode_of_fields ?_ h
  rw [decodeFields_07 (by unfold fld; omega)]
  have f0 : bv wd 21 5 = d := bv_eq (by omega)
  have f1 : bv wd 16 5 = a := bv_eq (by omega)
  have f2 : bv wd 0 16 = i := bv_eq (by omega)
  simp only [decode07, f0, f1, f2, and_self, reduceIte]

theorem sel (d a b : SReg) : Statement (.sel d a b) := by
  intro h
  have b_d := d.isLt
  have b_a := a.isLt
  have b_b := b.isLt
  obtain ⟨wd, e⟩ : ∃ wd, wd = 15 * 2 ^ 6 + (d.toNat * 2 ^ 21 + (a.toNat * 2 ^ 16 + (b.toNat * 2 ^ 11 + 1 * 2 ^ 26))) := ⟨_, rfl⟩
  rw [show encode (.sel d a b) = wd from e.symm]
  refine decode_of_fields ?_ h
  rw [decodeFields_01 (by unfold fld; omega)]
  have f0 : fld wd 6 5 = 15 := by unfold fld; omega
  have f1 : fld wd 0 6 = 0 := by unfold fld; omega
  have f2 : bv wd 21 5 = d := bv_eq (by omega)
  have f3 : bv wd 16 5 = a := bv_eq (by omega)
  have f4 : bv wd 11 5 = b := bv_eq (by omega)
  simp only [decode01, f0, f1, f2, f3, f4, and_self, reduceIte]

theorem clz (d a : SReg) (w : Bool) : Statement (.clz d a w) := by
  intro h
  have b_d := d.isLt
  have b_a := a.isLt
  have b_w := w.toNat_lt
  obtain ⟨wd, e⟩ : ∃ wd, wd = 16 * 2 ^ 6 + (d.toNat * 2 ^ 21 + (a.toNat * 2 ^ 16 + (w.toNat * 2 ^ 1 + 1 * 2 ^ 26))) := ⟨_, rfl⟩
  rw [show encode (.clz d a w) = wd from e.symm]
  refine decode_of_fields ?_ h
  rw [decodeFields_01 (by unfold fld; omega)]
  have f0 : fld wd 6 5 = 16 := by unfold fld; omega
  have f1 : fld wd 0 1 = 0 := by unfold fld; omega
  have f2 : fld wd 11 5 = 0 := by unfold fld; omega
  have f3 : fld wd 2 4 = 0 := by unfold fld; omega
  have f4 : bv wd 21 5 = d := bv_eq (by omega)
  have f5 : bv wd 16 5 = a := bv_eq (by omega)
  have f6 : bit wd 1 = w := bit_eq (by omega)
  simp only [decode01, f0, f1, f2, f3, f4, f5, f6, and_self, reduceIte]

theorem ctz (d a : SReg) (w : Bool) : Statement (.ctz d a w) := by
  intro h
  have b_d := d.isLt
  have b_a := a.isLt
  have b_w := w.toNat_lt
  obtain ⟨wd, e⟩ : ∃ wd, wd = 17 * 2 ^ 6 + (d.toNat * 2 ^ 21 + (a.toNat * 2 ^ 16 + (w.toNat * 2 ^ 1 + 1 * 2 ^ 26))) := ⟨_, rfl⟩
  rw [show encode (.ctz d a w) = wd from e.symm]
  refine decode_of_fields ?_ h
  rw [decodeFields_01 (by unfold fld; omega)]
  have f0 : fld wd 6 5 = 17 := by unfold fld; omega
  have f1 : fld wd 0 1 = 0 := by unfold fld; omega
  have f2 : fld wd 11 5 = 0 := by unfold fld; omega
  have f3 : fld wd 2 4 = 0 := by unfold fld; omega
  have f4 : bv wd 21 5 = d := bv_eq (by omega)
  have f5 : bv wd 16 5 = a := bv_eq (by omega)
  have f6 : bit wd 1 = w := bit_eq (by omega)
  simp only [decode01, f0, f1, f2, f3, f4, f5, f6, and_self, reduceIte]

theorem popc (d a : SReg) (w : Bool) : Statement (.popc d a w) := by
  intro h
  have b_d := d.isLt
  have b_a := a.isLt
  have b_w := w.toNat_lt
  obtain ⟨wd, e⟩ : ∃ wd, wd = 18 * 2 ^ 6 + (d.toNat * 2 ^ 21 + (a.toNat * 2 ^ 16 + (w.toNat * 2 ^ 1 + 1 * 2 ^ 26))) := ⟨_, rfl⟩
  rw [show encode (.popc d a w) = wd from e.symm]
  refine decode_of_fields ?_ h
  rw [decodeFields_01 (by unfold fld; omega)]
  have f0 : fld wd 6 5 = 18 := by unfold fld; omega
  have f1 : fld wd 0 1 = 0 := by unfold fld; omega
  have f2 : fld wd 11 5 = 0 := by unfold fld; omega
  have f3 : fld wd 2 4 = 0 := by unfold fld; omega
  have f4 : bv wd 21 5 = d := bv_eq (by omega)
  have f5 : bv wd 16 5 = a := bv_eq (by omega)
  have f6 : bit wd 1 = w := bit_eq (by omega)
  simp only [decode01, f0, f1, f2, f3, f4, f5, f6, and_self, reduceIte]

theorem li (d : SReg) (i : BitVec 21) : Statement (.li d i) := by
  intro h
  have b_d := d.isLt
  have b_i := i.isLt
  obtain ⟨wd, e⟩ : ∃ wd, wd = d.toNat * 2 ^ 21 + (i.toNat * 2 ^ 0 + 8 * 2 ^ 26) := ⟨_, rfl⟩
  rw [show encode (.li d i) = wd from e.symm]
  refine decode_of_fields ?_ h
  rw [decodeFields_08 (by unfold fld; omega)]
  have f0 : bv wd 21 5 = d := bv_eq (by omega)
  have f1 : bv wd 0 21 = i := bv_eq (by omega)
  simp only [decode08, f0, f1, and_self, reduceIte]

theorem bfx (d a : SReg) (o : BitVec 6) (w : BitVec 7) : Statement (.bfx d a o w) := by
  intro h
  have b_d := d.isLt
  have b_a := a.isLt
  have b_o := o.isLt
  have b_w := w.isLt
  obtain ⟨wd, e⟩ : ∃ wd, wd = d.toNat * 2 ^ 21 + (a.toNat * 2 ^ 16 + (o.toNat * 2 ^ 10 + (w.toNat * 2 ^ 3 + 9 * 2 ^ 26))) := ⟨_, rfl⟩
  rw [show encode (.bfx d a o w) = wd from e.symm]
  refine decode_of_fields ?_ h
  rw [decodeFields_09 (by unfold fld; omega)]
  have f0 : fld wd 0 3 = 0 := by unfold fld; omega
  have f1 : bv wd 21 5 = d := bv_eq (by omega)
  have f2 : bv wd 16 5 = a := bv_eq (by omega)
  have f3 : bv wd 10 6 = o := bv_eq (by omega)
  have f4 : bv wd 3 7 = w := bv_eq (by omega)
  simp only [decode09, f0, f1, f2, f3, f4, and_self, reduceIte]

theorem bfxS (d a : SReg) (o : BitVec 6) (w : BitVec 7) : Statement (.bfxS d a o w) := by
  intro h
  have b_d := d.isLt
  have b_a := a.isLt
  have b_o := o.isLt
  have b_w := w.isLt
  obtain ⟨wd, e⟩ : ∃ wd, wd = 1 * 2 ^ 0 + (d.toNat * 2 ^ 21 + (a.toNat * 2 ^ 16 + (o.toNat * 2 ^ 10 + (w.toNat * 2 ^ 3 + 9 * 2 ^ 26)))) := ⟨_, rfl⟩
  rw [show encode (.bfxS d a o w) = wd from e.symm]
  refine decode_of_fields ?_ h
  rw [decodeFields_09 (by unfold fld; omega)]
  have f0 : fld wd 0 3 = 1 := by unfold fld; omega
  have f1 : bv wd 21 5 = d := bv_eq (by omega)
  have f2 : bv wd 16 5 = a := bv_eq (by omega)
  have f3 : bv wd 10 6 = o := bv_eq (by omega)
  have f4 : bv wd 3 7 = w := bv_eq (by omega)
  simp only [decode09, f0, f1, f2, f3, f4, and_self, reduceIte]

theorem bfi (d a : SReg) (o : BitVec 6) (w : BitVec 7) : Statement (.bfi d a o w) := by
  intro h
  have b_d := d.isLt
  have b_a := a.isLt
  have b_o := o.isLt
  have b_w := w.isLt
  obtain ⟨wd, e⟩ : ∃ wd, wd = 2 * 2 ^ 0 + (d.toNat * 2 ^ 21 + (a.toNat * 2 ^ 16 + (o.toNat * 2 ^ 10 + (w.toNat * 2 ^ 3 + 9 * 2 ^ 26)))) := ⟨_, rfl⟩
  rw [show encode (.bfi d a o w) = wd from e.symm]
  refine decode_of_fields ?_ h
  rw [decodeFields_09 (by unfold fld; omega)]
  have f0 : fld wd 0 3 = 2 := by unfold fld; omega
  have f1 : bv wd 21 5 = d := bv_eq (by omega)
  have f2 : bv wd 16 5 = a := bv_eq (by omega)
  have f3 : bv wd 10 6 = o := bv_eq (by omega)
  have f4 : bv wd 3 7 = w := bv_eq (by omega)
  simp only [decode09, f0, f1, f2, f3, f4, and_self, reduceIte]

theorem fadd (d a b : SReg) (p : Bool) : Statement (.fadd d a b p) := by
  intro h
  have b_d := d.isLt
  have b_a := a.isLt
  have b_b := b.isLt
  have b_p := p.toNat_lt
  obtain ⟨wd, e⟩ : ∃ wd, wd = d.toNat * 2 ^ 21 + (a.toNat * 2 ^ 16 + (b.toNat * 2 ^ 11 + (p.toNat * 2 ^ 1 + 10 * 2 ^ 26))) := ⟨_, rfl⟩
  rw [show encode (.fadd d a b p) = wd from e.symm]
  refine decode_of_fields ?_ h
  rw [decodeFields_0A (by unfold fld; omega)]
  have f0 : fld wd 6 5 = 0 := by unfold fld; omega
  have f1 : fld wd 0 1 = 0 := by unfold fld; omega
  have f2 : fld wd 2 4 = 0 := by unfold fld; omega
  have f3 : bv wd 21 5 = d := bv_eq (by omega)
  have f4 : bv wd 16 5 = a := bv_eq (by omega)
  have f5 : bv wd 11 5 = b := bv_eq (by omega)
  have f6 : bit wd 1 = p := bit_eq (by omega)
  simp only [decode0A, f0, f1, f2, f3, f4, f5, f6, and_self, reduceIte]

theorem fsub (d a b : SReg) (p : Bool) : Statement (.fsub d a b p) := by
  intro h
  have b_d := d.isLt
  have b_a := a.isLt
  have b_b := b.isLt
  have b_p := p.toNat_lt
  obtain ⟨wd, e⟩ : ∃ wd, wd = 1 * 2 ^ 6 + (d.toNat * 2 ^ 21 + (a.toNat * 2 ^ 16 + (b.toNat * 2 ^ 11 + (p.toNat * 2 ^ 1 + 10 * 2 ^ 26)))) := ⟨_, rfl⟩
  rw [show encode (.fsub d a b p) = wd from e.symm]
  refine decode_of_fields ?_ h
  rw [decodeFields_0A (by unfold fld; omega)]
  have f0 : fld wd 6 5 = 1 := by unfold fld; omega
  have f1 : fld wd 0 1 = 0 := by unfold fld; omega
  have f2 : fld wd 2 4 = 0 := by unfold fld; omega
  have f3 : bv wd 21 5 = d := bv_eq (by omega)
  have f4 : bv wd 16 5 = a := bv_eq (by omega)
  have f5 : bv wd 11 5 = b := bv_eq (by omega)
  have f6 : bit wd 1 = p := bit_eq (by omega)
  simp only [decode0A, f0, f1, f2, f3, f4, f5, f6, and_self, reduceIte]

theorem fmul (d a b : SReg) (p : Bool) : Statement (.fmul d a b p) := by
  intro h
  have b_d := d.isLt
  have b_a := a.isLt
  have b_b := b.isLt
  have b_p := p.toNat_lt
  obtain ⟨wd, e⟩ : ∃ wd, wd = 2 * 2 ^ 6 + (d.toNat * 2 ^ 21 + (a.toNat * 2 ^ 16 + (b.toNat * 2 ^ 11 + (p.toNat * 2 ^ 1 + 10 * 2 ^ 26)))) := ⟨_, rfl⟩
  rw [show encode (.fmul d a b p) = wd from e.symm]
  refine decode_of_fields ?_ h
  rw [decodeFields_0A (by unfold fld; omega)]
  have f0 : fld wd 6 5 = 2 := by unfold fld; omega
  have f1 : fld wd 0 1 = 0 := by unfold fld; omega
  have f2 : fld wd 2 4 = 0 := by unfold fld; omega
  have f3 : bv wd 21 5 = d := bv_eq (by omega)
  have f4 : bv wd 16 5 = a := bv_eq (by omega)
  have f5 : bv wd 11 5 = b := bv_eq (by omega)
  have f6 : bit wd 1 = p := bit_eq (by omega)
  simp only [decode0A, f0, f1, f2, f3, f4, f5, f6, and_self, reduceIte]

theorem fdiv (d a b : SReg) (p : Bool) : Statement (.fdiv d a b p) := by
  intro h
  have b_d := d.isLt
  have b_a := a.isLt
  have b_b := b.isLt
  have b_p := p.toNat_lt
  obtain ⟨wd, e⟩ : ∃ wd, wd = 3 * 2 ^ 6 + (d.toNat * 2 ^ 21 + (a.toNat * 2 ^ 16 + (b.toNat * 2 ^ 11 + (p.toNat * 2 ^ 1 + 10 * 2 ^ 26)))) := ⟨_, rfl⟩
  rw [show encode (.fdiv d a b p) = wd from e.symm]
  refine decode_of_fields ?_ h
  rw [decodeFields_0A (by unfold fld; omega)]
  have f0 : fld wd 6 5 = 3 := by unfold fld; omega
  have f1 : fld wd 0 1 = 0 := by unfold fld; omega
  have f2 : fld wd 2 4 = 0 := by unfold fld; omega
  have f3 : bv wd 21 5 = d := bv_eq (by omega)
  have f4 : bv wd 16 5 = a := bv_eq (by omega)
  have f5 : bv wd 11 5 = b := bv_eq (by omega)
  have f6 : bit wd 1 = p := bit_eq (by omega)
  simp only [decode0A, f0, f1, f2, f3, f4, f5, f6, and_self, reduceIte]

theorem fma (d a b : SReg) (p : Bool) : Statement (.fma d a b p) := by
  intro h
  have b_d := d.isLt
  have b_a := a.isLt
  have b_b := b.isLt
  have b_p := p.toNat_lt
  obtain ⟨wd, e⟩ : ∃ wd, wd = 4 * 2 ^ 6 + (d.toNat * 2 ^ 21 + (a.toNat * 2 ^ 16 + (b.toNat * 2 ^ 11 + (p.toNat * 2 ^ 1 + 10 * 2 ^ 26)))) := ⟨_, rfl⟩
  rw [show encode (.fma d a b p) = wd from e.symm]
  refine decode_of_fields ?_ h
  rw [decodeFields_0A (by unfold fld; omega)]
  have f0 : fld wd 6 5 = 4 := by unfold fld; omega
  have f1 : fld wd 0 1 = 0 := by unfold fld; omega
  have f2 : fld wd 2 4 = 0 := by unfold fld; omega
  have f3 : bv wd 21 5 = d := bv_eq (by omega)
  have f4 : bv wd 16 5 = a := bv_eq (by omega)
  have f5 : bv wd 11 5 = b := bv_eq (by omega)
  have f6 : bit wd 1 = p := bit_eq (by omega)
  simp only [decode0A, f0, f1, f2, f3, f4, f5, f6, and_self, reduceIte]

theorem fmin (d a b : SReg) (p : Bool) : Statement (.fmin d a b p) := by
  intro h
  have b_d := d.isLt
  have b_a := a.isLt
  have b_b := b.isLt
  have b_p := p.toNat_lt
  obtain ⟨wd, e⟩ : ∃ wd, wd = 5 * 2 ^ 6 + (d.toNat * 2 ^ 21 + (a.toNat * 2 ^ 16 + (b.toNat * 2 ^ 11 + (p.toNat * 2 ^ 1 + 10 * 2 ^ 26)))) := ⟨_, rfl⟩
  rw [show encode (.fmin d a b p) = wd from e.symm]
  refine decode_of_fields ?_ h
  rw [decodeFields_0A (by unfold fld; omega)]
  have f0 : fld wd 6 5 = 5 := by unfold fld; omega
  have f1 : fld wd 0 1 = 0 := by unfold fld; omega
  have f2 : fld wd 2 4 = 0 := by unfold fld; omega
  have f3 : bv wd 21 5 = d := bv_eq (by omega)
  have f4 : bv wd 16 5 = a := bv_eq (by omega)
  have f5 : bv wd 11 5 = b := bv_eq (by omega)
  have f6 : bit wd 1 = p := bit_eq (by omega)
  simp only [decode0A, f0, f1, f2, f3, f4, f5, f6, and_self, reduceIte]

theorem fmax (d a b : SReg) (p : Bool) : Statement (.fmax d a b p) := by
  intro h
  have b_d := d.isLt
  have b_a := a.isLt
  have b_b := b.isLt
  have b_p := p.toNat_lt
  obtain ⟨wd, e⟩ : ∃ wd, wd = 6 * 2 ^ 6 + (d.toNat * 2 ^ 21 + (a.toNat * 2 ^ 16 + (b.toNat * 2 ^ 11 + (p.toNat * 2 ^ 1 + 10 * 2 ^ 26)))) := ⟨_, rfl⟩
  rw [show encode (.fmax d a b p) = wd from e.symm]
  refine decode_of_fields ?_ h
  rw [decodeFields_0A (by unfold fld; omega)]
  have f0 : fld wd 6 5 = 6 := by unfold fld; omega
  have f1 : fld wd 0 1 = 0 := by unfold fld; omega
  have f2 : fld wd 2 4 = 0 := by unfold fld; omega
  have f3 : bv wd 21 5 = d := bv_eq (by omega)
  have f4 : bv wd 16 5 = a := bv_eq (by omega)
  have f5 : bv wd 11 5 = b := bv_eq (by omega)
  have f6 : bit wd 1 = p := bit_eq (by omega)
  simp only [decode0A, f0, f1, f2, f3, f4, f5, f6, and_self, reduceIte]

theorem fcmp (d a b : SReg) (c : FcmpCond) (p : Bool) : Statement (.fcmp d a b c p) := by
  intro h
  have b_d := d.isLt
  have b_a := a.isLt
  have b_b := b.isLt
  have b_c := c.code_lt
  have b_p := p.toNat_lt
  obtain ⟨wd, e⟩ : ∃ wd, wd = 7 * 2 ^ 6 + (d.toNat * 2 ^ 21 + (a.toNat * 2 ^ 16 + (b.toNat * 2 ^ 11 + (c.code * 2 ^ 2 + (p.toNat * 2 ^ 1 + 10 * 2 ^ 26))))) := ⟨_, rfl⟩
  rw [show encode (.fcmp d a b c p) = wd from e.symm]
  refine decode_of_fields ?_ h
  rw [decodeFields_0A (by unfold fld; omega)]
  have f0 : fld wd 6 5 = 7 := by unfold fld; omega
  have f1 : fld wd 0 1 = 0 := by unfold fld; omega
  have f2 : fld wd 4 2 = 0 := by unfold fld; omega
  have f3 : bv wd 21 5 = d := bv_eq (by omega)
  have f4 : bv wd 16 5 = a := bv_eq (by omega)
  have f5 : bv wd 11 5 = b := bv_eq (by omega)
  have f6 : fld wd 2 2 = c.code := by unfold fld; omega
  have f7 : bit wd 1 = p := bit_eq (by omega)
  simp only [decode0A, f0, f1, f2, f3, f4, f5, f6, f7, FcmpCond.ofCode_code, Option.bind_some, and_self, reduceIte]

theorem fcvt (d a : SReg) (c : FcvtOp) (p : Bool) : Statement (.fcvt d a c p) := by
  intro h
  have b_d := d.isLt
  have b_a := a.isLt
  have b_c := c.code_lt
  have b_p := p.toNat_lt
  obtain ⟨wd, e⟩ : ∃ wd, wd = 8 * 2 ^ 6 + (d.toNat * 2 ^ 21 + (a.toNat * 2 ^ 16 + (c.code * 2 ^ 11 + (p.toNat * 2 ^ 1 + 10 * 2 ^ 26)))) := ⟨_, rfl⟩
  rw [show encode (.fcvt d a c p) = wd from e.symm]
  refine decode_of_fields ?_ h
  rw [decodeFields_0A (by unfold fld; omega)]
  have f0 : fld wd 6 5 = 8 := by unfold fld; omega
  have f1 : fld wd 0 1 = 0 := by unfold fld; omega
  have f2 : fld wd 2 4 = 0 := by unfold fld; omega
  have f3 : bv wd 21 5 = d := bv_eq (by omega)
  have f4 : bv wd 16 5 = a := bv_eq (by omega)
  have f5 : fld wd 11 5 = c.code := by unfold fld; omega
  have f6 : bit wd 1 = p := bit_eq (by omega)
  simp only [decode0A, f0, f1, f2, f3, f4, f5, f6, FcvtOp.ofCode_code, Option.bind_some, and_self, reduceIte]

theorem ld (d b : SReg) (z : MemSize) (x : Bool) (o : BitVec 13) : Statement (.ld d b z x o) := by
  intro h
  have b_d := d.isLt
  have b_b := b.isLt
  have b_z := z.code_lt
  have b_x := x.toNat_lt
  have b_o := o.isLt
  obtain ⟨wd, e⟩ : ∃ wd, wd = d.toNat * 2 ^ 21 + (b.toNat * 2 ^ 16 + (z.code * 2 ^ 14 + (x.toNat * 2 ^ 13 + (o.toNat * 2 ^ 0 + 11 * 2 ^ 26)))) := ⟨_, rfl⟩
  rw [show encode (.ld d b z x o) = wd from e.symm]
  refine decode_of_fields ?_ h
  rw [decodeFields_0B (by unfold fld; omega)]
  have f0 : bv wd 21 5 = d := bv_eq (by omega)
  have f1 : bv wd 16 5 = b := bv_eq (by omega)
  have f2 : fld wd 14 2 = z.code := by unfold fld; omega
  have f3 : bit wd 13 = x := bit_eq (by omega)
  have f4 : bv wd 0 13 = o := bv_eq (by omega)
  simp only [decode0B, f0, f1, f2, f3, f4, MemSize.ofCode_code, Option.bind_some, and_self, reduceIte]

theorem st (d b : SReg) (z : MemSize) (o : BitVec 13) : Statement (.st d b z o) := by
  intro h
  have b_d := d.isLt
  have b_b := b.isLt
  have b_z := z.code_lt
  have b_o := o.isLt
  obtain ⟨wd, e⟩ : ∃ wd, wd = d.toNat * 2 ^ 21 + (b.toNat * 2 ^ 16 + (z.code * 2 ^ 14 + (o.toNat * 2 ^ 0 + 12 * 2 ^ 26))) := ⟨_, rfl⟩
  rw [show encode (.st d b z o) = wd from e.symm]
  refine decode_of_fields ?_ h
  rw [decodeFields_0C (by unfold fld; omega)]
  have f0 : fld wd 13 1 = 0 := by unfold fld; omega
  have f1 : bv wd 21 5 = d := bv_eq (by omega)
  have f2 : bv wd 16 5 = b := bv_eq (by omega)
  have f3 : fld wd 14 2 = z.code := by unfold fld; omega
  have f4 : bv wd 0 13 = o := bv_eq (by omega)
  simp only [decode0C, f0, f1, f2, f3, f4, MemSize.ofCode_code, Option.bind_some, and_self, reduceIte]

theorem amoAdd (d a b : SReg) (z : Bool) (r : AmoOrder) (s : Scope) : Statement (.amoAdd d a b z r s) := by
  intro h
  have b_d := d.isLt
  have b_a := a.isLt
  have b_b := b.isLt
  have b_z := z.toNat_lt
  have b_r := r.code_lt
  have b_s := s.code_lt
  obtain ⟨wd, e⟩ : ∃ wd, wd = d.toNat * 2 ^ 21 + (a.toNat * 2 ^ 16 + (b.toNat * 2 ^ 11 + (z.toNat * 2 ^ 6 + (r.code * 2 ^ 4 + (s.code * 2 ^ 1 + 13 * 2 ^ 26))))) := ⟨_, rfl⟩
  rw [show encode (.amoAdd d a b z r s) = wd from e.symm]
  refine decode_of_fields ?_ h
  rw [decodeFields_0D (by unfold fld; omega)]
  have f0 : fld wd 7 4 = 0 := by unfold fld; omega
  have f1 : fld wd 0 1 = 0 := by unfold fld; omega
  have f2 : bv wd 21 5 = d := bv_eq (by omega)
  have f3 : bv wd 16 5 = a := bv_eq (by omega)
  have f4 : bv wd 11 5 = b := bv_eq (by omega)
  have f5 : bit wd 6 = z := bit_eq (by omega)
  have f6 : fld wd 4 2 = r.code := by unfold fld; omega
  have f7 : fld wd 1 3 = s.code := by unfold fld; omega
  simp only [decode0D, f0, f1, f2, f3, f4, f5, f6, f7, AmoOrder.ofCode_code, Option.bind_some, Scope.ofCode_code, Option.bind_some, and_self, reduceIte]

theorem amoAnd (d a b : SReg) (z : Bool) (r : AmoOrder) (s : Scope) : Statement (.amoAnd d a b z r s) := by
  intro h
  have b_d := d.isLt
  have b_a := a.isLt
  have b_b := b.isLt
  have b_z := z.toNat_lt
  have b_r := r.code_lt
  have b_s := s.code_lt
  obtain ⟨wd, e⟩ : ∃ wd, wd = 1 * 2 ^ 7 + (d.toNat * 2 ^ 21 + (a.toNat * 2 ^ 16 + (b.toNat * 2 ^ 11 + (z.toNat * 2 ^ 6 + (r.code * 2 ^ 4 + (s.code * 2 ^ 1 + 13 * 2 ^ 26)))))) := ⟨_, rfl⟩
  rw [show encode (.amoAnd d a b z r s) = wd from e.symm]
  refine decode_of_fields ?_ h
  rw [decodeFields_0D (by unfold fld; omega)]
  have f0 : fld wd 7 4 = 1 := by unfold fld; omega
  have f1 : fld wd 0 1 = 0 := by unfold fld; omega
  have f2 : bv wd 21 5 = d := bv_eq (by omega)
  have f3 : bv wd 16 5 = a := bv_eq (by omega)
  have f4 : bv wd 11 5 = b := bv_eq (by omega)
  have f5 : bit wd 6 = z := bit_eq (by omega)
  have f6 : fld wd 4 2 = r.code := by unfold fld; omega
  have f7 : fld wd 1 3 = s.code := by unfold fld; omega
  simp only [decode0D, f0, f1, f2, f3, f4, f5, f6, f7, AmoOrder.ofCode_code, Option.bind_some, Scope.ofCode_code, Option.bind_some, and_self, reduceIte]

theorem amoOr (d a b : SReg) (z : Bool) (r : AmoOrder) (s : Scope) : Statement (.amoOr d a b z r s) := by
  intro h
  have b_d := d.isLt
  have b_a := a.isLt
  have b_b := b.isLt
  have b_z := z.toNat_lt
  have b_r := r.code_lt
  have b_s := s.code_lt
  obtain ⟨wd, e⟩ : ∃ wd, wd = 2 * 2 ^ 7 + (d.toNat * 2 ^ 21 + (a.toNat * 2 ^ 16 + (b.toNat * 2 ^ 11 + (z.toNat * 2 ^ 6 + (r.code * 2 ^ 4 + (s.code * 2 ^ 1 + 13 * 2 ^ 26)))))) := ⟨_, rfl⟩
  rw [show encode (.amoOr d a b z r s) = wd from e.symm]
  refine decode_of_fields ?_ h
  rw [decodeFields_0D (by unfold fld; omega)]
  have f0 : fld wd 7 4 = 2 := by unfold fld; omega
  have f1 : fld wd 0 1 = 0 := by unfold fld; omega
  have f2 : bv wd 21 5 = d := bv_eq (by omega)
  have f3 : bv wd 16 5 = a := bv_eq (by omega)
  have f4 : bv wd 11 5 = b := bv_eq (by omega)
  have f5 : bit wd 6 = z := bit_eq (by omega)
  have f6 : fld wd 4 2 = r.code := by unfold fld; omega
  have f7 : fld wd 1 3 = s.code := by unfold fld; omega
  simp only [decode0D, f0, f1, f2, f3, f4, f5, f6, f7, AmoOrder.ofCode_code, Option.bind_some, Scope.ofCode_code, Option.bind_some, and_self, reduceIte]

theorem amoXor (d a b : SReg) (z : Bool) (r : AmoOrder) (s : Scope) : Statement (.amoXor d a b z r s) := by
  intro h
  have b_d := d.isLt
  have b_a := a.isLt
  have b_b := b.isLt
  have b_z := z.toNat_lt
  have b_r := r.code_lt
  have b_s := s.code_lt
  obtain ⟨wd, e⟩ : ∃ wd, wd = 3 * 2 ^ 7 + (d.toNat * 2 ^ 21 + (a.toNat * 2 ^ 16 + (b.toNat * 2 ^ 11 + (z.toNat * 2 ^ 6 + (r.code * 2 ^ 4 + (s.code * 2 ^ 1 + 13 * 2 ^ 26)))))) := ⟨_, rfl⟩
  rw [show encode (.amoXor d a b z r s) = wd from e.symm]
  refine decode_of_fields ?_ h
  rw [decodeFields_0D (by unfold fld; omega)]
  have f0 : fld wd 7 4 = 3 := by unfold fld; omega
  have f1 : fld wd 0 1 = 0 := by unfold fld; omega
  have f2 : bv wd 21 5 = d := bv_eq (by omega)
  have f3 : bv wd 16 5 = a := bv_eq (by omega)
  have f4 : bv wd 11 5 = b := bv_eq (by omega)
  have f5 : bit wd 6 = z := bit_eq (by omega)
  have f6 : fld wd 4 2 = r.code := by unfold fld; omega
  have f7 : fld wd 1 3 = s.code := by unfold fld; omega
  simp only [decode0D, f0, f1, f2, f3, f4, f5, f6, f7, AmoOrder.ofCode_code, Option.bind_some, Scope.ofCode_code, Option.bind_some, and_self, reduceIte]

theorem amoMin (d a b : SReg) (z : Bool) (r : AmoOrder) (s : Scope) : Statement (.amoMin d a b z r s) := by
  intro h
  have b_d := d.isLt
  have b_a := a.isLt
  have b_b := b.isLt
  have b_z := z.toNat_lt
  have b_r := r.code_lt
  have b_s := s.code_lt
  obtain ⟨wd, e⟩ : ∃ wd, wd = 4 * 2 ^ 7 + (d.toNat * 2 ^ 21 + (a.toNat * 2 ^ 16 + (b.toNat * 2 ^ 11 + (z.toNat * 2 ^ 6 + (r.code * 2 ^ 4 + (s.code * 2 ^ 1 + 13 * 2 ^ 26)))))) := ⟨_, rfl⟩
  rw [show encode (.amoMin d a b z r s) = wd from e.symm]
  refine decode_of_fields ?_ h
  rw [decodeFields_0D (by unfold fld; omega)]
  have f0 : fld wd 7 4 = 4 := by unfold fld; omega
  have f1 : fld wd 0 1 = 0 := by unfold fld; omega
  have f2 : bv wd 21 5 = d := bv_eq (by omega)
  have f3 : bv wd 16 5 = a := bv_eq (by omega)
  have f4 : bv wd 11 5 = b := bv_eq (by omega)
  have f5 : bit wd 6 = z := bit_eq (by omega)
  have f6 : fld wd 4 2 = r.code := by unfold fld; omega
  have f7 : fld wd 1 3 = s.code := by unfold fld; omega
  simp only [decode0D, f0, f1, f2, f3, f4, f5, f6, f7, AmoOrder.ofCode_code, Option.bind_some, Scope.ofCode_code, Option.bind_some, and_self, reduceIte]

theorem amoMax (d a b : SReg) (z : Bool) (r : AmoOrder) (s : Scope) : Statement (.amoMax d a b z r s) := by
  intro h
  have b_d := d.isLt
  have b_a := a.isLt
  have b_b := b.isLt
  have b_z := z.toNat_lt
  have b_r := r.code_lt
  have b_s := s.code_lt
  obtain ⟨wd, e⟩ : ∃ wd, wd = 5 * 2 ^ 7 + (d.toNat * 2 ^ 21 + (a.toNat * 2 ^ 16 + (b.toNat * 2 ^ 11 + (z.toNat * 2 ^ 6 + (r.code * 2 ^ 4 + (s.code * 2 ^ 1 + 13 * 2 ^ 26)))))) := ⟨_, rfl⟩
  rw [show encode (.amoMax d a b z r s) = wd from e.symm]
  refine decode_of_fields ?_ h
  rw [decodeFields_0D (by unfold fld; omega)]
  have f0 : fld wd 7 4 = 5 := by unfold fld; omega
  have f1 : fld wd 0 1 = 0 := by unfold fld; omega
  have f2 : bv wd 21 5 = d := bv_eq (by omega)
  have f3 : bv wd 16 5 = a := bv_eq (by omega)
  have f4 : bv wd 11 5 = b := bv_eq (by omega)
  have f5 : bit wd 6 = z := bit_eq (by omega)
  have f6 : fld wd 4 2 = r.code := by unfold fld; omega
  have f7 : fld wd 1 3 = s.code := by unfold fld; omega
  simp only [decode0D, f0, f1, f2, f3, f4, f5, f6, f7, AmoOrder.ofCode_code, Option.bind_some, Scope.ofCode_code, Option.bind_some, and_self, reduceIte]

theorem amoMinu (d a b : SReg) (z : Bool) (r : AmoOrder) (s : Scope) : Statement (.amoMinu d a b z r s) := by
  intro h
  have b_d := d.isLt
  have b_a := a.isLt
  have b_b := b.isLt
  have b_z := z.toNat_lt
  have b_r := r.code_lt
  have b_s := s.code_lt
  obtain ⟨wd, e⟩ : ∃ wd, wd = 6 * 2 ^ 7 + (d.toNat * 2 ^ 21 + (a.toNat * 2 ^ 16 + (b.toNat * 2 ^ 11 + (z.toNat * 2 ^ 6 + (r.code * 2 ^ 4 + (s.code * 2 ^ 1 + 13 * 2 ^ 26)))))) := ⟨_, rfl⟩
  rw [show encode (.amoMinu d a b z r s) = wd from e.symm]
  refine decode_of_fields ?_ h
  rw [decodeFields_0D (by unfold fld; omega)]
  have f0 : fld wd 7 4 = 6 := by unfold fld; omega
  have f1 : fld wd 0 1 = 0 := by unfold fld; omega
  have f2 : bv wd 21 5 = d := bv_eq (by omega)
  have f3 : bv wd 16 5 = a := bv_eq (by omega)
  have f4 : bv wd 11 5 = b := bv_eq (by omega)
  have f5 : bit wd 6 = z := bit_eq (by omega)
  have f6 : fld wd 4 2 = r.code := by unfold fld; omega
  have f7 : fld wd 1 3 = s.code := by unfold fld; omega
  simp only [decode0D, f0, f1, f2, f3, f4, f5, f6, f7, AmoOrder.ofCode_code, Option.bind_some, Scope.ofCode_code, Option.bind_some, and_self, reduceIte]

theorem amoMaxu (d a b : SReg) (z : Bool) (r : AmoOrder) (s : Scope) : Statement (.amoMaxu d a b z r s) := by
  intro h
  have b_d := d.isLt
  have b_a := a.isLt
  have b_b := b.isLt
  have b_z := z.toNat_lt
  have b_r := r.code_lt
  have b_s := s.code_lt
  obtain ⟨wd, e⟩ : ∃ wd, wd = 7 * 2 ^ 7 + (d.toNat * 2 ^ 21 + (a.toNat * 2 ^ 16 + (b.toNat * 2 ^ 11 + (z.toNat * 2 ^ 6 + (r.code * 2 ^ 4 + (s.code * 2 ^ 1 + 13 * 2 ^ 26)))))) := ⟨_, rfl⟩
  rw [show encode (.amoMaxu d a b z r s) = wd from e.symm]
  refine decode_of_fields ?_ h
  rw [decodeFields_0D (by unfold fld; omega)]
  have f0 : fld wd 7 4 = 7 := by unfold fld; omega
  have f1 : fld wd 0 1 = 0 := by unfold fld; omega
  have f2 : bv wd 21 5 = d := bv_eq (by omega)
  have f3 : bv wd 16 5 = a := bv_eq (by omega)
  have f4 : bv wd 11 5 = b := bv_eq (by omega)
  have f5 : bit wd 6 = z := bit_eq (by omega)
  have f6 : fld wd 4 2 = r.code := by unfold fld; omega
  have f7 : fld wd 1 3 = s.code := by unfold fld; omega
  simp only [decode0D, f0, f1, f2, f3, f4, f5, f6, f7, AmoOrder.ofCode_code, Option.bind_some, Scope.ofCode_code, Option.bind_some, and_self, reduceIte]

theorem amoSwap (d a b : SReg) (z : Bool) (r : AmoOrder) (s : Scope) : Statement (.amoSwap d a b z r s) := by
  intro h
  have b_d := d.isLt
  have b_a := a.isLt
  have b_b := b.isLt
  have b_z := z.toNat_lt
  have b_r := r.code_lt
  have b_s := s.code_lt
  obtain ⟨wd, e⟩ : ∃ wd, wd = 8 * 2 ^ 7 + (d.toNat * 2 ^ 21 + (a.toNat * 2 ^ 16 + (b.toNat * 2 ^ 11 + (z.toNat * 2 ^ 6 + (r.code * 2 ^ 4 + (s.code * 2 ^ 1 + 13 * 2 ^ 26)))))) := ⟨_, rfl⟩
  rw [show encode (.amoSwap d a b z r s) = wd from e.symm]
  refine decode_of_fields ?_ h
  rw [decodeFields_0D (by unfold fld; omega)]
  have f0 : fld wd 7 4 = 8 := by unfold fld; omega
  have f1 : fld wd 0 1 = 0 := by unfold fld; omega
  have f2 : bv wd 21 5 = d := bv_eq (by omega)
  have f3 : bv wd 16 5 = a := bv_eq (by omega)
  have f4 : bv wd 11 5 = b := bv_eq (by omega)
  have f5 : bit wd 6 = z := bit_eq (by omega)
  have f6 : fld wd 4 2 = r.code := by unfold fld; omega
  have f7 : fld wd 1 3 = s.code := by unfold fld; omega
  simp only [decode0D, f0, f1, f2, f3, f4, f5, f6, f7, AmoOrder.ofCode_code, Option.bind_some, Scope.ofCode_code, Option.bind_some, and_self, reduceIte]

theorem amoCas (d a b : SReg) (z : Bool) (r : AmoOrder) (s : Scope) : Statement (.amoCas d a b z r s) := by
  intro h
  have b_d := d.isLt
  have b_a := a.isLt
  have b_b := b.isLt
  have b_z := z.toNat_lt
  have b_r := r.code_lt
  have b_s := s.code_lt
  obtain ⟨wd, e⟩ : ∃ wd, wd = 9 * 2 ^ 7 + (d.toNat * 2 ^ 21 + (a.toNat * 2 ^ 16 + (b.toNat * 2 ^ 11 + (z.toNat * 2 ^ 6 + (r.code * 2 ^ 4 + (s.code * 2 ^ 1 + 13 * 2 ^ 26)))))) := ⟨_, rfl⟩
  rw [show encode (.amoCas d a b z r s) = wd from e.symm]
  refine decode_of_fields ?_ h
  rw [decodeFields_0D (by unfold fld; omega)]
  have f0 : fld wd 7 4 = 9 := by unfold fld; omega
  have f1 : fld wd 0 1 = 0 := by unfold fld; omega
  have f2 : bv wd 21 5 = d := bv_eq (by omega)
  have f3 : bv wd 16 5 = a := bv_eq (by omega)
  have f4 : bv wd 11 5 = b := bv_eq (by omega)
  have f5 : bit wd 6 = z := bit_eq (by omega)
  have f6 : fld wd 4 2 = r.code := by unfold fld; omega
  have f7 : fld wd 1 3 = s.code := by unfold fld; omega
  simp only [decode0D, f0, f1, f2, f3, f4, f5, f6, f7, AmoOrder.ofCode_code, Option.bind_some, Scope.ofCode_code, Option.bind_some, and_self, reduceIte]

theorem fenceFull (s : Scope) : Statement (.fenceFull s) := by
  intro h
  have b_s := s.code_lt
  obtain ⟨wd, e⟩ : ∃ wd, wd = s.code * 2 ^ 20 + 14 * 2 ^ 26 := ⟨_, rfl⟩
  rw [show encode (.fenceFull s) = wd from e.symm]
  refine decode_of_fields ?_ h
  rw [decodeFields_0E (by unfold fld; omega)]
  have f0 : fld wd 23 3 = 0 := by unfold fld; omega
  have f1 : fld wd 0 20 = 0 := by unfold fld; omega
  have f2 : fld wd 20 3 = s.code := by unfold fld; omega
  simp only [decode0E, f0, f1, f2, Scope.ofCode_code, Option.bind_some, and_self, reduceIte]

theorem fenceRel (s : Scope) : Statement (.fenceRel s) := by
  intro h
  have b_s := s.code_lt
  obtain ⟨wd, e⟩ : ∃ wd, wd = 1 * 2 ^ 23 + (s.code * 2 ^ 20 + 14 * 2 ^ 26) := ⟨_, rfl⟩
  rw [show encode (.fenceRel s) = wd from e.symm]
  refine decode_of_fields ?_ h
  rw [decodeFields_0E (by unfold fld; omega)]
  have f0 : fld wd 23 3 = 1 := by unfold fld; omega
  have f1 : fld wd 0 20 = 0 := by unfold fld; omega
  have f2 : fld wd 20 3 = s.code := by unfold fld; omega
  simp only [decode0E, f0, f1, f2, Scope.ofCode_code, Option.bind_some, and_self, reduceIte]

theorem fenceAcq (s : Scope) : Statement (.fenceAcq s) := by
  intro h
  have b_s := s.code_lt
  obtain ⟨wd, e⟩ : ∃ wd, wd = 2 * 2 ^ 23 + (s.code * 2 ^ 20 + 14 * 2 ^ 26) := ⟨_, rfl⟩
  rw [show encode (.fenceAcq s) = wd from e.symm]
  refine decode_of_fields ?_ h
  rw [decodeFields_0E (by unfold fld; omega)]
  have f0 : fld wd 23 3 = 2 := by unfold fld; omega
  have f1 : fld wd 0 20 = 0 := by unfold fld; omega
  have f2 : fld wd 20 3 = s.code := by unfold fld; omega
  simp only [decode0E, f0, f1, f2, Scope.ofCode_code, Option.bind_some, and_self, reduceIte]

theorem fenceEng (s : Scope) : Statement (.fenceEng s) := by
  intro h
  have b_s := s.code_lt
  obtain ⟨wd, e⟩ : ∃ wd, wd = 3 * 2 ^ 23 + (s.code * 2 ^ 20 + 14 * 2 ^ 26) := ⟨_, rfl⟩
  rw [show encode (.fenceEng s) = wd from e.symm]
  refine decode_of_fields ?_ h
  rw [decodeFields_0E (by unfold fld; omega)]
  have f0 : fld wd 23 3 = 3 := by unfold fld; omega
  have f1 : fld wd 0 20 = 0 := by unfold fld; omega
  have f2 : fld wd 20 3 = s.code := by unfold fld; omega
  simp only [decode0E, f0, f1, f2, Scope.ofCode_code, Option.bind_some, and_self, reduceIte]

theorem fenceXlat (s : Scope) : Statement (.fenceXlat s) := by
  intro h
  have b_s := s.code_lt
  obtain ⟨wd, e⟩ : ∃ wd, wd = 4 * 2 ^ 23 + (s.code * 2 ^ 20 + 14 * 2 ^ 26) := ⟨_, rfl⟩
  rw [show encode (.fenceXlat s) = wd from e.symm]
  refine decode_of_fields ?_ h
  rw [decodeFields_0E (by unfold fld; omega)]
  have f0 : fld wd 23 3 = 4 := by unfold fld; omega
  have f1 : fld wd 0 20 = 0 := by unfold fld; omega
  have f2 : fld wd 20 3 = s.code := by unfold fld; omega
  simp only [decode0E, f0, f1, f2, Scope.ofCode_code, Option.bind_some, and_self, reduceIte]

theorem fenceInst (s : Scope) : Statement (.fenceInst s) := by
  intro h
  have b_s := s.code_lt
  obtain ⟨wd, e⟩ : ∃ wd, wd = 5 * 2 ^ 23 + (s.code * 2 ^ 20 + 14 * 2 ^ 26) := ⟨_, rfl⟩
  rw [show encode (.fenceInst s) = wd from e.symm]
  refine decode_of_fields ?_ h
  rw [decodeFields_0E (by unfold fld; omega)]
  have f0 : fld wd 23 3 = 5 := by unfold fld; omega
  have f1 : fld wd 0 20 = 0 := by unfold fld; omega
  have f2 : fld wd 20 3 = s.code := by unfold fld; omega
  simp only [decode0E, f0, f1, f2, Scope.ofCode_code, Option.bind_some, and_self, reduceIte]

theorem br (c : BrCond) (a b : SReg) (o : BitVec 13) : Statement (.br c a b o) := by
  intro h
  have b_c := c.code_lt
  have b_a := a.isLt
  have b_b := b.isLt
  have b_o := o.isLt
  obtain ⟨wd, e⟩ : ∃ wd, wd = c.code * 2 ^ 23 + (a.toNat * 2 ^ 18 + (b.toNat * 2 ^ 13 + (o.toNat * 2 ^ 0 + 16 * 2 ^ 26))) := ⟨_, rfl⟩
  rw [show encode (.br c a b o) = wd from e.symm]
  refine decode_of_fields ?_ h
  rw [decodeFields_10 (by unfold fld; omega)]
  have f0 : fld wd 23 3 = c.code := by unfold fld; omega
  have f1 : bv wd 18 5 = a := bv_eq (by omega)
  have f2 : bv wd 13 5 = b := bv_eq (by omega)
  have f3 : bv wd 0 13 = o := bv_eq (by omega)
  simp only [decode10, f0, f1, f2, f3, BrCond.ofCode_code, Option.bind_some, and_self, reduceIte]

theorem jmp (o : BitVec 26) : Statement (.jmp o) := by
  intro h
  have b_o := o.isLt
  obtain ⟨wd, e⟩ : ∃ wd, wd = o.toNat * 2 ^ 0 + 17 * 2 ^ 26 := ⟨_, rfl⟩
  rw [show encode (.jmp o) = wd from e.symm]
  refine decode_of_fields ?_ h
  rw [decodeFields_11 (by unfold fld; omega)]
  have f0 : bv wd 0 26 = o := bv_eq (by omega)
  simp only [decode11, f0, and_self, reduceIte]

theorem call (f : Frame) (o : BitVec 24) : Statement (.call f o) := by
  intro h
  have b_f := f.code_lt
  have b_o := o.isLt
  obtain ⟨wd, e⟩ : ∃ wd, wd = f.code * 2 ^ 24 + (o.toNat * 2 ^ 0 + 18 * 2 ^ 26) := ⟨_, rfl⟩
  rw [show encode (.call f o) = wd from e.symm]
  refine decode_of_fields ?_ h
  rw [decodeFields_12 (by unfold fld; omega)]
  have f0 : fld wd 24 2 = f.code := by unfold fld; omega
  have f1 : bv wd 0 24 = o := bv_eq (by omega)
  simp only [decode12, f0, f1, Frame.ofCode_code, Option.bind_some, and_self, reduceIte]

theorem jmpr (t : SReg) : Statement (.jmpr t) := by
  intro h
  have b_t := t.isLt
  obtain ⟨wd, e⟩ : ∃ wd, wd = t.toNat * 2 ^ 16 + 19 * 2 ^ 26 := ⟨_, rfl⟩
  rw [show encode (.jmpr t) = wd from e.symm]
  refine decode_of_fields ?_ h
  rw [decodeFields_13 (by unfold fld; omega)]
  have f0 : fld wd 14 2 = 0 := by unfold fld; omega
  have f1 : fld wd 0 14 = 0 := by unfold fld; omega
  have f2 : fld wd 21 5 = 0 := by unfold fld; omega
  have f3 : bv wd 16 5 = t := bv_eq (by omega)
  simp only [decode13, f0, f1, f2, f3, and_self, reduceIte]

theorem callr (t : SReg) (f : Frame) : Statement (.callr t f) := by
  intro h
  have b_t := t.isLt
  have b_f := f.code_lt
  obtain ⟨wd, e⟩ : ∃ wd, wd = 1 * 2 ^ 14 + (t.toNat * 2 ^ 16 + (f.code * 2 ^ 12 + 19 * 2 ^ 26)) := ⟨_, rfl⟩
  rw [show encode (.callr t f) = wd from e.symm]
  refine decode_of_fields ?_ h
  rw [decodeFields_13 (by unfold fld; omega)]
  have f0 : fld wd 14 2 = 1 := by unfold fld; omega
  have f1 : fld wd 0 12 = 0 := by unfold fld; omega
  have f2 : fld wd 21 5 = 0 := by unfold fld; omega
  have f3 : bv wd 16 5 = t := bv_eq (by omega)
  have f4 : fld wd 12 2 = f.code := by unfold fld; omega
  simp only [decode13, f0, f1, f2, f3, f4, Frame.ofCode_code, Option.bind_some, and_self, reduceIte]

theorem ret : Statement .ret := by
  intro h; rfl

theorem loop (c : SReg) (o : BitVec 21) : Statement (.loop c o) := by
  intro h
  have b_c := c.isLt
  have b_o := o.isLt
  obtain ⟨wd, e⟩ : ∃ wd, wd = c.toNat * 2 ^ 21 + (o.toNat * 2 ^ 0 + 20 * 2 ^ 26) := ⟨_, rfl⟩
  rw [show encode (.loop c o) = wd from e.symm]
  refine decode_of_fields ?_ h
  rw [decodeFields_14 (by unfold fld; omega)]
  have f0 : bv wd 21 5 = c := bv_eq (by omega)
  have f1 : bv wd 0 21 = o := bv_eq (by omega)
  simp only [decode14, f0, f1, and_self, reduceIte]

theorem nop : Statement .nop := by
  intro h; rfl

theorem trap (c : BitVec 16) : Statement (.trap c) := by
  intro h
  have b_c := c.isLt
  obtain ⟨wd, e⟩ : ∃ wd, wd = 1 * 2 ^ 16 + (c.toNat * 2 ^ 0 + 21 * 2 ^ 26) := ⟨_, rfl⟩
  rw [show encode (.trap c) = wd from e.symm]
  refine decode_of_fields ?_ h
  rw [decodeFields_15 (by unfold fld; omega)]
  have f0 : fld wd 16 5 = 1 := by unfold fld; omega
  have f1 : fld wd 21 5 = 0 := by unfold fld; omega
  have f2 : bv wd 0 16 = c := bv_eq (by omega)
  simp only [decode15, f0, f1, f2, and_self, reduceIte]

theorem eret : Statement .eret := by
  intro h; rfl

theorem brk (c : BitVec 16) : Statement (.brk c) := by
  intro h
  have b_c := c.isLt
  obtain ⟨wd, e⟩ : ∃ wd, wd = 3 * 2 ^ 16 + (c.toNat * 2 ^ 0 + 21 * 2 ^ 26) := ⟨_, rfl⟩
  rw [show encode (.brk c) = wd from e.symm]
  refine decode_of_fields ?_ h
  rw [decodeFields_15 (by unfold fld; omega)]
  have f0 : fld wd 16 5 = 3 := by unfold fld; omega
  have f1 : fld wd 21 5 = 0 := by unfold fld; omega
  have f2 : bv wd 0 16 = c := bv_eq (by omega)
  simp only [decode15, f0, f1, f2, and_self, reduceIte]

theorem crd (s : SReg) (n : BitVec 16) : Statement (.crd s n) := by
  intro h
  have b_s := s.isLt
  have b_n := n.isLt
  obtain ⟨wd, e⟩ : ∃ wd, wd = s.toNat * 2 ^ 21 + (n.toNat * 2 ^ 0 + 22 * 2 ^ 26) := ⟨_, rfl⟩
  rw [show encode (.crd s n) = wd from e.symm]
  refine decode_of_fields ?_ h
  rw [decodeFields_16 (by unfold fld; omega)]
  have f0 : fld wd 16 5 = 0 := by unfold fld; omega
  have f1 : bv wd 21 5 = s := bv_eq (by omega)
  have f2 : bv wd 0 16 = n := bv_eq (by omega)
  simp only [decode16, f0, f1, f2, and_self, reduceIte]

theorem cwr (s : SReg) (n : BitVec 16) : Statement (.cwr s n) := by
  intro h
  have b_s := s.isLt
  have b_n := n.isLt
  obtain ⟨wd, e⟩ : ∃ wd, wd = s.toNat * 2 ^ 21 + (n.toNat * 2 ^ 0 + 23 * 2 ^ 26) := ⟨_, rfl⟩
  rw [show encode (.cwr s n) = wd from e.symm]
  refine decode_of_fields ?_ h
  rw [decodeFields_17 (by unfold fld; omega)]
  have f0 : fld wd 16 5 = 0 := by unfold fld; omega
  have f1 : fld wd 0 16 = n.toNat := by unfold fld; omega
  have f2 : bv wd 21 5 = s := bv_eq (by omega)
  have f3 : bv wd 0 16 = n := bv_eq (by omega)
  have o : crOwnRow n.toNat = false := by
    have h' : (crAssigned n.toNat && !crOwnRow n.toNat) = true := h
    cases ho : crOwnRow n.toNat with
    | false => rfl
    | true => rw [ho, Bool.not_true, Bool.and_false] at h'; cases h'
  have o1 : ¬ n.toNat / 4 = 256 := fun hc => by simp [crOwnRow, hc] at o
  have o2 : ¬ n.toNat / 16 = 65 := fun hc => by simp [crOwnRow, hc] at o
  simp only [decode17, f0, f1, f2, f3, reduceIte]
  split
  all_goals first
    | (rename_i hh; rw [hh] at o; exact absurd o (by decide))
    | rw [if_neg o1, if_neg o2]

theorem cwrCtxbase (s : SReg) : Statement (.cwrCtxbase s) := by
  intro h
  have b_s := s.isLt
  obtain ⟨wd, e⟩ : ∃ wd, wd = 0x309 * 2 ^ 0 + (s.toNat * 2 ^ 21 + 23 * 2 ^ 26) := ⟨_, rfl⟩
  rw [show encode (.cwrCtxbase s) = wd from e.symm]
  refine decode_of_fields ?_ h
  rw [decodeFields_17 (by unfold fld; omega)]
  have f0 : fld wd 16 5 = 0 := by unfold fld; omega
  have f1 : fld wd 0 16 = 777 := by unfold fld; omega
  have f2 : bv wd 21 5 = s := bv_eq (by omega)
  simp only [decode17, f0, f1, f2, and_self, reduceIte]

theorem cwrTimecmp (s : SReg) : Statement (.cwrTimecmp s) := by
  intro h
  have b_s := s.isLt
  obtain ⟨wd, e⟩ : ∃ wd, wd = 0x308 * 2 ^ 0 + (s.toNat * 2 ^ 21 + 23 * 2 ^ 26) := ⟨_, rfl⟩
  rw [show encode (.cwrTimecmp s) = wd from e.symm]
  refine decode_of_fields ?_ h
  rw [decodeFields_17 (by unfold fld; omega)]
  have f0 : fld wd 16 5 = 0 := by unfold fld; omega
  have f1 : fld wd 0 16 = 776 := by unfold fld; omega
  have f2 : bv wd 21 5 = s := bv_eq (by omega)
  simp only [decode17, f0, f1, f2, and_self, reduceIte]

theorem cwrPtbase (s : SReg) : Statement (.cwrPtbase s) := by
  intro h
  have b_s := s.isLt
  obtain ⟨wd, e⟩ : ∃ wd, wd = 0x306 * 2 ^ 0 + (s.toNat * 2 ^ 21 + 23 * 2 ^ 26) := ⟨_, rfl⟩
  rw [show encode (.cwrPtbase s) = wd from e.symm]
  refine decode_of_fields ?_ h
  rw [decodeFields_17 (by unfold fld; omega)]
  have f0 : fld wd 16 5 = 0 := by unfold fld; omega
  have f1 : fld wd 0 16 = 774 := by unfold fld; omega
  have f2 : bv wd 21 5 = s := bv_eq (by omega)
  simp only [decode17, f0, f1, f2, and_self, reduceIte]

theorem cwrSpillp (s : SReg) : Statement (.cwrSpillp s) := by
  intro h
  have b_s := s.isLt
  obtain ⟨wd, e⟩ : ∃ wd, wd = 0x305 * 2 ^ 0 + (s.toNat * 2 ^ 21 + 23 * 2 ^ 26) := ⟨_, rfl⟩
  rw [show encode (.cwrSpillp s) = wd from e.symm]
  refine decode_of_fields ?_ h
  rw [decodeFields_17 (by unfold fld; omega)]
  have f0 : fld wd 16 5 = 0 := by unfold fld; omega
  have f1 : fld wd 0 16 = 773 := by unfold fld; omega
  have f2 : bv wd 21 5 = s := bv_eq (by omega)
  simp only [decode17, f0, f1, f2, and_self, reduceIte]

theorem cwrSlots (s : SReg) : Statement (.cwrSlots s) := by
  intro h
  have b_s := s.isLt
  obtain ⟨wd, e⟩ : ∃ wd, wd = 0x203 * 2 ^ 0 + (s.toNat * 2 ^ 21 + 23 * 2 ^ 26) := ⟨_, rfl⟩
  rw [show encode (.cwrSlots s) = wd from e.symm]
  refine decode_of_fields ?_ h
  rw [decodeFields_17 (by unfold fld; omega)]
  have f0 : fld wd 16 5 = 0 := by unfold fld; omega
  have f1 : fld wd 0 16 = 515 := by unfold fld; omega
  have f2 : bv wd 21 5 = s := bv_eq (by omega)
  simp only [decode17, f0, f1, f2, and_self, reduceIte]

theorem cwrLend (s : SReg) : Statement (.cwrLend s) := by
  intro h
  have b_s := s.isLt
  obtain ⟨wd, e⟩ : ∃ wd, wd = 0xb * 2 ^ 0 + (s.toNat * 2 ^ 21 + 23 * 2 ^ 26) := ⟨_, rfl⟩
  rw [show encode (.cwrLend s) = wd from e.symm]
  refine decode_of_fields ?_ h
  rw [decodeFields_17 (by unfold fld; omega)]
  have f0 : fld wd 16 5 = 0 := by unfold fld; omega
  have f1 : fld wd 0 16 = 11 := by unfold fld; omega
  have f2 : bv wd 21 5 = s := bv_eq (by omega)
  simp only [decode17, f0, f1, f2, and_self, reduceIte]

theorem cwrVflags (s : SReg) : Statement (.cwrVflags s) := by
  intro h
  have b_s := s.isLt
  obtain ⟨wd, e⟩ : ∃ wd, wd = 0x8 * 2 ^ 0 + (s.toNat * 2 ^ 21 + 23 * 2 ^ 26) := ⟨_, rfl⟩
  rw [show encode (.cwrVflags s) = wd from e.symm]
  refine decode_of_fields ?_ h
  rw [decodeFields_17 (by unfold fld; omega)]
  have f0 : fld wd 16 5 = 0 := by unfold fld; omega
  have f1 : fld wd 0 16 = 8 := by unfold fld; omega
  have f2 : bv wd 21 5 = s := bv_eq (by omega)
  simp only [decode17, f0, f1, f2, and_self, reduceIte]

theorem cwrMshape (s : SReg) : Statement (.cwrMshape s) := by
  intro h
  have b_s := s.isLt
  obtain ⟨wd, e⟩ : ∃ wd, wd = 0x500 * 2 ^ 0 + (s.toNat * 2 ^ 21 + 23 * 2 ^ 26) := ⟨_, rfl⟩
  rw [show encode (.cwrMshape s) = wd from e.symm]
  refine decode_of_fields ?_ h
  rw [decodeFields_17 (by unfold fld; omega)]
  have f0 : fld wd 16 5 = 0 := by unfold fld; omega
  have f1 : fld wd 0 16 = 1280 := by unfold fld; omega
  have f2 : bv wd 21 5 = s := bv_eq (by omega)
  simp only [decode17, f0, f1, f2, and_self, reduceIte]

theorem cwrBndsize (s : SReg) : Statement (.cwrBndsize s) := by
  intro h
  have b_s := s.isLt
  obtain ⟨wd, e⟩ : ∃ wd, wd = 0x502 * 2 ^ 0 + (s.toNat * 2 ^ 21 + 23 * 2 ^ 26) := ⟨_, rfl⟩
  rw [show encode (.cwrBndsize s) = wd from e.symm]
  refine decode_of_fields ?_ h
  rw [decodeFields_17 (by unfold fld; omega)]
  have f0 : fld wd 16 5 = 0 := by unfold fld; omega
  have f1 : fld wd 0 16 = 1282 := by unfold fld; omega
  have f2 : bv wd 21 5 = s := bv_eq (by omega)
  simp only [decode17, f0, f1, f2, and_self, reduceIte]

theorem cwrBstat (s : SReg) : Statement (.cwrBstat s) := by
  intro h
  have b_s := s.isLt
  obtain ⟨wd, e⟩ : ∃ wd, wd = 0x503 * 2 ^ 0 + (s.toNat * 2 ^ 21 + 23 * 2 ^ 26) := ⟨_, rfl⟩
  rw [show encode (.cwrBstat s) = wd from e.symm]
  refine decode_of_fields ?_ h
  rw [decodeFields_17 (by unfold fld; omega)]
  have f0 : fld wd 16 5 = 0 := by unfold fld; omega
  have f1 : fld wd 0 16 = 1283 := by unfold fld; omega
  have f2 : bv wd 21 5 = s := bv_eq (by omega)
  simp only [decode17, f0, f1, f2, and_self, reduceIte]

theorem cwrTraceRegs (s : SReg) (n : BitVec 2) : Statement (.cwrTraceRegs s n) := by
  intro h
  have b_s := s.isLt
  have b_n := n.isLt
  obtain ⟨wd, e⟩ : ∃ wd, wd = 1024 * 2 ^ 0 + (s.toNat * 2 ^ 21 + (n.toNat * 2 ^ 0 + 23 * 2 ^ 26)) := ⟨_, rfl⟩
  rw [show encode (.cwrTraceRegs s n) = wd from e.symm]
  refine decode_of_fields ?_ h
  rw [decodeFields_17 (by unfold fld; omega)]
  have f0 : fld wd 16 5 = 0 := by unfold fld; omega
  have f1 : fld wd 0 16 = 1024 + n.toNat := by unfold fld; omega
  have f2 : bv wd 21 5 = s := bv_eq (by omega)
  have f3 : bv wd 0 2 = n := bv_eq (by omega)
  simp only [decode17, f0, f1, f2, f3, reduceIte]
  split <;> first | omega | skip
  rw [if_pos (by omega)]

theorem cwrWatchpoint (s : SReg) (n : BitVec 4) : Statement (.cwrWatchpoint s n) := by
  intro h
  have b_s := s.isLt
  have b_n : n.toNat < 12 := of_decide_eq_true h
  obtain ⟨wd, e⟩ : ∃ wd, wd = 1040 * 2 ^ 0 + (s.toNat * 2 ^ 21 + (n.toNat * 2 ^ 0 + 23 * 2 ^ 26)) := ⟨_, rfl⟩
  rw [show encode (.cwrWatchpoint s n) = wd from e.symm]
  refine decode_of_fields ?_ h
  rw [decodeFields_17 (by unfold fld; omega)]
  have f0 : fld wd 16 5 = 0 := by unfold fld; omega
  have f1 : fld wd 0 16 = 1040 + n.toNat := by unfold fld; omega
  have f2 : bv wd 21 5 = s := bv_eq (by omega)
  have f3 : bv wd 0 4 = n := bv_eq (by omega)
  simp only [decode17, f0, f1, f2, f3, reduceIte]
  split <;> first | omega | skip
  rw [if_neg (by omega), if_pos (by omega)]

theorem vconf (d a : SReg) : Statement (.vconf d a) := by
  intro h
  have b_d := d.isLt
  have b_a := a.isLt
  obtain ⟨wd, e⟩ : ∃ wd, wd = d.toNat * 2 ^ 21 + (a.toNat * 2 ^ 16 + 24 * 2 ^ 26) := ⟨_, rfl⟩
  rw [show encode (.vconf d a) = wd from e.symm]
  refine decode_of_fields ?_ h
  rw [decodeFields_18 (by unfold fld; omega)]
  have f0 : fld wd 6 5 = 0 := by unfold fld; omega
  have f1 : fld wd 11 5 = 0 := by unfold fld; omega
  have f2 : fld wd 0 6 = 0 := by unfold fld; omega
  have f3 : bv wd 21 5 = d := bv_eq (by omega)
  have f4 : bv wd 16 5 = a := bv_eq (by omega)
  simp only [decode18, f0, f1, f2, f3, f4, and_self, reduceIte]

theorem vsetl (d a b : SReg) : Statement (.vsetl d a b) := by
  intro h
  have b_d := d.isLt
  have b_a := a.isLt
  have b_b := b.isLt
  obtain ⟨wd, e⟩ : ∃ wd, wd = 1 * 2 ^ 6 + (d.toNat * 2 ^ 21 + (a.toNat * 2 ^ 16 + (b.toNat * 2 ^ 11 + 24 * 2 ^ 26))) := ⟨_, rfl⟩
  rw [show encode (.vsetl d a b) = wd from e.symm]
  refine decode_of_fields ?_ h
  rw [decodeFields_18 (by unfold fld; omega)]
  have f0 : fld wd 6 5 = 1 := by unfold fld; omega
  have f1 : fld wd 0 6 = 0 := by unfold fld; omega
  have f2 : bv wd 21 5 = d := bv_eq (by omega)
  have f3 : bv wd 16 5 = a := bv_eq (by omega)
  have f4 : bv wd 11 5 = b := bv_eq (by omega)
  simp only [decode18, f0, f1, f2, f3, f4, and_self, reduceIte]

theorem part (d a : SReg) : Statement (.part d a) := by
  intro h
  have b_d := d.isLt
  have b_a := a.isLt
  obtain ⟨wd, e⟩ : ∃ wd, wd = 2 * 2 ^ 6 + (d.toNat * 2 ^ 21 + (a.toNat * 2 ^ 16 + 24 * 2 ^ 26)) := ⟨_, rfl⟩
  rw [show encode (.part d a) = wd from e.symm]
  refine decode_of_fields ?_ h
  rw [decodeFields_18 (by unfold fld; omega)]
  have f0 : fld wd 6 5 = 2 := by unfold fld; omega
  have f1 : fld wd 11 5 = 0 := by unfold fld; omega
  have f2 : fld wd 0 6 = 0 := by unfold fld; omega
  have f3 : bv wd 21 5 = d := bv_eq (by omega)
  have f4 : bv wd 16 5 = a := bv_eq (by omega)
  simp only [decode18, f0, f1, f2, f3, f4, and_self, reduceIte]

theorem qset (a : SReg) (q : QReg) : Statement (.qset a q) := by
  intro h
  have b_a := a.isLt
  have b_q := q.isLt
  obtain ⟨wd, e⟩ : ∃ wd, wd = a.toNat * 2 ^ 21 + (q.toNat * 2 ^ 0 + 25 * 2 ^ 26) := ⟨_, rfl⟩
  rw [show encode (.qset a q) = wd from e.symm]
  refine decode_of_fields ?_ h
  rw [decodeFields_19 (by unfold fld; omega)]
  have f0 : fld wd 4 17 = 0 := by unfold fld; omega
  have f1 : bv wd 21 5 = a := bv_eq (by omega)
  have f2 : bv wd 0 4 = q := bv_eq (by omega)
  simp only [decode19, f0, f1, f2, and_self, reduceIte]

theorem vld (v : VReg) (q : QReg) (c : Bool) (p : PReg) (o : Bool) : Statement (.vld v q c p o) := by
  intro h
  have b_v := v.isLt
  have b_q := q.isLt
  have b_c := c.toNat_lt
  have b_p := p.isLt
  have b_o := o.toNat_lt
  obtain ⟨wd, e⟩ : ∃ wd, wd = v.toNat * 2 ^ 20 + (q.toNat * 2 ^ 16 + (c.toNat * 2 ^ 9 + (p.toNat * 2 ^ 6 + (o.toNat * 2 ^ 2 + 26 * 2 ^ 26)))) := ⟨_, rfl⟩
  rw [show encode (.vld v q c p o) = wd from e.symm]
  refine decode_of_fields ?_ h
  rw [decodeFields_1A (by unfold fld; omega)]
  have f0 : fld wd 3 3 = 0 := by unfold fld; omega
  have f1 : fld wd 0 2 = 0 := by unfold fld; omega
  have f2 : fld wd 10 6 = 0 := by unfold fld; omega
  have f3 : bv wd 20 6 = v := bv_eq (by omega)
  have f4 : bv wd 16 4 = q := bv_eq (by omega)
  have f5 : bit wd 9 = c := bit_eq (by omega)
  have f6 : bv wd 6 3 = p := bv_eq (by omega)
  have f7 : bit wd 2 = o := bit_eq (by omega)
  simp only [decode1A, f0, f1, f2, f3, f4, f5, f6, f7, and_self, reduceIte]

theorem vldx (v : VReg) (q : QReg) (i : VReg) (c : Bool) (p : PReg) (o : Bool) : Statement (.vldx v q i c p o) := by
  intro h
  have b_v := v.isLt
  have b_q := q.isLt
  have b_i := i.isLt
  have b_c := c.toNat_lt
  have b_p := p.isLt
  have b_o := o.toNat_lt
  obtain ⟨wd, e⟩ : ∃ wd, wd = 1 * 2 ^ 3 + (v.toNat * 2 ^ 20 + (q.toNat * 2 ^ 16 + (i.toNat * 2 ^ 10 + (c.toNat * 2 ^ 9 + (p.toNat * 2 ^ 6 + (o.toNat * 2 ^ 2 + 26 * 2 ^ 26)))))) := ⟨_, rfl⟩
  rw [show encode (.vldx v q i c p o) = wd from e.symm]
  refine decode_of_fields ?_ h
  rw [decodeFields_1A (by unfold fld; omega)]
  have f0 : fld wd 3 3 = 1 := by unfold fld; omega
  have f1 : fld wd 0 2 = 0 := by unfold fld; omega
  have f2 : bv wd 20 6 = v := bv_eq (by omega)
  have f3 : bv wd 16 4 = q := bv_eq (by omega)
  have f4 : bv wd 10 6 = i := bv_eq (by omega)
  have f5 : bit wd 9 = c := bit_eq (by omega)
  have f6 : bv wd 6 3 = p := bv_eq (by omega)
  have f7 : bit wd 2 = o := bit_eq (by omega)
  simp only [decode1A, f0, f1, f2, f3, f4, f5, f6, f7, and_self, reduceIte]

theorem vldff (v : VReg) (q : QReg) (c : Bool) (p : PReg) : Statement (.vldff v q c p) := by
  intro h
  have b_v := v.isLt
  have b_q := q.isLt
  have b_c := c.toNat_lt
  have b_p := p.isLt
  obtain ⟨wd, e⟩ : ∃ wd, wd = 2 * 2 ^ 3 + (v.toNat * 2 ^ 20 + (q.toNat * 2 ^ 16 + (c.toNat * 2 ^ 9 + (p.toNat * 2 ^ 6 + 26 * 2 ^ 26)))) := ⟨_, rfl⟩
  rw [show encode (.vldff v q c p) = wd from e.symm]
  refine decode_of_fields ?_ h
  rw [decodeFields_1A (by unfold fld; omega)]
  have f0 : fld wd 3 3 = 2 := by unfold fld; omega
  have f1 : fld wd 0 3 = 0 := by unfold fld; omega
  have f2 : fld wd 10 6 = 0 := by unfold fld; omega
  have f3 : bv wd 20 6 = v := bv_eq (by omega)
  have f4 : bv wd 16 4 = q := bv_eq (by omega)
  have f5 : bit wd 9 = c := bit_eq (by omega)
  have f6 : bv wd 6 3 = p := bv_eq (by omega)
  simp only [decode1A, f0, f1, f2, f3, f4, f5, f6, and_self, reduceIte]

theorem vst (v : VReg) (q : QReg) (c : Bool) (p : PReg) (o : Bool) : Statement (.vst v q c p o) := by
  intro h
  have b_v := v.isLt
  have b_q := q.isLt
  have b_c := c.toNat_lt
  have b_p := p.isLt
  have b_o := o.toNat_lt
  obtain ⟨wd, e⟩ : ∃ wd, wd = v.toNat * 2 ^ 20 + (q.toNat * 2 ^ 16 + (c.toNat * 2 ^ 9 + (p.toNat * 2 ^ 6 + (o.toNat * 2 ^ 2 + 27 * 2 ^ 26)))) := ⟨_, rfl⟩
  rw [show encode (.vst v q c p o) = wd from e.symm]
  refine decode_of_fields ?_ h
  rw [decodeFields_1B (by unfold fld; omega)]
  have f0 : fld wd 3 3 = 0 := by unfold fld; omega
  have f1 : fld wd 0 2 = 0 := by unfold fld; omega
  have f2 : fld wd 10 6 = 0 := by unfold fld; omega
  have f3 : bv wd 20 6 = v := bv_eq (by omega)
  have f4 : bv wd 16 4 = q := bv_eq (by omega)
  have f5 : bit wd 9 = c := bit_eq (by omega)
  have f6 : bv wd 6 3 = p := bv_eq (by omega)
  have f7 : bit wd 2 = o := bit_eq (by omega)
  simp only [decode1B, f0, f1, f2, f3, f4, f5, f6, f7, and_self, reduceIte]

theorem vstx (v : VReg) (q : QReg) (i : VReg) (c : Bool) (p : PReg) (o : Bool) : Statement (.vstx v q i c p o) := by
  intro h
  have b_v := v.isLt
  have b_q := q.isLt
  have b_i := i.isLt
  have b_c := c.toNat_lt
  have b_p := p.isLt
  have b_o := o.toNat_lt
  obtain ⟨wd, e⟩ : ∃ wd, wd = 1 * 2 ^ 3 + (v.toNat * 2 ^ 20 + (q.toNat * 2 ^ 16 + (i.toNat * 2 ^ 10 + (c.toNat * 2 ^ 9 + (p.toNat * 2 ^ 6 + (o.toNat * 2 ^ 2 + 27 * 2 ^ 26)))))) := ⟨_, rfl⟩
  rw [show encode (.vstx v q i c p o) = wd from e.symm]
  refine decode_of_fields ?_ h
  rw [decodeFields_1B (by unfold fld; omega)]
  have f0 : fld wd 3 3 = 1 := by unfold fld; omega
  have f1 : fld wd 0 2 = 0 := by unfold fld; omega
  have f2 : bv wd 20 6 = v := bv_eq (by omega)
  have f3 : bv wd 16 4 = q := bv_eq (by omega)
  have f4 : bv wd 10 6 = i := bv_eq (by omega)
  have f5 : bit wd 9 = c := bit_eq (by omega)
  have f6 : bv wd 6 3 = p := bv_eq (by omega)
  have f7 : bit wd 2 = o := bit_eq (by omega)
  simp only [decode1B, f0, f1, f2, f3, f4, f5, f6, f7, and_self, reduceIte]

theorem vadd (d a b : VReg) (m n : Bool) (p : PReg) : Statement (.vadd d a b m n p) := by
  intro h
  have b_d := d.isLt
  have b_a := a.isLt
  have b_b := b.isLt
  have b_m := m.toNat_lt
  have b_n := n.toNat_lt
  have b_p := p.isLt
  obtain ⟨wd, e⟩ : ∃ wd, wd = d.toNat * 2 ^ 20 + (a.toNat * 2 ^ 14 + (b.toNat * 2 ^ 8 + (m.toNat * 2 ^ 7 + (n.toNat * 2 ^ 6 + (p.toNat * 2 ^ 3 + 28 * 2 ^ 26))))) := ⟨_, rfl⟩
  rw [show encode (.vadd d a b m n p) = wd from e.symm]
  refine decode_of_fields ?_ h
  rw [decodeFields_1C (by unfold fld; omega)]
  have f0 : fld wd 0 3 = 0 := by unfold fld; omega
  have f1 : bv wd 20 6 = d := bv_eq (by omega)
  have f2 : bv wd 14 6 = a := bv_eq (by omega)
  have f3 : bv wd 8 6 = b := bv_eq (by omega)
  have f4 : bit wd 7 = m := bit_eq (by omega)
  have f5 : bit wd 6 = n := bit_eq (by omega)
  have f6 : bv wd 3 3 = p := bv_eq (by omega)
  simp only [decode1C, f0, f1, f2, f3, f4, f5, f6, and_self, reduceIte]

theorem vsub (d a b : VReg) (m n : Bool) (p : PReg) : Statement (.vsub d a b m n p) := by
  intro h
  have b_d := d.isLt
  have b_a := a.isLt
  have b_b := b.isLt
  have b_m := m.toNat_lt
  have b_n := n.toNat_lt
  have b_p := p.isLt
  obtain ⟨wd, e⟩ : ∃ wd, wd = 1 * 2 ^ 0 + (d.toNat * 2 ^ 20 + (a.toNat * 2 ^ 14 + (b.toNat * 2 ^ 8 + (m.toNat * 2 ^ 7 + (n.toNat * 2 ^ 6 + (p.toNat * 2 ^ 3 + 28 * 2 ^ 26)))))) := ⟨_, rfl⟩
  rw [show encode (.vsub d a b m n p) = wd from e.symm]
  refine decode_of_fields ?_ h
  rw [decodeFields_1C (by unfold fld; omega)]
  have f0 : fld wd 0 3 = 1 := by unfold fld; omega
  have f1 : bv wd 20 6 = d := bv_eq (by omega)
  have f2 : bv wd 14 6 = a := bv_eq (by omega)
  have f3 : bv wd 8 6 = b := bv_eq (by omega)
  have f4 : bit wd 7 = m := bit_eq (by omega)
  have f5 : bit wd 6 = n := bit_eq (by omega)
  have f6 : bv wd 3 3 = p := bv_eq (by omega)
  simp only [decode1C, f0, f1, f2, f3, f4, f5, f6, and_self, reduceIte]

theorem vmul (d a b : VReg) (m n : Bool) (p : PReg) : Statement (.vmul d a b m n p) := by
  intro h
  have b_d := d.isLt
  have b_a := a.isLt
  have b_b := b.isLt
  have b_m := m.toNat_lt
  have b_n := n.toNat_lt
  have b_p := p.isLt
  obtain ⟨wd, e⟩ : ∃ wd, wd = 2 * 2 ^ 0 + (d.toNat * 2 ^ 20 + (a.toNat * 2 ^ 14 + (b.toNat * 2 ^ 8 + (m.toNat * 2 ^ 7 + (n.toNat * 2 ^ 6 + (p.toNat * 2 ^ 3 + 28 * 2 ^ 26)))))) := ⟨_, rfl⟩
  rw [show encode (.vmul d a b m n p) = wd from e.symm]
  refine decode_of_fields ?_ h
  rw [decodeFields_1C (by unfold fld; omega)]
  have f0 : fld wd 0 3 = 2 := by unfold fld; omega
  have f1 : bv wd 20 6 = d := bv_eq (by omega)
  have f2 : bv wd 14 6 = a := bv_eq (by omega)
  have f3 : bv wd 8 6 = b := bv_eq (by omega)
  have f4 : bit wd 7 = m := bit_eq (by omega)
  have f5 : bit wd 6 = n := bit_eq (by omega)
  have f6 : bv wd 3 3 = p := bv_eq (by omega)
  simp only [decode1C, f0, f1, f2, f3, f4, f5, f6, and_self, reduceIte]

theorem vdiv (d a b : VReg) (m n : Bool) (p : PReg) : Statement (.vdiv d a b m n p) := by
  intro h
  have b_d := d.isLt
  have b_a := a.isLt
  have b_b := b.isLt
  have b_m := m.toNat_lt
  have b_n := n.toNat_lt
  have b_p := p.isLt
  obtain ⟨wd, e⟩ : ∃ wd, wd = 3 * 2 ^ 0 + (d.toNat * 2 ^ 20 + (a.toNat * 2 ^ 14 + (b.toNat * 2 ^ 8 + (m.toNat * 2 ^ 7 + (n.toNat * 2 ^ 6 + (p.toNat * 2 ^ 3 + 28 * 2 ^ 26)))))) := ⟨_, rfl⟩
  rw [show encode (.vdiv d a b m n p) = wd from e.symm]
  refine decode_of_fields ?_ h
  rw [decodeFields_1C (by unfold fld; omega)]
  have f0 : fld wd 0 3 = 3 := by unfold fld; omega
  have f1 : bv wd 20 6 = d := bv_eq (by omega)
  have f2 : bv wd 14 6 = a := bv_eq (by omega)
  have f3 : bv wd 8 6 = b := bv_eq (by omega)
  have f4 : bit wd 7 = m := bit_eq (by omega)
  have f5 : bit wd 6 = n := bit_eq (by omega)
  have f6 : bv wd 3 3 = p := bv_eq (by omega)
  simp only [decode1C, f0, f1, f2, f3, f4, f5, f6, and_self, reduceIte]

theorem vfma (d a b : VReg) (m n : Bool) (p : PReg) : Statement (.vfma d a b m n p) := by
  intro h
  have b_d := d.isLt
  have b_a := a.isLt
  have b_b := b.isLt
  have b_m := m.toNat_lt
  have b_n := n.toNat_lt
  have b_p := p.isLt
  obtain ⟨wd, e⟩ : ∃ wd, wd = 4 * 2 ^ 0 + (d.toNat * 2 ^ 20 + (a.toNat * 2 ^ 14 + (b.toNat * 2 ^ 8 + (m.toNat * 2 ^ 7 + (n.toNat * 2 ^ 6 + (p.toNat * 2 ^ 3 + 28 * 2 ^ 26)))))) := ⟨_, rfl⟩
  rw [show encode (.vfma d a b m n p) = wd from e.symm]
  refine decode_of_fields ?_ h
  rw [decodeFields_1C (by unfold fld; omega)]
  have f0 : fld wd 0 3 = 4 := by unfold fld; omega
  have f1 : bv wd 20 6 = d := bv_eq (by omega)
  have f2 : bv wd 14 6 = a := bv_eq (by omega)
  have f3 : bv wd 8 6 = b := bv_eq (by omega)
  have f4 : bit wd 7 = m := bit_eq (by omega)
  have f5 : bit wd 6 = n := bit_eq (by omega)
  have f6 : bv wd 3 3 = p := bv_eq (by omega)
  simp only [decode1C, f0, f1, f2, f3, f4, f5, f6, and_self, reduceIte]

theorem vmin (d a b : VReg) (m n : Bool) (p : PReg) : Statement (.vmin d a b m n p) := by
  intro h
  have b_d := d.isLt
  have b_a := a.isLt
  have b_b := b.isLt
  have b_m := m.toNat_lt
  have b_n := n.toNat_lt
  have b_p := p.isLt
  obtain ⟨wd, e⟩ : ∃ wd, wd = 5 * 2 ^ 0 + (d.toNat * 2 ^ 20 + (a.toNat * 2 ^ 14 + (b.toNat * 2 ^ 8 + (m.toNat * 2 ^ 7 + (n.toNat * 2 ^ 6 + (p.toNat * 2 ^ 3 + 28 * 2 ^ 26)))))) := ⟨_, rfl⟩
  rw [show encode (.vmin d a b m n p) = wd from e.symm]
  refine decode_of_fields ?_ h
  rw [decodeFields_1C (by unfold fld; omega)]
  have f0 : fld wd 0 3 = 5 := by unfold fld; omega
  have f1 : bv wd 20 6 = d := bv_eq (by omega)
  have f2 : bv wd 14 6 = a := bv_eq (by omega)
  have f3 : bv wd 8 6 = b := bv_eq (by omega)
  have f4 : bit wd 7 = m := bit_eq (by omega)
  have f5 : bit wd 6 = n := bit_eq (by omega)
  have f6 : bv wd 3 3 = p := bv_eq (by omega)
  simp only [decode1C, f0, f1, f2, f3, f4, f5, f6, and_self, reduceIte]

theorem vmax (d a b : VReg) (m n : Bool) (p : PReg) : Statement (.vmax d a b m n p) := by
  intro h
  have b_d := d.isLt
  have b_a := a.isLt
  have b_b := b.isLt
  have b_m := m.toNat_lt
  have b_n := n.toNat_lt
  have b_p := p.isLt
  obtain ⟨wd, e⟩ : ∃ wd, wd = 6 * 2 ^ 0 + (d.toNat * 2 ^ 20 + (a.toNat * 2 ^ 14 + (b.toNat * 2 ^ 8 + (m.toNat * 2 ^ 7 + (n.toNat * 2 ^ 6 + (p.toNat * 2 ^ 3 + 28 * 2 ^ 26)))))) := ⟨_, rfl⟩
  rw [show encode (.vmax d a b m n p) = wd from e.symm]
  refine decode_of_fields ?_ h
  rw [decodeFields_1C (by unfold fld; omega)]
  have f0 : fld wd 0 3 = 6 := by unfold fld; omega
  have f1 : bv wd 20 6 = d := bv_eq (by omega)
  have f2 : bv wd 14 6 = a := bv_eq (by omega)
  have f3 : bv wd 8 6 = b := bv_eq (by omega)
  have f4 : bit wd 7 = m := bit_eq (by omega)
  have f5 : bit wd 6 = n := bit_eq (by omega)
  have f6 : bv wd 3 3 = p := bv_eq (by omega)
  simp only [decode1C, f0, f1, f2, f3, f4, f5, f6, and_self, reduceIte]

theorem vdivU (d a b : VReg) (m n : Bool) (p : PReg) : Statement (.vdivU d a b m n p) := by
  intro h
  have b_d := d.isLt
  have b_a := a.isLt
  have b_b := b.isLt
  have b_m := m.toNat_lt
  have b_n := n.toNat_lt
  have b_p := p.isLt
  obtain ⟨wd, e⟩ : ∃ wd, wd = 7 * 2 ^ 0 + (d.toNat * 2 ^ 20 + (a.toNat * 2 ^ 14 + (b.toNat * 2 ^ 8 + (m.toNat * 2 ^ 7 + (n.toNat * 2 ^ 6 + (p.toNat * 2 ^ 3 + 28 * 2 ^ 26)))))) := ⟨_, rfl⟩
  rw [show encode (.vdivU d a b m n p) = wd from e.symm]
  refine decode_of_fields ?_ h
  rw [decodeFields_1C (by unfold fld; omega)]
  have f0 : fld wd 0 3 = 7 := by unfold fld; omega
  have f1 : bv wd 20 6 = d := bv_eq (by omega)
  have f2 : bv wd 14 6 = a := bv_eq (by omega)
  have f3 : bv wd 8 6 = b := bv_eq (by omega)
  have f4 : bit wd 7 = m := bit_eq (by omega)
  have f5 : bit wd 6 = n := bit_eq (by omega)
  have f6 : bv wd 3 3 = p := bv_eq (by omega)
  simp only [decode1C, f0, f1, f2, f3, f4, f5, f6, and_self, reduceIte]

theorem vand (d a b : VReg) (m n : Bool) (p : PReg) : Statement (.vand d a b m n p) := by
  intro h
  have b_d := d.isLt
  have b_a := a.isLt
  have b_b := b.isLt
  have b_m := m.toNat_lt
  have b_n := n.toNat_lt
  have b_p := p.isLt
  obtain ⟨wd, e⟩ : ∃ wd, wd = d.toNat * 2 ^ 20 + (a.toNat * 2 ^ 14 + (b.toNat * 2 ^ 8 + (m.toNat * 2 ^ 7 + (n.toNat * 2 ^ 6 + (p.toNat * 2 ^ 3 + 29 * 2 ^ 26))))) := ⟨_, rfl⟩
  rw [show encode (.vand d a b m n p) = wd from e.symm]
  refine decode_of_fields ?_ h
  rw [decodeFields_1D (by unfold fld; omega)]
  have f0 : fld wd 0 3 = 0 := by unfold fld; omega
  have f1 : bv wd 20 6 = d := bv_eq (by omega)
  have f2 : bv wd 14 6 = a := bv_eq (by omega)
  have f3 : bv wd 8 6 = b := bv_eq (by omega)
  have f4 : bit wd 7 = m := bit_eq (by omega)
  have f5 : bit wd 6 = n := bit_eq (by omega)
  have f6 : bv wd 3 3 = p := bv_eq (by omega)
  simp only [decode1D, f0, f1, f2, f3, f4, f5, f6, and_self, reduceIte]

theorem vor (d a b : VReg) (m n : Bool) (p : PReg) : Statement (.vor d a b m n p) := by
  intro h
  have b_d := d.isLt
  have b_a := a.isLt
  have b_b := b.isLt
  have b_m := m.toNat_lt
  have b_n := n.toNat_lt
  have b_p := p.isLt
  obtain ⟨wd, e⟩ : ∃ wd, wd = 1 * 2 ^ 0 + (d.toNat * 2 ^ 20 + (a.toNat * 2 ^ 14 + (b.toNat * 2 ^ 8 + (m.toNat * 2 ^ 7 + (n.toNat * 2 ^ 6 + (p.toNat * 2 ^ 3 + 29 * 2 ^ 26)))))) := ⟨_, rfl⟩
  rw [show encode (.vor d a b m n p) = wd from e.symm]
  refine decode_of_fields ?_ h
  rw [decodeFields_1D (by unfold fld; omega)]
  have f0 : fld wd 0 3 = 1 := by unfold fld; omega
  have f1 : bv wd 20 6 = d := bv_eq (by omega)
  have f2 : bv wd 14 6 = a := bv_eq (by omega)
  have f3 : bv wd 8 6 = b := bv_eq (by omega)
  have f4 : bit wd 7 = m := bit_eq (by omega)
  have f5 : bit wd 6 = n := bit_eq (by omega)
  have f6 : bv wd 3 3 = p := bv_eq (by omega)
  simp only [decode1D, f0, f1, f2, f3, f4, f5, f6, and_self, reduceIte]

theorem vxor (d a b : VReg) (m n : Bool) (p : PReg) : Statement (.vxor d a b m n p) := by
  intro h
  have b_d := d.isLt
  have b_a := a.isLt
  have b_b := b.isLt
  have b_m := m.toNat_lt
  have b_n := n.toNat_lt
  have b_p := p.isLt
  obtain ⟨wd, e⟩ : ∃ wd, wd = 2 * 2 ^ 0 + (d.toNat * 2 ^ 20 + (a.toNat * 2 ^ 14 + (b.toNat * 2 ^ 8 + (m.toNat * 2 ^ 7 + (n.toNat * 2 ^ 6 + (p.toNat * 2 ^ 3 + 29 * 2 ^ 26)))))) := ⟨_, rfl⟩
  rw [show encode (.vxor d a b m n p) = wd from e.symm]
  refine decode_of_fields ?_ h
  rw [decodeFields_1D (by unfold fld; omega)]
  have f0 : fld wd 0 3 = 2 := by unfold fld; omega
  have f1 : bv wd 20 6 = d := bv_eq (by omega)
  have f2 : bv wd 14 6 = a := bv_eq (by omega)
  have f3 : bv wd 8 6 = b := bv_eq (by omega)
  have f4 : bit wd 7 = m := bit_eq (by omega)
  have f5 : bit wd 6 = n := bit_eq (by omega)
  have f6 : bv wd 3 3 = p := bv_eq (by omega)
  simp only [decode1D, f0, f1, f2, f3, f4, f5, f6, and_self, reduceIte]

theorem vshl (d a b : VReg) (m n : Bool) (p : PReg) : Statement (.vshl d a b m n p) := by
  intro h
  have b_d := d.isLt
  have b_a := a.isLt
  have b_b := b.isLt
  have b_m := m.toNat_lt
  have b_n := n.toNat_lt
  have b_p := p.isLt
  obtain ⟨wd, e⟩ : ∃ wd, wd = 3 * 2 ^ 0 + (d.toNat * 2 ^ 20 + (a.toNat * 2 ^ 14 + (b.toNat * 2 ^ 8 + (m.toNat * 2 ^ 7 + (n.toNat * 2 ^ 6 + (p.toNat * 2 ^ 3 + 29 * 2 ^ 26)))))) := ⟨_, rfl⟩
  rw [show encode (.vshl d a b m n p) = wd from e.symm]
  refine decode_of_fields ?_ h
  rw [decodeFields_1D (by unfold fld; omega)]
  have f0 : fld wd 0 3 = 3 := by unfold fld; omega
  have f1 : bv wd 20 6 = d := bv_eq (by omega)
  have f2 : bv wd 14 6 = a := bv_eq (by omega)
  have f3 : bv wd 8 6 = b := bv_eq (by omega)
  have f4 : bit wd 7 = m := bit_eq (by omega)
  have f5 : bit wd 6 = n := bit_eq (by omega)
  have f6 : bv wd 3 3 = p := bv_eq (by omega)
  simp only [decode1D, f0, f1, f2, f3, f4, f5, f6, and_self, reduceIte]

theorem vshr (d a b : VReg) (m n : Bool) (p : PReg) : Statement (.vshr d a b m n p) := by
  intro h
  have b_d := d.isLt
  have b_a := a.isLt
  have b_b := b.isLt
  have b_m := m.toNat_lt
  have b_n := n.toNat_lt
  have b_p := p.isLt
  obtain ⟨wd, e⟩ : ∃ wd, wd = 4 * 2 ^ 0 + (d.toNat * 2 ^ 20 + (a.toNat * 2 ^ 14 + (b.toNat * 2 ^ 8 + (m.toNat * 2 ^ 7 + (n.toNat * 2 ^ 6 + (p.toNat * 2 ^ 3 + 29 * 2 ^ 26)))))) := ⟨_, rfl⟩
  rw [show encode (.vshr d a b m n p) = wd from e.symm]
  refine decode_of_fields ?_ h
  rw [decodeFields_1D (by unfold fld; omega)]
  have f0 : fld wd 0 3 = 4 := by unfold fld; omega
  have f1 : bv wd 20 6 = d := bv_eq (by omega)
  have f2 : bv wd 14 6 = a := bv_eq (by omega)
  have f3 : bv wd 8 6 = b := bv_eq (by omega)
  have f4 : bit wd 7 = m := bit_eq (by omega)
  have f5 : bit wd 6 = n := bit_eq (by omega)
  have f6 : bv wd 3 3 = p := bv_eq (by omega)
  simp only [decode1D, f0, f1, f2, f3, f4, f5, f6, and_self, reduceIte]

theorem vsel (d a b : VReg) (m n : Bool) (p : PReg) : Statement (.vsel d a b m n p) := by
  intro h
  have b_d := d.isLt
  have b_a := a.isLt
  have b_b := b.isLt
  have b_m := m.toNat_lt
  have b_n := n.toNat_lt
  have b_p := p.isLt
  obtain ⟨wd, e⟩ : ∃ wd, wd = 5 * 2 ^ 0 + (d.toNat * 2 ^ 20 + (a.toNat * 2 ^ 14 + (b.toNat * 2 ^ 8 + (m.toNat * 2 ^ 7 + (n.toNat * 2 ^ 6 + (p.toNat * 2 ^ 3 + 29 * 2 ^ 26)))))) := ⟨_, rfl⟩
  rw [show encode (.vsel d a b m n p) = wd from e.symm]
  refine decode_of_fields ?_ h
  rw [decodeFields_1D (by unfold fld; omega)]
  have f0 : fld wd 0 3 = 5 := by unfold fld; omega
  have f1 : bv wd 20 6 = d := bv_eq (by omega)
  have f2 : bv wd 14 6 = a := bv_eq (by omega)
  have f3 : bv wd 8 6 = b := bv_eq (by omega)
  have f4 : bit wd 7 = m := bit_eq (by omega)
  have f5 : bit wd 6 = n := bit_eq (by omega)
  have f6 : bv wd 3 3 = p := bv_eq (by omega)
  simp only [decode1D, f0, f1, f2, f3, f4, f5, f6, and_self, reduceIte]

theorem vshrU (d a b : VReg) (m n : Bool) (p : PReg) : Statement (.vshrU d a b m n p) := by
  intro h
  have b_d := d.isLt
  have b_a := a.isLt
  have b_b := b.isLt
  have b_m := m.toNat_lt
  have b_n := n.toNat_lt
  have b_p := p.isLt
  obtain ⟨wd, e⟩ : ∃ wd, wd = 6 * 2 ^ 0 + (d.toNat * 2 ^ 20 + (a.toNat * 2 ^ 14 + (b.toNat * 2 ^ 8 + (m.toNat * 2 ^ 7 + (n.toNat * 2 ^ 6 + (p.toNat * 2 ^ 3 + 29 * 2 ^ 26)))))) := ⟨_, rfl⟩
  rw [show encode (.vshrU d a b m n p) = wd from e.symm]
  refine decode_of_fields ?_ h
  rw [decodeFields_1D (by unfold fld; omega)]
  have f0 : fld wd 0 3 = 6 := by unfold fld; omega
  have f1 : bv wd 20 6 = d := bv_eq (by omega)
  have f2 : bv wd 14 6 = a := bv_eq (by omega)
  have f3 : bv wd 8 6 = b := bv_eq (by omega)
  have f4 : bit wd 7 = m := bit_eq (by omega)
  have f5 : bit wd 6 = n := bit_eq (by omega)
  have f6 : bv wd 3 3 = p := bv_eq (by omega)
  simp only [decode1D, f0, f1, f2, f3, f4, f5, f6, and_self, reduceIte]

theorem vabs (d a : VReg) (m : Bool) (p : PReg) : Statement (.vabs d a m p) := by
  intro h
  have b_d := d.isLt
  have b_a := a.isLt
  have b_m := m.toNat_lt
  have b_p := p.isLt
  obtain ⟨wd, e⟩ : ∃ wd, wd = d.toNat * 2 ^ 20 + (a.toNat * 2 ^ 14 + (m.toNat * 2 ^ 7 + (p.toNat * 2 ^ 3 + 30 * 2 ^ 26))) := ⟨_, rfl⟩
  rw [show encode (.vabs d a m p) = wd from e.symm]
  refine decode_of_fields ?_ h
  rw [decodeFields_1E (by unfold fld; omega)]
  have f0 : fld wd 8 6 = 0 := by unfold fld; omega
  have f1 : fld wd 0 3 = 0 := by unfold fld; omega
  have f2 : fld wd 6 1 = 0 := by unfold fld; omega
  have f3 : bv wd 20 6 = d := bv_eq (by omega)
  have f4 : bv wd 14 6 = a := bv_eq (by omega)
  have f5 : bit wd 7 = m := bit_eq (by omega)
  have f6 : bv wd 3 3 = p := bv_eq (by omega)
  simp only [decode1E, f0, f1, f2, f3, f4, f5, f6, and_self, reduceIte]

theorem vneg (d a : VReg) (m : Bool) (p : PReg) : Statement (.vneg d a m p) := by
  intro h
  have b_d := d.isLt
  have b_a := a.isLt
  have b_m := m.toNat_lt
  have b_p := p.isLt
  obtain ⟨wd, e⟩ : ∃ wd, wd = 1 * 2 ^ 8 + (d.toNat * 2 ^ 20 + (a.toNat * 2 ^ 14 + (m.toNat * 2 ^ 7 + (p.toNat * 2 ^ 3 + 30 * 2 ^ 26)))) := ⟨_, rfl⟩
  rw [show encode (.vneg d a m p) = wd from e.symm]
  refine decode_of_fields ?_ h
  rw [decodeFields_1E (by unfold fld; omega)]
  have f0 : fld wd 8 6 = 1 := by unfold fld; omega
  have f1 : fld wd 0 3 = 0 := by unfold fld; omega
  have f2 : fld wd 6 1 = 0 := by unfold fld; omega
  have f3 : bv wd 20 6 = d := bv_eq (by omega)
  have f4 : bv wd 14 6 = a := bv_eq (by omega)
  have f5 : bit wd 7 = m := bit_eq (by omega)
  have f6 : bv wd 3 3 = p := bv_eq (by omega)
  simp only [decode1E, f0, f1, f2, f3, f4, f5, f6, and_self, reduceIte]

theorem vsqrt (d a : VReg) (m : Bool) (p : PReg) : Statement (.vsqrt d a m p) := by
  intro h
  have b_d := d.isLt
  have b_a := a.isLt
  have b_m := m.toNat_lt
  have b_p := p.isLt
  obtain ⟨wd, e⟩ : ∃ wd, wd = 2 * 2 ^ 8 + (d.toNat * 2 ^ 20 + (a.toNat * 2 ^ 14 + (m.toNat * 2 ^ 7 + (p.toNat * 2 ^ 3 + 30 * 2 ^ 26)))) := ⟨_, rfl⟩
  rw [show encode (.vsqrt d a m p) = wd from e.symm]
  refine decode_of_fields ?_ h
  rw [decodeFields_1E (by unfold fld; omega)]
  have f0 : fld wd 8 6 = 2 := by unfold fld; omega
  have f1 : fld wd 0 3 = 0 := by unfold fld; omega
  have f2 : fld wd 6 1 = 0 := by unfold fld; omega
  have f3 : bv wd 20 6 = d := bv_eq (by omega)
  have f4 : bv wd 14 6 = a := bv_eq (by omega)
  have f5 : bit wd 7 = m := bit_eq (by omega)
  have f6 : bv wd 3 3 = p := bv_eq (by omega)
  simp only [decode1E, f0, f1, f2, f3, f4, f5, f6, and_self, reduceIte]

theorem vrsqrt (d a : VReg) (m : Bool) (p : PReg) : Statement (.vrsqrt d a m p) := by
  intro h
  have b_d := d.isLt
  have b_a := a.isLt
  have b_m := m.toNat_lt
  have b_p := p.isLt
  obtain ⟨wd, e⟩ : ∃ wd, wd = 3 * 2 ^ 8 + (d.toNat * 2 ^ 20 + (a.toNat * 2 ^ 14 + (m.toNat * 2 ^ 7 + (p.toNat * 2 ^ 3 + 30 * 2 ^ 26)))) := ⟨_, rfl⟩
  rw [show encode (.vrsqrt d a m p) = wd from e.symm]
  refine decode_of_fields ?_ h
  rw [decodeFields_1E (by unfold fld; omega)]
  have f0 : fld wd 8 6 = 3 := by unfold fld; omega
  have f1 : fld wd 0 3 = 0 := by unfold fld; omega
  have f2 : fld wd 6 1 = 0 := by unfold fld; omega
  have f3 : bv wd 20 6 = d := bv_eq (by omega)
  have f4 : bv wd 14 6 = a := bv_eq (by omega)
  have f5 : bit wd 7 = m := bit_eq (by omega)
  have f6 : bv wd 3 3 = p := bv_eq (by omega)
  simp only [decode1E, f0, f1, f2, f3, f4, f5, f6, and_self, reduceIte]

theorem vrcp (d a : VReg) (m : Bool) (p : PReg) : Statement (.vrcp d a m p) := by
  intro h
  have b_d := d.isLt
  have b_a := a.isLt
  have b_m := m.toNat_lt
  have b_p := p.isLt
  obtain ⟨wd, e⟩ : ∃ wd, wd = 4 * 2 ^ 8 + (d.toNat * 2 ^ 20 + (a.toNat * 2 ^ 14 + (m.toNat * 2 ^ 7 + (p.toNat * 2 ^ 3 + 30 * 2 ^ 26)))) := ⟨_, rfl⟩
  rw [show encode (.vrcp d a m p) = wd from e.symm]
  refine decode_of_fields ?_ h
  rw [decodeFields_1E (by unfold fld; omega)]
  have f0 : fld wd 8 6 = 4 := by unfold fld; omega
  have f1 : fld wd 0 3 = 0 := by unfold fld; omega
  have f2 : fld wd 6 1 = 0 := by unfold fld; omega
  have f3 : bv wd 20 6 = d := bv_eq (by omega)
  have f4 : bv wd 14 6 = a := bv_eq (by omega)
  have f5 : bit wd 7 = m := bit_eq (by omega)
  have f6 : bv wd 3 3 = p := bv_eq (by omega)
  simp only [decode1E, f0, f1, f2, f3, f4, f5, f6, and_self, reduceIte]

theorem vexp (d a : VReg) (m : Bool) (p : PReg) : Statement (.vexp d a m p) := by
  intro h
  have b_d := d.isLt
  have b_a := a.isLt
  have b_m := m.toNat_lt
  have b_p := p.isLt
  obtain ⟨wd, e⟩ : ∃ wd, wd = 5 * 2 ^ 8 + (d.toNat * 2 ^ 20 + (a.toNat * 2 ^ 14 + (m.toNat * 2 ^ 7 + (p.toNat * 2 ^ 3 + 30 * 2 ^ 26)))) := ⟨_, rfl⟩
  rw [show encode (.vexp d a m p) = wd from e.symm]
  refine decode_of_fields ?_ h
  rw [decodeFields_1E (by unfold fld; omega)]
  have f0 : fld wd 8 6 = 5 := by unfold fld; omega
  have f1 : fld wd 0 3 = 0 := by unfold fld; omega
  have f2 : fld wd 6 1 = 0 := by unfold fld; omega
  have f3 : bv wd 20 6 = d := bv_eq (by omega)
  have f4 : bv wd 14 6 = a := bv_eq (by omega)
  have f5 : bit wd 7 = m := bit_eq (by omega)
  have f6 : bv wd 3 3 = p := bv_eq (by omega)
  simp only [decode1E, f0, f1, f2, f3, f4, f5, f6, and_self, reduceIte]

theorem vlog (d a : VReg) (m : Bool) (p : PReg) : Statement (.vlog d a m p) := by
  intro h
  have b_d := d.isLt
  have b_a := a.isLt
  have b_m := m.toNat_lt
  have b_p := p.isLt
  obtain ⟨wd, e⟩ : ∃ wd, wd = 6 * 2 ^ 8 + (d.toNat * 2 ^ 20 + (a.toNat * 2 ^ 14 + (m.toNat * 2 ^ 7 + (p.toNat * 2 ^ 3 + 30 * 2 ^ 26)))) := ⟨_, rfl⟩
  rw [show encode (.vlog d a m p) = wd from e.symm]
  refine decode_of_fields ?_ h
  rw [decodeFields_1E (by unfold fld; omega)]
  have f0 : fld wd 8 6 = 6 := by unfold fld; omega
  have f1 : fld wd 0 3 = 0 := by unfold fld; omega
  have f2 : fld wd 6 1 = 0 := by unfold fld; omega
  have f3 : bv wd 20 6 = d := bv_eq (by omega)
  have f4 : bv wd 14 6 = a := bv_eq (by omega)
  have f5 : bit wd 7 = m := bit_eq (by omega)
  have f6 : bv wd 3 3 = p := bv_eq (by omega)
  simp only [decode1E, f0, f1, f2, f3, f4, f5, f6, and_self, reduceIte]

theorem vtanh (d a : VReg) (m : Bool) (p : PReg) : Statement (.vtanh d a m p) := by
  intro h
  have b_d := d.isLt
  have b_a := a.isLt
  have b_m := m.toNat_lt
  have b_p := p.isLt
  obtain ⟨wd, e⟩ : ∃ wd, wd = 7 * 2 ^ 8 + (d.toNat * 2 ^ 20 + (a.toNat * 2 ^ 14 + (m.toNat * 2 ^ 7 + (p.toNat * 2 ^ 3 + 30 * 2 ^ 26)))) := ⟨_, rfl⟩
  rw [show encode (.vtanh d a m p) = wd from e.symm]
  refine decode_of_fields ?_ h
  rw [decodeFields_1E (by unfold fld; omega)]
  have f0 : fld wd 8 6 = 7 := by unfold fld; omega
  have f1 : fld wd 0 3 = 0 := by unfold fld; omega
  have f2 : fld wd 6 1 = 0 := by unfold fld; omega
  have f3 : bv wd 20 6 = d := bv_eq (by omega)
  have f4 : bv wd 14 6 = a := bv_eq (by omega)
  have f5 : bit wd 7 = m := bit_eq (by omega)
  have f6 : bv wd 3 3 = p := bv_eq (by omega)
  simp only [decode1E, f0, f1, f2, f3, f4, f5, f6, and_self, reduceIte]

theorem vcvt (d a : VReg) (m u : Bool) (p : PReg) (r : VRound) : Statement (.vcvt d a m u p r) := by
  intro h
  have b_d := d.isLt
  have b_a := a.isLt
  have b_m := m.toNat_lt
  have b_u := u.toNat_lt
  have b_p := p.isLt
  have b_r := r.code_lt
  obtain ⟨wd, e⟩ : ∃ wd, wd = 8 * 2 ^ 8 + (d.toNat * 2 ^ 20 + (a.toNat * 2 ^ 14 + (m.toNat * 2 ^ 7 + (u.toNat * 2 ^ 6 + (p.toNat * 2 ^ 3 + (r.code * 2 ^ 0 + 30 * 2 ^ 26)))))) := ⟨_, rfl⟩
  rw [show encode (.vcvt d a m u p r) = wd from e.symm]
  refine decode_of_fields ?_ h
  rw [decodeFields_1E (by unfold fld; omega)]
  have f0 : fld wd 8 6 = 8 := by unfold fld; omega
  have f1 : bv wd 20 6 = d := bv_eq (by omega)
  have f2 : bv wd 14 6 = a := bv_eq (by omega)
  have f3 : bit wd 7 = m := bit_eq (by omega)
  have f4 : bit wd 6 = u := bit_eq (by omega)
  have f5 : bv wd 3 3 = p := bv_eq (by omega)
  have f6 : fld wd 0 3 = r.code := by unfold fld; omega
  simp only [decode1E, f0, f1, f2, f3, f4, f5, f6, VRound.ofCode_code, Option.bind_some, and_self, reduceIte]

theorem vaddVs (d a : VReg) (s : SReg) (m : Bool) (p : PReg) : Statement (.vaddVs d a s m p) := by
  intro h
  have b_d := d.isLt
  have b_a := a.isLt
  have b_s := s.isLt
  have b_m := m.toNat_lt
  have b_p := p.isLt
  obtain ⟨wd, e⟩ : ∃ wd, wd = d.toNat * 2 ^ 20 + (a.toNat * 2 ^ 14 + (s.toNat * 2 ^ 9 + (m.toNat * 2 ^ 8 + (p.toNat * 2 ^ 5 + 31 * 2 ^ 26)))) := ⟨_, rfl⟩
  rw [show encode (.vaddVs d a s m p) = wd from e.symm]
  refine decode_of_fields ?_ h
  rw [decodeFields_1F (by unfold fld; omega)]
  have f0 : fld wd 0 5 = 0 := by unfold fld; omega
  have f1 : bv wd 20 6 = d := bv_eq (by omega)
  have f2 : bv wd 14 6 = a := bv_eq (by omega)
  have f3 : bv wd 9 5 = s := bv_eq (by omega)
  have f4 : bit wd 8 = m := bit_eq (by omega)
  have f5 : bv wd 5 3 = p := bv_eq (by omega)
  simp only [decode1F, f0, f1, f2, f3, f4, f5, and_self, reduceIte]

theorem vsubVs (d a : VReg) (s : SReg) (m : Bool) (p : PReg) : Statement (.vsubVs d a s m p) := by
  intro h
  have b_d := d.isLt
  have b_a := a.isLt
  have b_s := s.isLt
  have b_m := m.toNat_lt
  have b_p := p.isLt
  obtain ⟨wd, e⟩ : ∃ wd, wd = 1 * 2 ^ 0 + (d.toNat * 2 ^ 20 + (a.toNat * 2 ^ 14 + (s.toNat * 2 ^ 9 + (m.toNat * 2 ^ 8 + (p.toNat * 2 ^ 5 + 31 * 2 ^ 26))))) := ⟨_, rfl⟩
  rw [show encode (.vsubVs d a s m p) = wd from e.symm]
  refine decode_of_fields ?_ h
  rw [decodeFields_1F (by unfold fld; omega)]
  have f0 : fld wd 0 5 = 1 := by unfold fld; omega
  have f1 : bv wd 20 6 = d := bv_eq (by omega)
  have f2 : bv wd 14 6 = a := bv_eq (by omega)
  have f3 : bv wd 9 5 = s := bv_eq (by omega)
  have f4 : bit wd 8 = m := bit_eq (by omega)
  have f5 : bv wd 5 3 = p := bv_eq (by omega)
  simp only [decode1F, f0, f1, f2, f3, f4, f5, and_self, reduceIte]

theorem vmulVs (d a : VReg) (s : SReg) (m : Bool) (p : PReg) : Statement (.vmulVs d a s m p) := by
  intro h
  have b_d := d.isLt
  have b_a := a.isLt
  have b_s := s.isLt
  have b_m := m.toNat_lt
  have b_p := p.isLt
  obtain ⟨wd, e⟩ : ∃ wd, wd = 2 * 2 ^ 0 + (d.toNat * 2 ^ 20 + (a.toNat * 2 ^ 14 + (s.toNat * 2 ^ 9 + (m.toNat * 2 ^ 8 + (p.toNat * 2 ^ 5 + 31 * 2 ^ 26))))) := ⟨_, rfl⟩
  rw [show encode (.vmulVs d a s m p) = wd from e.symm]
  refine decode_of_fields ?_ h
  rw [decodeFields_1F (by unfold fld; omega)]
  have f0 : fld wd 0 5 = 2 := by unfold fld; omega
  have f1 : bv wd 20 6 = d := bv_eq (by omega)
  have f2 : bv wd 14 6 = a := bv_eq (by omega)
  have f3 : bv wd 9 5 = s := bv_eq (by omega)
  have f4 : bit wd 8 = m := bit_eq (by omega)
  have f5 : bv wd 5 3 = p := bv_eq (by omega)
  simp only [decode1F, f0, f1, f2, f3, f4, f5, and_self, reduceIte]

theorem vdivVs (d a : VReg) (s : SReg) (m : Bool) (p : PReg) : Statement (.vdivVs d a s m p) := by
  intro h
  have b_d := d.isLt
  have b_a := a.isLt
  have b_s := s.isLt
  have b_m := m.toNat_lt
  have b_p := p.isLt
  obtain ⟨wd, e⟩ : ∃ wd, wd = 3 * 2 ^ 0 + (d.toNat * 2 ^ 20 + (a.toNat * 2 ^ 14 + (s.toNat * 2 ^ 9 + (m.toNat * 2 ^ 8 + (p.toNat * 2 ^ 5 + 31 * 2 ^ 26))))) := ⟨_, rfl⟩
  rw [show encode (.vdivVs d a s m p) = wd from e.symm]
  refine decode_of_fields ?_ h
  rw [decodeFields_1F (by unfold fld; omega)]
  have f0 : fld wd 0 5 = 3 := by unfold fld; omega
  have f1 : bv wd 20 6 = d := bv_eq (by omega)
  have f2 : bv wd 14 6 = a := bv_eq (by omega)
  have f3 : bv wd 9 5 = s := bv_eq (by omega)
  have f4 : bit wd 8 = m := bit_eq (by omega)
  have f5 : bv wd 5 3 = p := bv_eq (by omega)
  simp only [decode1F, f0, f1, f2, f3, f4, f5, and_self, reduceIte]

theorem vfmaVs (d a : VReg) (s : SReg) (m : Bool) (p : PReg) : Statement (.vfmaVs d a s m p) := by
  intro h
  have b_d := d.isLt
  have b_a := a.isLt
  have b_s := s.isLt
  have b_m := m.toNat_lt
  have b_p := p.isLt
  obtain ⟨wd, e⟩ : ∃ wd, wd = 4 * 2 ^ 0 + (d.toNat * 2 ^ 20 + (a.toNat * 2 ^ 14 + (s.toNat * 2 ^ 9 + (m.toNat * 2 ^ 8 + (p.toNat * 2 ^ 5 + 31 * 2 ^ 26))))) := ⟨_, rfl⟩
  rw [show encode (.vfmaVs d a s m p) = wd from e.symm]
  refine decode_of_fields ?_ h
  rw [decodeFields_1F (by unfold fld; omega)]
  have f0 : fld wd 0 5 = 4 := by unfold fld; omega
  have f1 : bv wd 20 6 = d := bv_eq (by omega)
  have f2 : bv wd 14 6 = a := bv_eq (by omega)
  have f3 : bv wd 9 5 = s := bv_eq (by omega)
  have f4 : bit wd 8 = m := bit_eq (by omega)
  have f5 : bv wd 5 3 = p := bv_eq (by omega)
  simp only [decode1F, f0, f1, f2, f3, f4, f5, and_self, reduceIte]

theorem vminVs (d a : VReg) (s : SReg) (m : Bool) (p : PReg) : Statement (.vminVs d a s m p) := by
  intro h
  have b_d := d.isLt
  have b_a := a.isLt
  have b_s := s.isLt
  have b_m := m.toNat_lt
  have b_p := p.isLt
  obtain ⟨wd, e⟩ : ∃ wd, wd = 5 * 2 ^ 0 + (d.toNat * 2 ^ 20 + (a.toNat * 2 ^ 14 + (s.toNat * 2 ^ 9 + (m.toNat * 2 ^ 8 + (p.toNat * 2 ^ 5 + 31 * 2 ^ 26))))) := ⟨_, rfl⟩
  rw [show encode (.vminVs d a s m p) = wd from e.symm]
  refine decode_of_fields ?_ h
  rw [decodeFields_1F (by unfold fld; omega)]
  have f0 : fld wd 0 5 = 5 := by unfold fld; omega
  have f1 : bv wd 20 6 = d := bv_eq (by omega)
  have f2 : bv wd 14 6 = a := bv_eq (by omega)
  have f3 : bv wd 9 5 = s := bv_eq (by omega)
  have f4 : bit wd 8 = m := bit_eq (by omega)
  have f5 : bv wd 5 3 = p := bv_eq (by omega)
  simp only [decode1F, f0, f1, f2, f3, f4, f5, and_self, reduceIte]

theorem vmaxVs (d a : VReg) (s : SReg) (m : Bool) (p : PReg) : Statement (.vmaxVs d a s m p) := by
  intro h
  have b_d := d.isLt
  have b_a := a.isLt
  have b_s := s.isLt
  have b_m := m.toNat_lt
  have b_p := p.isLt
  obtain ⟨wd, e⟩ : ∃ wd, wd = 6 * 2 ^ 0 + (d.toNat * 2 ^ 20 + (a.toNat * 2 ^ 14 + (s.toNat * 2 ^ 9 + (m.toNat * 2 ^ 8 + (p.toNat * 2 ^ 5 + 31 * 2 ^ 26))))) := ⟨_, rfl⟩
  rw [show encode (.vmaxVs d a s m p) = wd from e.symm]
  refine decode_of_fields ?_ h
  rw [decodeFields_1F (by unfold fld; omega)]
  have f0 : fld wd 0 5 = 6 := by unfold fld; omega
  have f1 : bv wd 20 6 = d := bv_eq (by omega)
  have f2 : bv wd 14 6 = a := bv_eq (by omega)
  have f3 : bv wd 9 5 = s := bv_eq (by omega)
  have f4 : bit wd 8 = m := bit_eq (by omega)
  have f5 : bv wd 5 3 = p := bv_eq (by omega)
  simp only [decode1F, f0, f1, f2, f3, f4, f5, and_self, reduceIte]

theorem vdivUVs (d a : VReg) (s : SReg) (m : Bool) (p : PReg) : Statement (.vdivUVs d a s m p) := by
  intro h
  have b_d := d.isLt
  have b_a := a.isLt
  have b_s := s.isLt
  have b_m := m.toNat_lt
  have b_p := p.isLt
  obtain ⟨wd, e⟩ : ∃ wd, wd = 7 * 2 ^ 0 + (d.toNat * 2 ^ 20 + (a.toNat * 2 ^ 14 + (s.toNat * 2 ^ 9 + (m.toNat * 2 ^ 8 + (p.toNat * 2 ^ 5 + 31 * 2 ^ 26))))) := ⟨_, rfl⟩
  rw [show encode (.vdivUVs d a s m p) = wd from e.symm]
  refine decode_of_fields ?_ h
  rw [decodeFields_1F (by unfold fld; omega)]
  have f0 : fld wd 0 5 = 7 := by unfold fld; omega
  have f1 : bv wd 20 6 = d := bv_eq (by omega)
  have f2 : bv wd 14 6 = a := bv_eq (by omega)
  have f3 : bv wd 9 5 = s := bv_eq (by omega)
  have f4 : bit wd 8 = m := bit_eq (by omega)
  have f5 : bv wd 5 3 = p := bv_eq (by omega)
  simp only [decode1F, f0, f1, f2, f3, f4, f5, and_self, reduceIte]

theorem vandVs (d a : VReg) (s : SReg) (m : Bool) (p : PReg) : Statement (.vandVs d a s m p) := by
  intro h
  have b_d := d.isLt
  have b_a := a.isLt
  have b_s := s.isLt
  have b_m := m.toNat_lt
  have b_p := p.isLt
  obtain ⟨wd, e⟩ : ∃ wd, wd = 8 * 2 ^ 0 + (d.toNat * 2 ^ 20 + (a.toNat * 2 ^ 14 + (s.toNat * 2 ^ 9 + (m.toNat * 2 ^ 8 + (p.toNat * 2 ^ 5 + 31 * 2 ^ 26))))) := ⟨_, rfl⟩
  rw [show encode (.vandVs d a s m p) = wd from e.symm]
  refine decode_of_fields ?_ h
  rw [decodeFields_1F (by unfold fld; omega)]
  have f0 : fld wd 0 5 = 8 := by unfold fld; omega
  have f1 : bv wd 20 6 = d := bv_eq (by omega)
  have f2 : bv wd 14 6 = a := bv_eq (by omega)
  have f3 : bv wd 9 5 = s := bv_eq (by omega)
  have f4 : bit wd 8 = m := bit_eq (by omega)
  have f5 : bv wd 5 3 = p := bv_eq (by omega)
  simp only [decode1F, f0, f1, f2, f3, f4, f5, and_self, reduceIte]

theorem vorVs (d a : VReg) (s : SReg) (m : Bool) (p : PReg) : Statement (.vorVs d a s m p) := by
  intro h
  have b_d := d.isLt
  have b_a := a.isLt
  have b_s := s.isLt
  have b_m := m.toNat_lt
  have b_p := p.isLt
  obtain ⟨wd, e⟩ : ∃ wd, wd = 9 * 2 ^ 0 + (d.toNat * 2 ^ 20 + (a.toNat * 2 ^ 14 + (s.toNat * 2 ^ 9 + (m.toNat * 2 ^ 8 + (p.toNat * 2 ^ 5 + 31 * 2 ^ 26))))) := ⟨_, rfl⟩
  rw [show encode (.vorVs d a s m p) = wd from e.symm]
  refine decode_of_fields ?_ h
  rw [decodeFields_1F (by unfold fld; omega)]
  have f0 : fld wd 0 5 = 9 := by unfold fld; omega
  have f1 : bv wd 20 6 = d := bv_eq (by omega)
  have f2 : bv wd 14 6 = a := bv_eq (by omega)
  have f3 : bv wd 9 5 = s := bv_eq (by omega)
  have f4 : bit wd 8 = m := bit_eq (by omega)
  have f5 : bv wd 5 3 = p := bv_eq (by omega)
  simp only [decode1F, f0, f1, f2, f3, f4, f5, and_self, reduceIte]

theorem vxorVs (d a : VReg) (s : SReg) (m : Bool) (p : PReg) : Statement (.vxorVs d a s m p) := by
  intro h
  have b_d := d.isLt
  have b_a := a.isLt
  have b_s := s.isLt
  have b_m := m.toNat_lt
  have b_p := p.isLt
  obtain ⟨wd, e⟩ : ∃ wd, wd = 10 * 2 ^ 0 + (d.toNat * 2 ^ 20 + (a.toNat * 2 ^ 14 + (s.toNat * 2 ^ 9 + (m.toNat * 2 ^ 8 + (p.toNat * 2 ^ 5 + 31 * 2 ^ 26))))) := ⟨_, rfl⟩
  rw [show encode (.vxorVs d a s m p) = wd from e.symm]
  refine decode_of_fields ?_ h
  rw [decodeFields_1F (by unfold fld; omega)]
  have f0 : fld wd 0 5 = 10 := by unfold fld; omega
  have f1 : bv wd 20 6 = d := bv_eq (by omega)
  have f2 : bv wd 14 6 = a := bv_eq (by omega)
  have f3 : bv wd 9 5 = s := bv_eq (by omega)
  have f4 : bit wd 8 = m := bit_eq (by omega)
  have f5 : bv wd 5 3 = p := bv_eq (by omega)
  simp only [decode1F, f0, f1, f2, f3, f4, f5, and_self, reduceIte]

theorem vshlVs (d a : VReg) (s : SReg) (m : Bool) (p : PReg) : Statement (.vshlVs d a s m p) := by
  intro h
  have b_d := d.isLt
  have b_a := a.isLt
  have b_s := s.isLt
  have b_m := m.toNat_lt
  have b_p := p.isLt
  obtain ⟨wd, e⟩ : ∃ wd, wd = 11 * 2 ^ 0 + (d.toNat * 2 ^ 20 + (a.toNat * 2 ^ 14 + (s.toNat * 2 ^ 9 + (m.toNat * 2 ^ 8 + (p.toNat * 2 ^ 5 + 31 * 2 ^ 26))))) := ⟨_, rfl⟩
  rw [show encode (.vshlVs d a s m p) = wd from e.symm]
  refine decode_of_fields ?_ h
  rw [decodeFields_1F (by unfold fld; omega)]
  have f0 : fld wd 0 5 = 11 := by unfold fld; omega
  have f1 : bv wd 20 6 = d := bv_eq (by omega)
  have f2 : bv wd 14 6 = a := bv_eq (by omega)
  have f3 : bv wd 9 5 = s := bv_eq (by omega)
  have f4 : bit wd 8 = m := bit_eq (by omega)
  have f5 : bv wd 5 3 = p := bv_eq (by omega)
  simp only [decode1F, f0, f1, f2, f3, f4, f5, and_self, reduceIte]

theorem vshrVs (d a : VReg) (s : SReg) (m : Bool) (p : PReg) : Statement (.vshrVs d a s m p) := by
  intro h
  have b_d := d.isLt
  have b_a := a.isLt
  have b_s := s.isLt
  have b_m := m.toNat_lt
  have b_p := p.isLt
  obtain ⟨wd, e⟩ : ∃ wd, wd = 12 * 2 ^ 0 + (d.toNat * 2 ^ 20 + (a.toNat * 2 ^ 14 + (s.toNat * 2 ^ 9 + (m.toNat * 2 ^ 8 + (p.toNat * 2 ^ 5 + 31 * 2 ^ 26))))) := ⟨_, rfl⟩
  rw [show encode (.vshrVs d a s m p) = wd from e.symm]
  refine decode_of_fields ?_ h
  rw [decodeFields_1F (by unfold fld; omega)]
  have f0 : fld wd 0 5 = 12 := by unfold fld; omega
  have f1 : bv wd 20 6 = d := bv_eq (by omega)
  have f2 : bv wd 14 6 = a := bv_eq (by omega)
  have f3 : bv wd 9 5 = s := bv_eq (by omega)
  have f4 : bit wd 8 = m := bit_eq (by omega)
  have f5 : bv wd 5 3 = p := bv_eq (by omega)
  simp only [decode1F, f0, f1, f2, f3, f4, f5, and_self, reduceIte]

theorem vshrUVs (d a : VReg) (s : SReg) (m : Bool) (p : PReg) : Statement (.vshrUVs d a s m p) := by
  intro h
  have b_d := d.isLt
  have b_a := a.isLt
  have b_s := s.isLt
  have b_m := m.toNat_lt
  have b_p := p.isLt
  obtain ⟨wd, e⟩ : ∃ wd, wd = 14 * 2 ^ 0 + (d.toNat * 2 ^ 20 + (a.toNat * 2 ^ 14 + (s.toNat * 2 ^ 9 + (m.toNat * 2 ^ 8 + (p.toNat * 2 ^ 5 + 31 * 2 ^ 26))))) := ⟨_, rfl⟩
  rw [show encode (.vshrUVs d a s m p) = wd from e.symm]
  refine decode_of_fields ?_ h
  rw [decodeFields_1F (by unfold fld; omega)]
  have f0 : fld wd 0 5 = 14 := by unfold fld; omega
  have f1 : bv wd 20 6 = d := bv_eq (by omega)
  have f2 : bv wd 14 6 = a := bv_eq (by omega)
  have f3 : bv wd 9 5 = s := bv_eq (by omega)
  have f4 : bit wd 8 = m := bit_eq (by omega)
  have f5 : bv wd 5 3 = p := bv_eq (by omega)
  simp only [decode1F, f0, f1, f2, f3, f4, f5, and_self, reduceIte]

theorem vsplat (d : VReg) (s : SReg) (p : PReg) : Statement (.vsplat d s p) := by
  intro h
  have b_d := d.isLt
  have b_s := s.isLt
  have b_p := p.isLt
  obtain ⟨wd, e⟩ : ∃ wd, wd = 16 * 2 ^ 0 + (d.toNat * 2 ^ 20 + (s.toNat * 2 ^ 9 + (p.toNat * 2 ^ 5 + 31 * 2 ^ 26))) := ⟨_, rfl⟩
  rw [show encode (.vsplat d s p) = wd from e.symm]
  refine decode_of_fields ?_ h
  rw [decodeFields_1F (by unfold fld; omega)]
  have f0 : fld wd 0 5 = 16 := by unfold fld; omega
  have f1 : fld wd 8 1 = 0 := by unfold fld; omega
  have f2 : fld wd 14 6 = 0 := by unfold fld; omega
  have f3 : bv wd 20 6 = d := bv_eq (by omega)
  have f4 : bv wd 9 5 = s := bv_eq (by omega)
  have f5 : bv wd 5 3 = p := bv_eq (by omega)
  simp only [decode1F, f0, f1, f2, f3, f4, f5, and_self, reduceIte]

theorem viota (d : VReg) (s : SReg) (p : PReg) : Statement (.viota d s p) := by
  intro h
  have b_d := d.isLt
  have b_s := s.isLt
  have b_p := p.isLt
  obtain ⟨wd, e⟩ : ∃ wd, wd = 17 * 2 ^ 0 + (d.toNat * 2 ^ 20 + (s.toNat * 2 ^ 9 + (p.toNat * 2 ^ 5 + 31 * 2 ^ 26))) := ⟨_, rfl⟩
  rw [show encode (.viota d s p) = wd from e.symm]
  refine decode_of_fields ?_ h
  rw [decodeFields_1F (by unfold fld; omega)]
  have f0 : fld wd 0 5 = 17 := by unfold fld; omega
  have f1 : fld wd 8 1 = 0 := by unfold fld; omega
  have f2 : fld wd 14 6 = 0 := by unfold fld; omega
  have f3 : bv wd 20 6 = d := bv_eq (by omega)
  have f4 : bv wd 9 5 = s := bv_eq (by omega)
  have f5 : bv wd 5 3 = p := bv_eq (by omega)
  simp only [decode1F, f0, f1, f2, f3, f4, f5, and_self, reduceIte]

theorem vcmp (u : Bool) (k : KReg) (a b : VReg) (m n : Bool) (p : PReg) (r : VRel) : Statement (.vcmp u k a b m n p r) := by
  intro h
  have b_u := u.toNat_lt
  have b_k := k.isLt
  have b_a := a.isLt
  have b_b := b.isLt
  have b_m := m.toNat_lt
  have b_n := n.toNat_lt
  have b_p := p.isLt
  have b_r := r.code_lt
  obtain ⟨wd, e⟩ : ∃ wd, wd = u.toNat * 2 ^ 24 + (k.toNat * 2 ^ 20 + (a.toNat * 2 ^ 14 + (b.toNat * 2 ^ 8 + (m.toNat * 2 ^ 7 + (n.toNat * 2 ^ 6 + (p.toNat * 2 ^ 3 + (r.code * 2 ^ 0 + 32 * 2 ^ 26))))))) := ⟨_, rfl⟩
  rw [show encode (.vcmp u k a b m n p r) = wd from e.symm]
  refine decode_of_fields ?_ h
  rw [decodeFields_20 (by unfold fld; omega)]
  have f0 : fld wd 25 1 = 0 := by unfold fld; omega
  have f1 : bit wd 24 = u := bit_eq (by omega)
  have f2 : bv wd 20 4 = k := bv_eq (by omega)
  have f3 : bv wd 14 6 = a := bv_eq (by omega)
  have f4 : bv wd 8 6 = b := bv_eq (by omega)
  have f5 : bit wd 7 = m := bit_eq (by omega)
  have f6 : bit wd 6 = n := bit_eq (by omega)
  have f7 : bv wd 3 3 = p := bv_eq (by omega)
  have f8 : fld wd 0 3 = r.code := by unfold fld; omega
  simp only [decode20, f0, f1, f2, f3, f4, f5, f6, f7, f8, VRel.ofCode_code, Option.bind_some, and_self, reduceIte]

theorem kand (d a b : KReg) : Statement (.kand d a b) := by
  intro h
  have b_d := d.isLt
  have b_a := a.isLt
  have b_b := b.isLt
  obtain ⟨wd, e⟩ : ∃ wd, wd = d.toNat * 2 ^ 22 + (a.toNat * 2 ^ 18 + (b.toNat * 2 ^ 14 + 33 * 2 ^ 26)) := ⟨_, rfl⟩
  rw [show encode (.kand d a b) = wd from e.symm]
  refine decode_of_fields ?_ h
  rw [decodeFields_21 (by unfold fld; omega)]
  have f0 : fld wd 4 4 = 0 := by unfold fld; omega
  have f1 : fld wd 8 6 = 0 := by unfold fld; omega
  have f2 : fld wd 0 4 = 0 := by unfold fld; omega
  have f3 : bv wd 22 4 = d := bv_eq (by omega)
  have f4 : bv wd 18 4 = a := bv_eq (by omega)
  have f5 : bv wd 14 4 = b := bv_eq (by omega)
  simp only [decode21, f0, f1, f2, f3, f4, f5, and_self, reduceIte]

theorem kor (d a b : KReg) : Statement (.kor d a b) := by
  intro h
  have b_d := d.isLt
  have b_a := a.isLt
  have b_b := b.isLt
  obtain ⟨wd, e⟩ : ∃ wd, wd = 1 * 2 ^ 4 + (d.toNat * 2 ^ 22 + (a.toNat * 2 ^ 18 + (b.toNat * 2 ^ 14 + 33 * 2 ^ 26))) := ⟨_, rfl⟩
  rw [show encode (.kor d a b) = wd from e.symm]
  refine decode_of_fields ?_ h
  rw [decodeFields_21 (by unfold fld; omega)]
  have f0 : fld wd 4 4 = 1 := by unfold fld; omega
  have f1 : fld wd 8 6 = 0 := by unfold fld; omega
  have f2 : fld wd 0 4 = 0 := by unfold fld; omega
  have f3 : bv wd 22 4 = d := bv_eq (by omega)
  have f4 : bv wd 18 4 = a := bv_eq (by omega)
  have f5 : bv wd 14 4 = b := bv_eq (by omega)
  simp only [decode21, f0, f1, f2, f3, f4, f5, and_self, reduceIte]

theorem kxor (d a b : KReg) : Statement (.kxor d a b) := by
  intro h
  have b_d := d.isLt
  have b_a := a.isLt
  have b_b := b.isLt
  obtain ⟨wd, e⟩ : ∃ wd, wd = 2 * 2 ^ 4 + (d.toNat * 2 ^ 22 + (a.toNat * 2 ^ 18 + (b.toNat * 2 ^ 14 + 33 * 2 ^ 26))) := ⟨_, rfl⟩
  rw [show encode (.kxor d a b) = wd from e.symm]
  refine decode_of_fields ?_ h
  rw [decodeFields_21 (by unfold fld; omega)]
  have f0 : fld wd 4 4 = 2 := by unfold fld; omega
  have f1 : fld wd 8 6 = 0 := by unfold fld; omega
  have f2 : fld wd 0 4 = 0 := by unfold fld; omega
  have f3 : bv wd 22 4 = d := bv_eq (by omega)
  have f4 : bv wd 18 4 = a := bv_eq (by omega)
  have f5 : bv wd 14 4 = b := bv_eq (by omega)
  simp only [decode21, f0, f1, f2, f3, f4, f5, and_self, reduceIte]

theorem knot (d a : KReg) : Statement (.knot d a) := by
  intro h
  have b_d := d.isLt
  have b_a := a.isLt
  obtain ⟨wd, e⟩ : ∃ wd, wd = 3 * 2 ^ 4 + (d.toNat * 2 ^ 22 + (a.toNat * 2 ^ 18 + 33 * 2 ^ 26)) := ⟨_, rfl⟩
  rw [show encode (.knot d a) = wd from e.symm]
  refine decode_of_fields ?_ h
  rw [decodeFields_21 (by unfold fld; omega)]
  have f0 : fld wd 4 4 = 3 := by unfold fld; omega
  have f1 : fld wd 8 10 = 0 := by unfold fld; omega
  have f2 : fld wd 0 4 = 0 := by unfold fld; omega
  have f3 : bv wd 22 4 = d := bv_eq (by omega)
  have f4 : bv wd 18 4 = a := bv_eq (by omega)
  simp only [decode21, f0, f1, f2, f3, f4, and_self, reduceIte]

theorem ksbf (d a : KReg) : Statement (.ksbf d a) := by
  intro h
  have b_d := d.isLt
  have b_a := a.isLt
  obtain ⟨wd, e⟩ : ∃ wd, wd = 4 * 2 ^ 4 + (d.toNat * 2 ^ 22 + (a.toNat * 2 ^ 18 + 33 * 2 ^ 26)) := ⟨_, rfl⟩
  rw [show encode (.ksbf d a) = wd from e.symm]
  refine decode_of_fields ?_ h
  rw [decodeFields_21 (by unfold fld; omega)]
  have f0 : fld wd 4 4 = 4 := by unfold fld; omega
  have f1 : fld wd 8 10 = 0 := by unfold fld; omega
  have f2 : fld wd 0 4 = 0 := by unfold fld; omega
  have f3 : bv wd 22 4 = d := bv_eq (by omega)
  have f4 : bv wd 18 4 = a := bv_eq (by omega)
  simp only [decode21, f0, f1, f2, f3, f4, and_self, reduceIte]

theorem ksif (d a : KReg) : Statement (.ksif d a) := by
  intro h
  have b_d := d.isLt
  have b_a := a.isLt
  obtain ⟨wd, e⟩ : ∃ wd, wd = 5 * 2 ^ 4 + (d.toNat * 2 ^ 22 + (a.toNat * 2 ^ 18 + 33 * 2 ^ 26)) := ⟨_, rfl⟩
  rw [show encode (.ksif d a) = wd from e.symm]
  refine decode_of_fields ?_ h
  rw [decodeFields_21 (by unfold fld; omega)]
  have f0 : fld wd 4 4 = 5 := by unfold fld; omega
  have f1 : fld wd 8 10 = 0 := by unfold fld; omega
  have f2 : fld wd 0 4 = 0 := by unfold fld; omega
  have f3 : bv wd 22 4 = d := bv_eq (by omega)
  have f4 : bv wd 18 4 = a := bv_eq (by omega)
  simp only [decode21, f0, f1, f2, f3, f4, and_self, reduceIte]

theorem kpop (a : KReg) (s : SReg) : Statement (.kpop a s) := by
  intro h
  have b_a := a.isLt
  have b_s := s.isLt
  obtain ⟨wd, e⟩ : ∃ wd, wd = 6 * 2 ^ 4 + (a.toNat * 2 ^ 18 + (s.toNat * 2 ^ 9 + 33 * 2 ^ 26)) := ⟨_, rfl⟩
  rw [show encode (.kpop a s) = wd from e.symm]
  refine decode_of_fields ?_ h
  rw [decodeFields_21 (by unfold fld; omega)]
  have f0 : fld wd 4 4 = 6 := by unfold fld; omega
  have f1 : fld wd 8 1 = 0 := by unfold fld; omega
  have f2 : fld wd 0 4 = 0 := by unfold fld; omega
  have f3 : fld wd 14 4 = 0 := by unfold fld; omega
  have f4 : fld wd 22 4 = 0 := by unfold fld; omega
  have f5 : bv wd 18 4 = a := bv_eq (by omega)
  have f6 : bv wd 9 5 = s := bv_eq (by omega)
  simp only [decode21, f0, f1, f2, f3, f4, f5, f6, and_self, reduceIte]

theorem kfirst (a : KReg) (s : SReg) : Statement (.kfirst a s) := by
  intro h
  have b_a := a.isLt
  have b_s := s.isLt
  obtain ⟨wd, e⟩ : ∃ wd, wd = 7 * 2 ^ 4 + (a.toNat * 2 ^ 18 + (s.toNat * 2 ^ 9 + 33 * 2 ^ 26)) := ⟨_, rfl⟩
  rw [show encode (.kfirst a s) = wd from e.symm]
  refine decode_of_fields ?_ h
  rw [decodeFields_21 (by unfold fld; omega)]
  have f0 : fld wd 4 4 = 7 := by unfold fld; omega
  have f1 : fld wd 8 1 = 0 := by unfold fld; omega
  have f2 : fld wd 0 4 = 0 := by unfold fld; omega
  have f3 : fld wd 14 4 = 0 := by unfold fld; omega
  have f4 : fld wd 22 4 = 0 := by unfold fld; omega
  have f5 : bv wd 18 4 = a := bv_eq (by omega)
  have f6 : bv wd 9 5 = s := bv_eq (by omega)
  simp only [decode21, f0, f1, f2, f3, f4, f5, f6, and_self, reduceIte]

theorem ktail (a : KReg) (s : SReg) : Statement (.ktail a s) := by
  intro h
  have b_a := a.isLt
  have b_s := s.isLt
  obtain ⟨wd, e⟩ : ∃ wd, wd = 8 * 2 ^ 4 + (a.toNat * 2 ^ 18 + (s.toNat * 2 ^ 9 + 33 * 2 ^ 26)) := ⟨_, rfl⟩
  rw [show encode (.ktail a s) = wd from e.symm]
  refine decode_of_fields ?_ h
  rw [decodeFields_21 (by unfold fld; omega)]
  have f0 : fld wd 4 4 = 8 := by unfold fld; omega
  have f1 : fld wd 8 1 = 0 := by unfold fld; omega
  have f2 : fld wd 0 4 = 0 := by unfold fld; omega
  have f3 : fld wd 14 4 = 0 := by unfold fld; omega
  have f4 : fld wd 22 4 = 0 := by unfold fld; omega
  have f5 : bv wd 18 4 = a := bv_eq (by omega)
  have f6 : bv wd 9 5 = s := bv_eq (by omega)
  simp only [decode21, f0, f1, f2, f3, f4, f5, f6, and_self, reduceIte]

theorem kld (d : KReg) (s : SReg) : Statement (.kld d s) := by
  intro h
  have b_d := d.isLt
  have b_s := s.isLt
  obtain ⟨wd, e⟩ : ∃ wd, wd = 9 * 2 ^ 4 + (d.toNat * 2 ^ 22 + (s.toNat * 2 ^ 9 + 33 * 2 ^ 26)) := ⟨_, rfl⟩
  rw [show encode (.kld d s) = wd from e.symm]
  refine decode_of_fields ?_ h
  rw [decodeFields_21 (by unfold fld; omega)]
  have f0 : fld wd 4 4 = 9 := by unfold fld; omega
  have f1 : fld wd 8 1 = 0 := by unfold fld; omega
  have f2 : fld wd 0 4 = 0 := by unfold fld; omega
  have f3 : fld wd 14 8 = 0 := by unfold fld; omega
  have f4 : bv wd 22 4 = d := bv_eq (by omega)
  have f5 : bv wd 9 5 = s := bv_eq (by omega)
  simp only [decode21, f0, f1, f2, f3, f4, f5, and_self, reduceIte]

theorem kst (a : KReg) (s : SReg) : Statement (.kst a s) := by
  intro h
  have b_a := a.isLt
  have b_s := s.isLt
  obtain ⟨wd, e⟩ : ∃ wd, wd = 10 * 2 ^ 4 + (a.toNat * 2 ^ 18 + (s.toNat * 2 ^ 9 + 33 * 2 ^ 26)) := ⟨_, rfl⟩
  rw [show encode (.kst a s) = wd from e.symm]
  refine decode_of_fields ?_ h
  rw [decodeFields_21 (by unfold fld; omega)]
  have f0 : fld wd 4 4 = 10 := by unfold fld; omega
  have f1 : fld wd 8 1 = 0 := by unfold fld; omega
  have f2 : fld wd 0 4 = 0 := by unfold fld; omega
  have f3 : fld wd 14 4 = 0 := by unfold fld; omega
  have f4 : fld wd 22 4 = 0 := by unfold fld; omega
  have f5 : bv wd 18 4 = a := bv_eq (by omega)
  have f6 : bv wd 9 5 = s := bv_eq (by omega)
  simp only [decode21, f0, f1, f2, f3, f4, f5, f6, and_self, reduceIte]

theorem vred (s : SReg) (a : VReg) (o : RedOp) (m : Bool) (p : PReg) : Statement (.vred s a o m p) := by
  intro h
  have b_s := s.isLt
  have b_a := a.isLt
  have b_o := o.code_lt
  have b_m := m.toNat_lt
  have b_p := p.isLt
  obtain ⟨wd, e⟩ : ∃ wd, wd = s.toNat * 2 ^ 20 + (a.toNat * 2 ^ 14 + (o.code * 2 ^ 8 + (m.toNat * 2 ^ 7 + (p.toNat * 2 ^ 3 + 34 * 2 ^ 26)))) := ⟨_, rfl⟩
  rw [show encode (.vred s a o m p) = wd from e.symm]
  refine decode_of_fields ?_ h
  rw [decodeFields_22 (by unfold fld; omega)]
  have f0 : fld wd 0 3 = 0 := by unfold fld; omega
  have f1 : fld wd 6 1 = 0 := by unfold fld; omega
  have f2 : fld wd 25 1 = 0 := by unfold fld; omega
  have f3 : bv wd 20 5 = s := bv_eq (by omega)
  have f4 : bv wd 14 6 = a := bv_eq (by omega)
  have f5 : fld wd 8 6 = o.code := by unfold fld; omega
  have f6 : bit wd 7 = m := bit_eq (by omega)
  have f7 : bv wd 3 3 = p := bv_eq (by omega)
  simp only [decode22, f0, f1, f2, f3, f4, f5, f6, f7, RedOp.ofCode_code, Option.bind_some, and_self, reduceIte]

theorem vscan (d a : VReg) (o : RedOp) (m : Bool) (p : PReg) : Statement (.vscan d a o m p) := by
  intro h
  have b_d := d.isLt
  have b_a := a.isLt
  have b_o := o.code_lt
  have b_m := m.toNat_lt
  have b_p := p.isLt
  obtain ⟨wd, e⟩ : ∃ wd, wd = 1 * 2 ^ 0 + (d.toNat * 2 ^ 20 + (a.toNat * 2 ^ 14 + (o.code * 2 ^ 8 + (m.toNat * 2 ^ 7 + (p.toNat * 2 ^ 3 + 34 * 2 ^ 26))))) := ⟨_, rfl⟩
  rw [show encode (.vscan d a o m p) = wd from e.symm]
  refine decode_of_fields ?_ h
  rw [decodeFields_22 (by unfold fld; omega)]
  have f0 : fld wd 0 3 = 1 := by unfold fld; omega
  have f1 : fld wd 6 1 = 0 := by unfold fld; omega
  have f2 : bv wd 20 6 = d := bv_eq (by omega)
  have f3 : bv wd 14 6 = a := bv_eq (by omega)
  have f4 : fld wd 8 6 = o.code := by unfold fld; omega
  have f5 : bit wd 7 = m := bit_eq (by omega)
  have f6 : bv wd 3 3 = p := bv_eq (by omega)
  simp only [decode22, f0, f1, f2, f3, f4, f5, f6, RedOp.ofCode_code, Option.bind_some, and_self, reduceIte]

theorem vcomp (d a : VReg) (m : Bool) (p : PReg) : Statement (.vcomp d a m p) := by
  intro h
  have b_d := d.isLt
  have b_a := a.isLt
  have b_m := m.toNat_lt
  have b_p := p.isLt
  obtain ⟨wd, e⟩ : ∃ wd, wd = 2 * 2 ^ 0 + (d.toNat * 2 ^ 20 + (a.toNat * 2 ^ 14 + (m.toNat * 2 ^ 7 + (p.toNat * 2 ^ 3 + 34 * 2 ^ 26)))) := ⟨_, rfl⟩
  rw [show encode (.vcomp d a m p) = wd from e.symm]
  refine decode_of_fields ?_ h
  rw [decodeFields_22 (by unfold fld; omega)]
  have f0 : fld wd 0 3 = 2 := by unfold fld; omega
  have f1 : fld wd 6 1 = 0 := by unfold fld; omega
  have f2 : fld wd 8 6 = 0 := by unfold fld; omega
  have f3 : bv wd 20 6 = d := bv_eq (by omega)
  have f4 : bv wd 14 6 = a := bv_eq (by omega)
  have f5 : bit wd 7 = m := bit_eq (by omega)
  have f6 : bv wd 3 3 = p := bv_eq (by omega)
  simp only [decode22, f0, f1, f2, f3, f4, f5, f6, and_self, reduceIte]

theorem vexpd (d a : VReg) (m : Bool) (p : PReg) : Statement (.vexpd d a m p) := by
  intro h
  have b_d := d.isLt
  have b_a := a.isLt
  have b_m := m.toNat_lt
  have b_p := p.isLt
  obtain ⟨wd, e⟩ : ∃ wd, wd = 3 * 2 ^ 0 + (d.toNat * 2 ^ 20 + (a.toNat * 2 ^ 14 + (m.toNat * 2 ^ 7 + (p.toNat * 2 ^ 3 + 34 * 2 ^ 26)))) := ⟨_, rfl⟩
  rw [show encode (.vexpd d a m p) = wd from e.symm]
  refine decode_of_fields ?_ h
  rw [decodeFields_22 (by unfold fld; omega)]
  have f0 : fld wd 0 3 = 3 := by unfold fld; omega
  have f1 : fld wd 6 1 = 0 := by unfold fld; omega
  have f2 : fld wd 8 6 = 0 := by unfold fld; omega
  have f3 : bv wd 20 6 = d := bv_eq (by omega)
  have f4 : bv wd 14 6 = a := bv_eq (by omega)
  have f5 : bit wd 7 = m := bit_eq (by omega)
  have f6 : bv wd 3 3 = p := bv_eq (by omega)
  simp only [decode22, f0, f1, f2, f3, f4, f5, f6, and_self, reduceIte]

theorem vperm (d a b : VReg) (m n : Bool) (p : PReg) : Statement (.vperm d a b m n p) := by
  intro h
  have b_d := d.isLt
  have b_a := a.isLt
  have b_b := b.isLt
  have b_m := m.toNat_lt
  have b_n := n.toNat_lt
  have b_p := p.isLt
  obtain ⟨wd, e⟩ : ∃ wd, wd = 4 * 2 ^ 0 + (d.toNat * 2 ^ 20 + (a.toNat * 2 ^ 14 + (b.toNat * 2 ^ 8 + (m.toNat * 2 ^ 7 + (n.toNat * 2 ^ 6 + (p.toNat * 2 ^ 3 + 34 * 2 ^ 26)))))) := ⟨_, rfl⟩
  rw [show encode (.vperm d a b m n p) = wd from e.symm]
  refine decode_of_fields ?_ h
  rw [decodeFields_22 (by unfold fld; omega)]
  have f0 : fld wd 0 3 = 4 := by unfold fld; omega
  have f1 : bv wd 20 6 = d := bv_eq (by omega)
  have f2 : bv wd 14 6 = a := bv_eq (by omega)
  have f3 : bv wd 8 6 = b := bv_eq (by omega)
  have f4 : bit wd 7 = m := bit_eq (by omega)
  have f5 : bit wd 6 = n := bit_eq (by omega)
  have f6 : bv wd 3 3 = p := bv_eq (by omega)
  simp only [decode22, f0, f1, f2, f3, f4, f5, f6, and_self, reduceIte]

theorem vforce : Statement .vforce := by
  intro h; rfl

theorem vdrop (d a : VReg) : Statement (.vdrop d a) := by
  intro h
  have b_d := d.isLt
  have b_a := a.isLt
  obtain ⟨wd, e⟩ : ∃ wd, wd = 1 * 2 ^ 0 + (d.toNat * 2 ^ 20 + (a.toNat * 2 ^ 14 + 35 * 2 ^ 26)) := ⟨_, rfl⟩
  rw [show encode (.vdrop d a) = wd from e.symm]
  refine decode_of_fields ?_ h
  rw [decodeFields_23 (by unfold fld; omega)]
  have f0 : fld wd 0 3 = 1 := by unfold fld; omega
  have f1 : fld wd 3 11 = 0 := by unfold fld; omega
  have f2 : bv wd 20 6 = d := bv_eq (by omega)
  have f3 : bv wd 14 6 = a := bv_eq (by omega)
  simp only [decode23, f0, f1, f2, f3, and_self, reduceIte]

theorem mmodeOn (n : BitVec 6) : Statement (.mmodeOn n) := by
  intro h
  have b_n := n.isLt
  obtain ⟨wd, e⟩ : ∃ wd, wd = 0x1 * 2 ^ 6 + (n.toNat * 2 ^ 17 + 36 * 2 ^ 26) := ⟨_, rfl⟩
  rw [show encode (.mmodeOn n) = wd from e.symm]
  refine decode_of_fields ?_ h
  rw [decodeFields_24 (by unfold fld; omega)]
  have f0 : fld wd 0 17 = 64 := by unfold fld; omega
  have f1 : fld wd 23 3 = 0 := by unfold fld; omega
  have f2 : bv wd 17 6 = n := bv_eq (by omega)
  unfold decode24
  rw [if_pos ⟨f0, f1⟩]
  simp only [f2]

theorem mmodeOff : Statement .mmodeOff := by
  intro h; rfl

theorem mmodeOffRel : Statement .mmodeOffRel := by
  intro h; rfl

theorem tileGrant (core : Nat) : Statement (.tileGrant core) := by
  intro h; exact absurd h Bool.false_ne_true

theorem mshape (m n : SReg) : Statement (.mshape m n) := by
  intro h
  have b_m := m.isLt
  have b_n := n.isLt
  obtain ⟨wd, e⟩ : ∃ wd, wd = 0x1 * 2 ^ 3 + (m.toNat * 2 ^ 18 + (n.toNat * 2 ^ 12 + 36 * 2 ^ 26)) := ⟨_, rfl⟩
  rw [show encode (.mshape m n) = wd from e.symm]
  refine decode_of_fields ?_ h
  rw [decodeFields_24 (by unfold fld; omega)]
  have f0 : ¬ (fld wd 0 17 = 64 ∧ fld wd 23 3 = 0) := by unfold fld; omega
  have f1 : ¬ (fld wd 0 26 = 0) := by unfold fld; omega
  have f2 : ¬ (fld wd 0 26 = 32) := by unfold fld; omega
  have f3 : fld wd 0 12 = 8 := by unfold fld; omega
  have f4 : fld wd 17 1 = 0 := by unfold fld; omega
  have f5 : fld wd 23 3 = 0 := by unfold fld; omega
  have f6 : bv wd 18 5 = m := bv_eq (by omega)
  have f7 : bv wd 12 5 = n := bv_eq (by omega)
  unfold decode24
  rw [if_neg f0, if_neg f1, if_neg f2, if_pos ⟨f3, f4, f5⟩]
  simp only [f6, f7]

theorem zzero (z : ZReg) : Statement (.zzero z) := by
  intro h
  have b_z := z.isLt
  obtain ⟨wd, e⟩ : ∃ wd, wd = 0x1 * 2 ^ 4 + (z.toNat * 2 ^ 23 + 36 * 2 ^ 26) := ⟨_, rfl⟩
  rw [show encode (.zzero z) = wd from e.symm]
  refine decode_of_fields ?_ h
  rw [decodeFields_24 (by unfold fld; omega)]
  have f0 : ¬ (fld wd 0 17 = 64 ∧ fld wd 23 3 = 0) := by unfold fld; omega
  have f1 : ¬ (fld wd 0 26 = 0) := by unfold fld; omega
  have f2 : ¬ (fld wd 0 26 = 32) := by unfold fld; omega
  have f3 : ¬ (fld wd 0 12 = 8 ∧ fld wd 17 1 = 0 ∧ fld wd 23 3 = 0) := by unfold fld; omega
  have f4 : fld wd 0 23 = 16 := by unfold fld; omega
  have f5 : bv wd 23 3 = z := bv_eq (by omega)
  unfold decode24
  rw [if_neg f0, if_neg f1, if_neg f2, if_neg f3, if_pos f4]
  simp only [f5]

theorem mma (z : ZReg) (a b : VReg) (m n : Bool) (c : MmaAcc) : Statement (.mma z a b m n c) := by
  intro h
  have b_z := z.isLt
  have b_a := a.isLt
  have b_b := b.isLt
  have b_m := m.toNat_lt
  have b_n := n.toNat_lt
  have b_c := c.code_lt
  obtain ⟨wd, e⟩ : ∃ wd, wd = z.toNat * 2 ^ 23 + (a.toNat * 2 ^ 17 + (b.toNat * 2 ^ 11 + (m.toNat * 2 ^ 6 + (n.toNat * 2 ^ 5 + (c.code * 2 ^ 3 + 37 * 2 ^ 26))))) := ⟨_, rfl⟩
  rw [show encode (.mma z a b m n c) = wd from e.symm]
  refine decode_of_fields ?_ h
  rw [decodeFields_25 (by unfold fld; omega)]
  have f0 : fld wd 0 3 = 0 := by unfold fld; omega
  have f1 : fld wd 7 4 = 0 := by unfold fld; omega
  have f2 : bv wd 23 3 = z := bv_eq (by omega)
  have f3 : bv wd 17 6 = a := bv_eq (by omega)
  have f4 : bv wd 11 6 = b := bv_eq (by omega)
  have f5 : bit wd 6 = m := bit_eq (by omega)
  have f6 : bit wd 5 = n := bit_eq (by omega)
  have f7 : fld wd 3 2 = c.code := by unfold fld; omega
  unfold decode25
  rw [if_pos ⟨f0, f1⟩]
  simp only [f2, f3, f4, f5, f6, f7, MmaAcc.ofCode_code, Option.bind_some]

theorem mmas (z : ZReg) (a b : VReg) (k : BitVec 3) (m n : Bool) (c : MmaAcc) : Statement (.mmas z a b k m n c) := by
  intro h
  have b_z := z.isLt
  have b_a := a.isLt
  have b_b := b.isLt
  have b_k := k.isLt
  have b_m := m.toNat_lt
  have b_n := n.toNat_lt
  have b_c := c.code_lt
  obtain ⟨wd, e⟩ : ∃ wd, wd = 0x1 * 2 ^ 10 + (z.toNat * 2 ^ 23 + (a.toNat * 2 ^ 17 + (b.toNat * 2 ^ 11 + (k.toNat * 2 ^ 7 + (m.toNat * 2 ^ 6 + (n.toNat * 2 ^ 5 + (c.code * 2 ^ 3 + 37 * 2 ^ 26))))))) := ⟨_, rfl⟩
  rw [show encode (.mmas z a b k m n c) = wd from e.symm]
  refine decode_of_fields ?_ h
  rw [decodeFields_25 (by unfold fld; omega)]
  have f0 : ¬ (fld wd 0 3 = 0 ∧ fld wd 7 4 = 0) := by unfold fld; omega
  have f1 : fld wd 0 3 = 0 := by unfold fld; omega
  have f2 : fld wd 10 1 = 1 := by unfold fld; omega
  have f3 : bv wd 23 3 = z := bv_eq (by omega)
  have f4 : bv wd 17 6 = a := bv_eq (by omega)
  have f5 : bv wd 11 6 = b := bv_eq (by omega)
  have f6 : bv wd 7 3 = k := bv_eq (by omega)
  have f7 : bit wd 6 = m := bit_eq (by omega)
  have f8 : bit wd 5 = n := bit_eq (by omega)
  have f9 : fld wd 3 2 = c.code := by unfold fld; omega
  unfold decode25
  rw [if_neg f0, if_pos ⟨f1, f2⟩]
  simp only [f3, f4, f5, f6, f7, f8, f9, MmaAcc.ofCode_code, Option.bind_some]

theorem zld (z : ZReg) (a b : SReg) : Statement (.zld z a b) := by
  intro h
  have b_z := z.isLt
  have b_a := a.isLt
  have b_b := b.isLt
  obtain ⟨wd, e⟩ : ∃ wd, wd = z.toNat * 2 ^ 23 + (a.toNat * 2 ^ 18 + (b.toNat * 2 ^ 12 + 38 * 2 ^ 26)) := ⟨_, rfl⟩
  rw [show encode (.zld z a b) = wd from e.symm]
  refine decode_of_fields ?_ h
  rw [decodeFields_26 (by unfold fld; omega)]
  have f0 : fld wd 3 2 = 0 := by unfold fld; omega
  have f1 : fld wd 5 7 = 0 := by unfold fld; omega
  have f2 : fld wd 0 3 = 0 := by unfold fld; omega
  have f3 : fld wd 17 1 = 0 := by unfold fld; omega
  have f4 : bv wd 23 3 = z := bv_eq (by omega)
  have f5 : bv wd 18 5 = a := bv_eq (by omega)
  have f6 : bv wd 12 5 = b := bv_eq (by omega)
  simp only [decode26, f0, f1, f2, f3, f4, f5, f6, and_self, reduceIte]

theorem zst (z : ZReg) (a b : SReg) : Statement (.zst z a b) := by
  intro h
  have b_z := z.isLt
  have b_a := a.isLt
  have b_b := b.isLt
  obtain ⟨wd, e⟩ : ∃ wd, wd = 1 * 2 ^ 3 + (z.toNat * 2 ^ 23 + (a.toNat * 2 ^ 18 + (b.toNat * 2 ^ 12 + 38 * 2 ^ 26))) := ⟨_, rfl⟩
  rw [show encode (.zst z a b) = wd from e.symm]
  refine decode_of_fields ?_ h
  rw [decodeFields_26 (by unfold fld; omega)]
  have f0 : fld wd 3 2 = 1 := by unfold fld; omega
  have f1 : fld wd 5 7 = 0 := by unfold fld; omega
  have f2 : fld wd 0 3 = 0 := by unfold fld; omega
  have f3 : fld wd 17 1 = 0 := by unfold fld; omega
  have f4 : bv wd 23 3 = z := bv_eq (by omega)
  have f5 : bv wd 18 5 = a := bv_eq (by omega)
  have f6 : bv wd 12 5 = b := bv_eq (by omega)
  simp only [decode26, f0, f1, f2, f3, f4, f5, f6, and_self, reduceIte]

theorem bdim (a : SReg) (r : BitVec 6) : Statement (.bdim a r) := by
  intro h
  have b_a := a.isLt
  have b_r := r.isLt
  obtain ⟨wd, e⟩ : ∃ wd, wd = a.toNat * 2 ^ 21 + (r.toNat * 2 ^ 0 + 39 * 2 ^ 26) := ⟨_, rfl⟩
  rw [show encode (.bdim a r) = wd from e.symm]
  refine decode_of_fields ?_ h
  rw [decodeFields_27 (by unfold fld; omega)]
  have f0 : fld wd 6 5 = 0 := by unfold fld; omega
  have f1 : fld wd 11 10 = 0 := by unfold fld; omega
  have f2 : bv wd 21 5 = a := bv_eq (by omega)
  have f3 : bv wd 0 6 = r := bv_eq (by omega)
  simp only [decode27, f0, f1, f2, f3, and_self, reduceIte]

theorem bcon (a : SReg) (k : BitVec 6) : Statement (.bcon a k) := by
  intro h
  have b_a := a.isLt
  have b_k := k.isLt
  obtain ⟨wd, e⟩ : ∃ wd, wd = 1 * 2 ^ 6 + (a.toNat * 2 ^ 21 + (k.toNat * 2 ^ 0 + 39 * 2 ^ 26)) := ⟨_, rfl⟩
  rw [show encode (.bcon a k) = wd from e.symm]
  refine decode_of_fields ?_ h
  rw [decodeFields_27 (by unfold fld; omega)]
  have f0 : fld wd 6 5 = 1 := by unfold fld; omega
  have f1 : fld wd 11 10 = 0 := by unfold fld; omega
  have f2 : bv wd 21 5 = a := bv_eq (by omega)
  have f3 : bv wd 0 6 = k := bv_eq (by omega)
  simp only [decode27, f0, f1, f2, f3, and_self, reduceIte]

theorem brun (a : SReg) : Statement (.brun a) := by
  intro h
  have b_a := a.isLt
  obtain ⟨wd, e⟩ : ∃ wd, wd = 2 * 2 ^ 6 + (a.toNat * 2 ^ 21 + 39 * 2 ^ 26) := ⟨_, rfl⟩
  rw [show encode (.brun a) = wd from e.symm]
  refine decode_of_fields ?_ h
  rw [decodeFields_27 (by unfold fld; omega)]
  have f0 : fld wd 6 5 = 2 := by unfold fld; omega
  have f1 : fld wd 11 10 = 0 := by unfold fld; omega
  have f2 : fld wd 0 6 = 0 := by unfold fld; omega
  have f3 : bv wd 21 5 = a := bv_eq (by omega)
  simp only [decode27, f0, f1, f2, f3, and_self, reduceIte]

theorem bondStep : Statement .bondStep := by
  intro h; exact absurd h Bool.false_ne_true

theorem bld (a b : SReg) : Statement (.bld a b) := by
  intro h
  have b_a := a.isLt
  have b_b := b.isLt
  obtain ⟨wd, e⟩ : ∃ wd, wd = 3 * 2 ^ 6 + (a.toNat * 2 ^ 21 + (b.toNat * 2 ^ 16 + 39 * 2 ^ 26)) := ⟨_, rfl⟩
  rw [show encode (.bld a b) = wd from e.symm]
  refine decode_of_fields ?_ h
  rw [decodeFields_27 (by unfold fld; omega)]
  have f0 : fld wd 6 5 = 3 := by unfold fld; omega
  have f1 : fld wd 11 5 = 0 := by unfold fld; omega
  have f2 : fld wd 0 6 = 0 := by unfold fld; omega
  have f3 : bv wd 21 5 = a := bv_eq (by omega)
  have f4 : bv wd 16 5 = b := bv_eq (by omega)
  simp only [decode27, f0, f1, f2, f3, f4, and_self, reduceIte]

theorem bst (a b : SReg) : Statement (.bst a b) := by
  intro h
  have b_a := a.isLt
  have b_b := b.isLt
  obtain ⟨wd, e⟩ : ∃ wd, wd = 4 * 2 ^ 6 + (a.toNat * 2 ^ 21 + (b.toNat * 2 ^ 16 + 39 * 2 ^ 26)) := ⟨_, rfl⟩
  rw [show encode (.bst a b) = wd from e.symm]
  refine decode_of_fields ?_ h
  rw [decodeFields_27 (by unfold fld; omega)]
  have f0 : fld wd 6 5 = 4 := by unfold fld; omega
  have f1 : fld wd 11 5 = 0 := by unfold fld; omega
  have f2 : fld wd 0 6 = 0 := by unfold fld; omega
  have f3 : bv wd 21 5 = a := bv_eq (by omega)
  have f4 : bv wd 16 5 = b := bv_eq (by omega)
  simp only [decode27, f0, f1, f2, f3, f4, and_self, reduceIte]

theorem cpy (a b c : SReg) : Statement (.cpy a b c) := by
  intro h
  have b_a := a.isLt
  have b_b := b.isLt
  have b_c := c.isLt
  obtain ⟨wd, e⟩ : ∃ wd, wd = a.toNat * 2 ^ 21 + (b.toNat * 2 ^ 16 + (c.toNat * 2 ^ 11 + 40 * 2 ^ 26)) := ⟨_, rfl⟩
  rw [show encode (.cpy a b c) = wd from e.symm]
  refine decode_of_fields ?_ h
  rw [decodeFields_28 (by unfold fld; omega)]
  have f0 : fld wd 0 11 = 0 := by unfold fld; omega
  have f1 : bv wd 21 5 = a := bv_eq (by omega)
  have f2 : bv wd 16 5 = b := bv_eq (by omega)
  have f3 : bv wd 11 5 = c := bv_eq (by omega)
  simp only [decode28, f0, f1, f2, f3, and_self, reduceIte]

theorem cpyComplete (i : Nat) : Statement (.cpyComplete i) := by
  intro h; exact absurd h Bool.false_ne_true

theorem launch (a : SReg) : Statement (.launch a) := by
  intro h
  have b_a := a.isLt
  obtain ⟨wd, e⟩ : ∃ wd, wd = a.toNat * 2 ^ 21 + 41 * 2 ^ 26 := ⟨_, rfl⟩
  rw [show encode (.launch a) = wd from e.symm]
  refine decode_of_fields ?_ h
  rw [decodeFields_29 (by unfold fld; omega)]
  have f0 : fld wd 6 5 = 0 := by unfold fld; omega
  have f1 : fld wd 11 10 = 0 := by unfold fld; omega
  have f2 : fld wd 0 6 = 0 := by unfold fld; omega
  have f3 : bv wd 21 5 = a := bv_eq (by omega)
  simp only [decode29, f0, f1, f2, f3, and_self, reduceIte]

theorem launchP (a : SReg) : Statement (.launchP a) := by
  intro h
  have b_a := a.isLt
  obtain ⟨wd, e⟩ : ∃ wd, wd = 1 * 2 ^ 6 + (a.toNat * 2 ^ 21 + 41 * 2 ^ 26) := ⟨_, rfl⟩
  rw [show encode (.launchP a) = wd from e.symm]
  refine decode_of_fields ?_ h
  rw [decodeFields_29 (by unfold fld; omega)]
  have f0 : fld wd 6 5 = 1 := by unfold fld; omega
  have f1 : fld wd 11 10 = 0 := by unfold fld; omega
  have f2 : fld wd 0 6 = 0 := by unfold fld; omega
  have f3 : bv wd 21 5 = a := bv_eq (by omega)
  simp only [decode29, f0, f1, f2, f3, and_self, reduceIte]

theorem shape (a b : SReg) : Statement (.shape a b) := by
  intro h
  have b_a := a.isLt
  have b_b := b.isLt
  obtain ⟨wd, e⟩ : ∃ wd, wd = 2 * 2 ^ 6 + (a.toNat * 2 ^ 21 + (b.toNat * 2 ^ 16 + 41 * 2 ^ 26)) := ⟨_, rfl⟩
  rw [show encode (.shape a b) = wd from e.symm]
  refine decode_of_fields ?_ h
  rw [decodeFields_29 (by unfold fld; omega)]
  have f0 : fld wd 6 5 = 2 := by unfold fld; omega
  have f1 : fld wd 11 5 = 0 := by unfold fld; omega
  have f2 : fld wd 0 6 = 0 := by unfold fld; omega
  have f3 : bv wd 21 5 = a := bv_eq (by omega)
  have f4 : bv wd 16 5 = b := bv_eq (by omega)
  simp only [decode29, f0, f1, f2, f3, f4, and_self, reduceIte]

theorem trig : Statement .trig := by
  intro h; rfl

theorem wpred : Statement .wpred := by
  intro h; rfl

theorem bar : Statement .bar := by
  intro h; rfl

theorem endI : Statement .endI := by
  intro h; rfl

theorem spawn (a b c : SReg) : Statement (.spawn a b c) := by
  intro h
  have b_a := a.isLt
  have b_b := b.isLt
  have b_c := c.isLt
  obtain ⟨wd, e⟩ : ∃ wd, wd = a.toNat * 2 ^ 21 + (b.toNat * 2 ^ 16 + (c.toNat * 2 ^ 11 + 42 * 2 ^ 26)) := ⟨_, rfl⟩
  rw [show encode (.spawn a b c) = wd from e.symm]
  refine decode_of_fields ?_ h
  rw [decodeFields_2A (by unfold fld; omega)]
  have f0 : fld wd 6 5 = 0 := by unfold fld; omega
  have f1 : fld wd 0 6 = 0 := by unfold fld; omega
  have f2 : bv wd 21 5 = a := bv_eq (by omega)
  have f3 : bv wd 16 5 = b := bv_eq (by omega)
  have f4 : bv wd 11 5 = c := bv_eq (by omega)
  simp only [decode2A, f0, f1, f2, f3, f4, and_self, reduceIte]

theorem dqpush (a b : SReg) : Statement (.dqpush a b) := by
  intro h
  have b_a := a.isLt
  have b_b := b.isLt
  obtain ⟨wd, e⟩ : ∃ wd, wd = 1 * 2 ^ 6 + (a.toNat * 2 ^ 21 + (b.toNat * 2 ^ 16 + 42 * 2 ^ 26)) := ⟨_, rfl⟩
  rw [show encode (.dqpush a b) = wd from e.symm]
  refine decode_of_fields ?_ h
  rw [decodeFields_2A (by unfold fld; omega)]
  have f0 : fld wd 6 5 = 1 := by unfold fld; omega
  have f1 : fld wd 11 5 = 0 := by unfold fld; omega
  have f2 : fld wd 0 6 = 0 := by unfold fld; omega
  have f3 : bv wd 21 5 = a := bv_eq (by omega)
  have f4 : bv wd 16 5 = b := bv_eq (by omega)
  simp only [decode2A, f0, f1, f2, f3, f4, and_self, reduceIte]

theorem dqpop (a b : SReg) : Statement (.dqpop a b) := by
  intro h
  have b_a := a.isLt
  have b_b := b.isLt
  obtain ⟨wd, e⟩ : ∃ wd, wd = 2 * 2 ^ 6 + (a.toNat * 2 ^ 21 + (b.toNat * 2 ^ 16 + 42 * 2 ^ 26)) := ⟨_, rfl⟩
  rw [show encode (.dqpop a b) = wd from e.symm]
  refine decode_of_fields ?_ h
  rw [decodeFields_2A (by unfold fld; omega)]
  have f0 : fld wd 6 5 = 2 := by unfold fld; omega
  have f1 : fld wd 11 5 = 0 := by unfold fld; omega
  have f2 : fld wd 0 6 = 0 := by unfold fld; omega
  have f3 : bv wd 21 5 = a := bv_eq (by omega)
  have f4 : bv wd 16 5 = b := bv_eq (by omega)
  simp only [decode2A, f0, f1, f2, f3, f4, and_self, reduceIte]

theorem dqsteal (a b c : SReg) : Statement (.dqsteal a b c) := by
  intro h
  have b_a := a.isLt
  have b_b := b.isLt
  have b_c := c.isLt
  obtain ⟨wd, e⟩ : ∃ wd, wd = 3 * 2 ^ 6 + (a.toNat * 2 ^ 21 + (b.toNat * 2 ^ 16 + (c.toNat * 2 ^ 11 + 42 * 2 ^ 26))) := ⟨_, rfl⟩
  rw [show encode (.dqsteal a b c) = wd from e.symm]
  refine decode_of_fields ?_ h
  rw [decodeFields_2A (by unfold fld; omega)]
  have f0 : fld wd 6 5 = 3 := by unfold fld; omega
  have f1 : fld wd 0 6 = 0 := by unfold fld; omega
  have f2 : bv wd 21 5 = a := bv_eq (by omega)
  have f3 : bv wd 16 5 = b := bv_eq (by omega)
  have f4 : bv wd 11 5 = c := bv_eq (by omega)
  simp only [decode2A, f0, f1, f2, f3, f4, and_self, reduceIte]

theorem fwait (a b : SReg) : Statement (.fwait a b) := by
  intro h
  have b_a := a.isLt
  have b_b := b.isLt
  obtain ⟨wd, e⟩ : ∃ wd, wd = a.toNat * 2 ^ 21 + (b.toNat * 2 ^ 16 + 43 * 2 ^ 26) := ⟨_, rfl⟩
  rw [show encode (.fwait a b) = wd from e.symm]
  refine decode_of_fields ?_ h
  rw [decodeFields_2B (by unfold fld; omega)]
  have f0 : fld wd 6 5 = 0 := by unfold fld; omega
  have f1 : fld wd 11 5 = 0 := by unfold fld; omega
  have f2 : fld wd 0 6 = 0 := by unfold fld; omega
  have f3 : bv wd 21 5 = a := bv_eq (by omega)
  have f4 : bv wd 16 5 = b := bv_eq (by omega)
  simp only [decode2B, f0, f1, f2, f3, f4, and_self, reduceIte]

theorem fput (a b : SReg) : Statement (.fput a b) := by
  intro h
  have b_a := a.isLt
  have b_b := b.isLt
  obtain ⟨wd, e⟩ : ∃ wd, wd = 1 * 2 ^ 6 + (a.toNat * 2 ^ 21 + (b.toNat * 2 ^ 16 + 43 * 2 ^ 26)) := ⟨_, rfl⟩
  rw [show encode (.fput a b) = wd from e.symm]
  refine decode_of_fields ?_ h
  rw [decodeFields_2B (by unfold fld; omega)]
  have f0 : fld wd 6 5 = 1 := by unfold fld; omega
  have f1 : fld wd 11 5 = 0 := by unfold fld; omega
  have f2 : fld wd 0 6 = 0 := by unfold fld; omega
  have f3 : bv wd 21 5 = a := bv_eq (by omega)
  have f4 : bv wd 16 5 = b := bv_eq (by omega)
  simp only [decode2B, f0, f1, f2, f3, f4, and_self, reduceIte]

theorem yield : Statement .yield := by
  intro h; rfl

theorem yieldPauseEnd : Statement .yieldPauseEnd := by
  intro h; exact absurd h Bool.false_ne_true

theorem trace (a : SReg) (c : BitVec 6) : Statement (.trace a c) := by
  intro h
  have b_a := a.isLt
  have b_c := c.isLt
  obtain ⟨wd, e⟩ : ∃ wd, wd = a.toNat * 2 ^ 21 + (c.toNat * 2 ^ 0 + 44 * 2 ^ 26) := ⟨_, rfl⟩
  rw [show encode (.trace a c) = wd from e.symm]
  refine decode_of_fields ?_ h
  rw [decodeFields_2C (by unfold fld; omega)]
  have f0 : fld wd 6 15 = 0 := by unfold fld; omega
  have f1 : bv wd 21 5 = a := bv_eq (by omega)
  have f2 : bv wd 0 6 = c := bv_eq (by omega)
  simp only [decode2C, f0, f1, f2, and_self, reduceIte]

theorem traceRecordWrite (core : Nat) : Statement (.traceRecordWrite core) := by
  intro h; exact absurd h Bool.false_ne_true

theorem vtag (d a : VReg) (t : Tag) : Statement (.vtag d a t) := by
  intro h
  have b_d := d.isLt
  have b_a := a.isLt
  have b_t := t.code_lt
  obtain ⟨wd, e⟩ : ∃ wd, wd = d.toNat * 2 ^ 20 + (a.toNat * 2 ^ 14 + (t.code * 2 ^ 0 + 45 * 2 ^ 26)) := ⟨_, rfl⟩
  rw [show encode (.vtag d a t) = wd from e.symm]
  refine decode_of_fields ?_ h
  rw [decodeFields_2D (by unfold fld; omega)]
  have f0 : fld wd 3 11 = 0 := by unfold fld; omega
  have f1 : bv wd 20 6 = d := bv_eq (by omega)
  have f2 : bv wd 14 6 = a := bv_eq (by omega)
  have f3 : fld wd 0 3 = t.code := by unfold fld; omega
  simp only [decode2D, f0, f1, f2, f3, Tag.ofCode_code, Option.bind_some, and_self, reduceIte]

theorem tok (w : Bool) (x : BitVec 3) (s : Bool) (y : BitVec 3) : Statement (.tok w x s y) := by
  intro h
  have b_w := w.toNat_lt
  have b_x := x.isLt
  have b_s := s.toNat_lt
  have b_y := y.isLt
  obtain ⟨wd, e⟩ : ∃ wd, wd = w.toNat * 2 ^ 25 + (x.toNat * 2 ^ 22 + (s.toNat * 2 ^ 21 + (y.toNat * 2 ^ 18 + 48 * 2 ^ 26))) := ⟨_, rfl⟩
  rw [show encode (.tok w x s y) = wd from e.symm]
  refine decode_of_fields ?_ h
  rw [decodeFields_30 (by unfold fld; omega)]
  have f0 : fld wd 0 18 = 0 := by unfold fld; omega
  have f1 : bit wd 25 = w := bit_eq (by omega)
  have f2 : bv wd 22 3 = x := bv_eq (by omega)
  have f3 : bit wd 21 = s := bit_eq (by omega)
  have f4 : bv wd 18 3 = y := bv_eq (by omega)
  simp only [decode30, f0, f1, f2, f3, f4, and_self, reduceIte]

theorem ext (v : BitVec 26) : Statement (.ext v) := by
  intro h
  have b_v := v.isLt
  obtain ⟨wd, e⟩ : ∃ wd, wd = v.toNat * 2 ^ 0 + 49 * 2 ^ 26 := ⟨_, rfl⟩
  rw [show encode (.ext v) = wd from e.symm]
  refine decode_of_fields ?_ h
  rw [decodeFields_31 (by unfold fld; omega)]
  have f0 : bv wd 0 26 = v := bv_eq (by omega)
  simp only [decode31, f0, and_self, reduceIte]

theorem passStrip : Statement .passStrip := by
  intro h; exact absurd h Bool.false_ne_true

theorem passElementStop (e : Nat) : Statement (.passElementStop e) := by
  intro h; exact absurd h Bool.false_ne_true

theorem spadReadRequest : Statement .spadReadRequest := by
  intro h; exact absurd h Bool.false_ne_true

theorem spadReadReply : Statement .spadReadReply := by
  intro h; exact absurd h Bool.false_ne_true

theorem spadWrite : Statement .spadWrite := by
  intro h; exact absurd h Bool.false_ne_true

theorem spadWriteAck : Statement .spadWriteAck := by
  intro h; exact absurd h Bool.false_ne_true

theorem hartStart (gang j : Nat) : Statement (.hartStart gang j) := by
  intro h; exact absurd h Bool.false_ne_true

theorem shapePublication : Statement .shapePublication := by
  intro h; exact absurd h Bool.false_ne_true

theorem hartConfirm : Statement .hartConfirm := by
  intro h; exact absurd h Bool.false_ne_true

theorem hartSquash : Statement .hartSquash := by
  intro h; exact absurd h Bool.false_ne_true

theorem timer : Statement .timer := by
  intro h; exact absurd h Bool.false_ne_true

theorem watchRecord : Statement .watchRecord := by
  intro h; exact absurd h Bool.false_ne_true

theorem watchimp : Statement .watchimp := by
  intro h; exact absurd h Bool.false_ne_true

theorem machine : Statement .machine := by
  intro h; exact absurd h Bool.false_ne_true

theorem remoteAccessTimeout : Statement .remoteAccessTimeout := by
  intro h; exact absurd h Bool.false_ne_true

theorem packageReset (b : BootInputs) : Statement (.packageReset b) := by
  intro h; exact absurd h Bool.false_ne_true

theorem healthReport : Statement .healthReport := by
  intro h; exact absurd h Bool.false_ne_true

theorem healthTimeout (b : BootInputs) : Statement (.healthTimeout b) := by
  intro h; exact absurd h Bool.false_ne_true

theorem firmwareUpdate (u : FirmwareUpload) : Statement (.firmwareUpdate u) := by
  intro h; exact absurd h Bool.false_ne_true

theorem mbxCoreDump : Statement .mbxCoreDump := by
  intro h; exact absurd h Bool.false_ne_true

theorem mbxMigratePage : Statement .mbxMigratePage := by
  intro h; exact absurd h Bool.false_ne_true

theorem mbxReadSensors : Statement .mbxReadSensors := by
  intro h; exact absurd h Bool.false_ne_true

theorem mbxAttestation : Statement .mbxAttestation := by
  intro h; exact absurd h Bool.false_ne_true

theorem mbxReadEventLog : Statement .mbxReadEventLog := by
  intro h; exact absurd h Bool.false_ne_true

theorem migrationChunkCopied (i : Nat) : Statement (.migrationChunkCopied i) := by
  intro h; exact absurd h Bool.false_ne_true

theorem linkRetrain (a b : Nat) (ok : Bool) : Statement (.linkRetrain a b ok) := by
  intro h; exact absurd h Bool.false_ne_true

theorem powerLimitThrottle : Statement .powerLimitThrottle := by
  intro h; exact absurd h Bool.false_ne_true

theorem powerLimitRecover : Statement .powerLimitRecover := by
  intro h; exact absurd h Bool.false_ne_true

theorem thermalThrottle (cluster : Nat) : Statement (.thermalThrottle cluster) := by
  intro h; exact absurd h Bool.false_ne_true

theorem thermalShutdown : Statement .thermalShutdown := by
  intro h; exact absurd h Bool.false_ne_true

theorem laneRemapWrite (core : Nat) (assigned : BitVec 136) (lmod : Nat) : Statement (.laneRemapWrite core assigned lmod) := by
  intro h; exact absurd h Bool.false_ne_true

theorem remoteDeviceAccess (r : RemoteRequest) : Statement (.remoteDeviceAccess r) := by
  intro h; exact absurd h Bool.false_ne_true

theorem illegalEncoding : Statement .illegalEncoding := by
  intro h; exact absurd h Bool.false_ne_true

theorem fetchFault : Statement .fetchFault := by
  intro h; exact absurd h Bool.false_ne_true

end Sys2Proof.Laws.RoundTrip
end

