-- ==== Sys2Proof/Tests/Slice0.lean ====
section
/-! SUPPORT. Tests: the well-formedness checks, words written out from the encoding tables of the manual, a witness for the
hypotheses of each statement, and small tests of single steps. -/

namespace Sys2Proof.Tests

open Sys2Proof Sys2Proof.Machine Sys2Proof.Claims

set_option maxRecDepth 20000

/-! ### States -/

/-- The code address of the test hart: its local scratchpad window. -/
def home : Word := 0x0070000000001000

/-- A running hart at S with 64 vector registers, VL 8 and a handler; s8 holds an address of the window, s9 7 and s10 16. -/
def hart0 : Hart := { Hart.reset 0 0 0 false with
  status := .running
  level := .s
  pc := home
  regs := ((Vector.replicate 136 (0 : Word)).set 8 0x0070000000002000 |>.set 9 7 |>.set 10 16)
  cr := { CtrlRegs.reset with nv := 64, vl := 8, tvec := home, estatus := 2 } }

def base : State := { State.reset with me := hart0 }

/-- Changes to parts of a state. -/
def onMe (f : Hart → Hart) (s : State) : State := { s with me := f s.me }
def onVec (f : VecState → VecState) (s : State) : State := { s with me := { s.me with vec := f s.me.vec } }
def onCr (f : CtrlRegs → CtrlRegs) (s : State) : State := { s with me := { s.me with cr := f s.me.cr } }

/-- A physical scalar set. -/
def put (r : Fin 136) (v : Word) (s : State) : State := { s with me := { s.me with regs := s.me.regs.set r v } }

/-- The location of the scratchpad byte at an offset of the local window. -/
def at_ (x : Nat) : Nat := 2 ^ 52 + x

/-- Memory that holds bytes at an offset of the local window. -/
def holding (x : Nat) (bs : List Byte) (s : State) : State := { s with mem := memPut s.mem (at_ x) bs }

/-- Ready is decided by its parts. -/
def readyDec (g : Gate) (s : State) : Decidable (Ready g s) := by
  unfold Ready Issues TokenReady NoPassFirst; infer_instance

theorem ready {g : Gate} {s : State} (h : @decide _ (readyDec g s) = true) : Ready g s :=
  @of_decide_eq_true _ (readyDec g s) h

/-! ### Witnesses for the hypotheses of the statements -/

theorem witness_ScalarIntegerResult :
    (Instr.add 0 8 9 true).wf = true ∧ (∃ v, aluSpec (.add 0 8 9 true) base.me = some (0, [0, 8, 9], false, v))
      ∧ Ready (scalarGate [0, 8, 9] false) base ∧ (Instr.li 7 0x1FFFFF).wf = true
      ∧ (∃ v, aluSpec (.li 7 0x1FFFFF) base.me = some (7, [7], true, v)) ∧ Ready (scalarGate [7] true) base :=
  ⟨rfl, ⟨_, rfl⟩, ready (by decide), rfl, ⟨_, rfl⟩, ready (by decide)⟩

theorem witness_ScalarFloatResult :
    (∃ b f, fpSpec (.fdiv 9 8 0 true) base = some (9, [9, 8, 0], b, f)) ∧ Ready (scalarGate [9, 8, 0] false) base :=
  ⟨⟨_, _, rfl⟩, ready (by decide)⟩

theorem witness_MemoryBytes :
    (base.place (at_ 0x2000) = .ram ∧ base.hasError (at_ 0x2000) 8 = false ∧ base.me.prov = [] ∧ memWf base.mem = true)
      ∧ ¬ (at_ 0x2000 ≤ at_ 0x2008 ∧ at_ 0x2008 < at_ 0x2000 + (leBytes 8 1).length)
      ∧ (onCr (fun c => { c with confirmed := false }) base).me.cr.confirmed = false
      ∧ leBytes 8 1 ≠ [] ∧ (onCr (fun c => { c with confirmed := false }) base).me.touches (at_ 0x2000) 8 = false
      ∧ ¬ (base.me.allocBase ≤ at_ 0x2000 ∧ at_ 0x2000 < base.me.allocBase + base.me.spad) := by
  refine ⟨⟨rfl, rfl, rfl, rfl⟩, ?_, rfl, ?_, ?_, ?_⟩ <;> decide

theorem witness_LoadStoreResult :
    Ready (scalarGate [7, 8] true) base ∧ MayRead base (address base.me 8 0x1FFF) 1 base (at_ 0x1FFF)
      ∧ MayWrite base .write (address base.me 8 0xFF8) 8 base (at_ 0x2FF8) ∧ base.provRoom (at_ 0x2FF8) 8 = true
      ∧ (address base.me 8 1).toNat % 8 ≠ 0 ∧ (address base.me 8 1).toNat % 2 ≠ 0 :=
  ⟨ready (by decide), ⟨by decide, rfl, by decide, .inr (by decide), by decide⟩,
    ⟨by decide, rfl, by decide, .inr (by decide), by decide⟩, by decide, by decide, by decide⟩

theorem witness_LoadStoreResult_amo :
    amoSpec (.amoAdd 7 9 10 true .ar .core) = some (.add, 7, 9, 10, 8) ∧ Ready (scalarGate [7, 9, 10] false) base
      ∧ base.me.cr.confirmed = true ∧ (base.me.reg 9).toNat % 8 ≠ 0 := ⟨rfl, ready (by decide), rfl, by decide⟩

theorem witness_AtomicResult :
    amoSpec (.amoCas 7 8 9 false .ar .core) = some (.cas, 7, 8, 9, 4) ∧ Ready (scalarGate [7, 8, 9] false) base
      ∧ base.wouldRun = false ∧ base.me.cr.confirmed = true ∧ MayWrite base .amo (base.me.reg 8) 4 base (at_ 0x2000)
      ∧ base.place (at_ 0x2000) = .ram ∧ base.hasError (at_ 0x2000) 4 = false
      ∧ Issues (scalarGate [7, 8, 9] false) (onCr (fun c => { c with confirmed := false }) base)
      ∧ (onCr (fun c => { c with confirmed := false }) base).me.cr.confirmed = false :=
  ⟨rfl, ready (by decide), by decide, rfl, ⟨by decide, rfl, by decide, .inr (by decide), by decide⟩, rfl, rfl,
    (ready (by decide)).1, rfl⟩

theorem witness_FenceResult :
    Ready {} base ∧ plainFence (.fenceFull .system) = true ∧ base.wouldRun = false ∧ base.me.copies = []
      ∧ (∀ r ∈ base.myCore.traceFifo, r.owner ≠ base.me.num) ∧ Ready { supervisor := true } base
      ∧ ∀ h ∈ base.harts, ∀ c ∈ h.copies, ∀ t ∈ c.pins, tlbNamed base.me.cr.tlbinva t = false :=
  ⟨ready (by decide), rfl, by decide, rfl, by decide, ready (by decide), by decide⟩

theorem witness_BranchAndLoopResult :
    Ready (scalarGate [8, 9] true) base ∧ taken .ltu (base.me.reg 9) (base.me.reg 8)
      ∧ ¬ taken .ltu (base.me.reg 8) (base.me.reg 9) ∧ Ready (scalarGate [] true) base ∧ copies55 (wordTarget base.me 4 13)
      ∧ (∃ s, Ready (scalarGate [] true) s ∧ ¬ copies55 (wordTarget s.me 0x1FFF 13)) := by
  refine ⟨ready (by decide), by unfold taken; decide, by unfold taken; decide, ready (by decide), ?_,
    onMe (fun h => { h with pc := 0x007FFFFFFFFFFFFC, ext := some 0 }) base, ready (by decide), ?_⟩
  · intro k h1 h2; have : k = 56 ∨ k = 57 ∨ k = 58 ∨ k = 59 ∨ k = 60 ∨ k = 61 ∨ k = 62 ∨ k = 63 := by omega
    rcases this with h | h | h | h | h | h | h | h <;> subst h <;> decide
  · intro h; exact absurd (h 56 (by decide) (by decide)) (by decide)

theorem witness_BranchAndLoopResult_registers :
    Ready (scalarGate [8] false) base ∧ (base.me.reg 8).toNat % 4 = 0 ∧ (base.me.reg 9).toNat % 4 ≠ 0
      ∧ Ready (scalarGate [9] true) base ∧ 1 ≤ plainImm base.me 1 21 ∧ base.me.reg 9 ≠ 0 ∧ base.me.reg 7 = 0 :=
  ⟨ready (by decide), by decide, by decide, ready (by decide), by decide, by decide, by decide⟩

/-- A hart that has called once. -/
def inCall : State := called base .regs24

/-- A hart whose window is full. -/
def deep : State := onMe (fun h => { h with
  wbase := 104
  wlo := 0
  rets := List.replicate 5 (home, Frame.regs24)
  spad := 0x10000
  cr := { h.cr with spillp := 0x0070000000000400 }
  wsp := 0x0070000000000400
  rsp := 0x00700000000003F8 }) base

theorem witness_CallReturnResult :
    Ready (scalarGate [] true) base ∧ CallFits base .regs24 ∧ Ready (scalarGate [8] false) base
      ∧ (base.me.reg 8).toNat % 4 = 0 ∧ Ready {} inCall ∧ inCall.me.rets = [(home + 4, .regs24)]
      ∧ inCall.me.wlo + frameRegs .regs24 ≤ inCall.me.wbase :=
  ⟨ready (by decide), ⟨by decide, by decide⟩, ready (by decide), by decide, ready (by decide), rfl, by decide⟩

theorem witness_WordOffsetTargets :
    Ready (scalarGate [8, 9] true) base ∧ taken .always (base.me.reg 8) (base.me.reg 9) ∧ CallFits base .regs8
      ∧ Ready (scalarGate [9] true) base ∧ 1 ≤ plainImm base.me 0x1FFFFF 21 :=
  ⟨ready (by decide), trivial, ⟨by decide, by decide⟩, ready (by decide), by decide⟩

/-- A hart at the last word of an armed loop with a count. -/
def looping (n : Word) : State := onCr (fun c => { c with lc := n, lstart := home, lend := home ||| 1 }) base

theorem witness_Retirement :
    ((looping 2).me.cr.lend.getLsbD 0 = true
        ∧ ∃ w ∈ (looping 2).me.unitWords, keepBits w 55 2 = keepBits (looping 2).me.cr.lend 55 2)
      ∧ 1 < (looping 2).me.cr.lc.toNat ∧ (looping 1).me.cr.lc.toNat ≤ 1 ∧ (looping 0).me.cr.lc.toNat ≤ 1
      ∧ ¬ base.me.cr.lend.getLsbD 0 = true := by
  refine ⟨⟨by decide, home, by decide, by decide⟩, by decide, by decide, by decide, by decide⟩

/-- A hart that has latched a TOK word: it waits on queue 1 and signals queue 4. -/
def tokened : State := onMe (fun h => { h with
  tok := some (BitVec.ofNat 32 (encode (.tok true 1 true 4)))
  tokens := h.tokens.set 5 2 }) base

theorem witness_Retirement_tokens :
    ∃ w, tokened.me.tok = some w ∧ tokened.me.owed = [] ∧ tokWait w = some 1 ∧ tokSignal w = some 4 ∧ 1 ≠ Queue.s.num
      ∧ 4 ≠ Queue.s.num := ⟨_, rfl, rfl, by decide, by decide, by decide, by decide⟩
theorem witness_TrapEntry :
    (∃ c, (onMe (fun h => { h with copies := [c] }) base).me.copies ≠ []) ∧ base.me.copies = [] ∧ base.me.cr.tvec ≠ 0
      ∧ State.reset.me.cr.tvec = 0 ∧ State.reset.me.copies = [] := by
  refine ⟨⟨⟨0, 0, 1, 0, [], none⟩, ?_⟩, ?_, ?_, ?_, ?_⟩ <;> decide

/-- A hart at U. -/
def atU (s : State) : State := onMe (fun h => { h with level := .u }) s

/-- A hart that fetches outside the windows, where nothing is mapped. -/
def lost : State := onMe (fun h => { h with pc := 0x0000700000000000 }) base

theorem witness_TrapsAndReturn :
    Ready {} base ∧ TrapReady base ∧ TrapReady lost ∧ lost.locate lost.me.pc .fetch = .error .pagefault
      ∧ Ready { supervisor := true } base :=
  ⟨ready (by decide), ⟨rfl, by decide⟩, ⟨rfl, by decide⟩, rfl, ready (by decide)⟩

/-- A watch record of the test hart. -/
def watched : WatchRecord := ⟨0, 0, 1, 0, 2, 0x123, 0x80, true⟩

/-- A hart with every interrupt pending. -/
def interrupted : State :=
  ({ onMe (fun h => { h with machine := [5], cr := { h.cr with timecmp := 0 } }) base with
    cores := [{ Core.reset 0 with watchQueue := [{ watched with owner := 3 }, watched, { watched with id := 9 }] }] } : State)

theorem witness_TrapsAndReturn_interrupts :
    TrapReady interrupted ∧ NoCopyInto interrupted ∧ estatusBit interrupted 1 = true ∧ interrupted.me.cr.timecmp.toNat ≤ interrupted.time.toNat
      ∧ interrupted.myCore.watchQueue = [{ watched with owner := 3 }] ++ watched :: [{ watched with id := 9 }]
      ∧ (∀ x ∈ [{ watched with owner := 3 }], x.owner ≠ interrupted.me.num) ∧ watched.owner = interrupted.me.num
      ∧ interrupted.me.machine = 5 :: []
      ∧ estatusBit (onCr (fun c => { c with estatus := 0 }) base) 1 = false
      ∧ base.time.toNat < base.me.cr.timecmp.toNat ∧ (∀ r ∈ base.myCore.watchQueue, r.owner ≠ base.me.num)
      ∧ base.me.machine = [] := by
  refine ⟨⟨rfl, by decide⟩, ?_, ?_, ?_, ?_, ?_, ?_, ?_, ?_, ?_, ?_, ?_⟩ <;> first | decide | (unfold NoCopyInto; decide)

theorem witness_PrivilegeRule :
    needsS (.cwr 8 0x300) = true ∧ needsS (.cwr 8 0x2FF) = false ∧ needsS (.crd 8 0x309) = true
      ∧ needsS (.crd 8 0x30A) = false ∧ needsS (.cwrTraceRegs 8 1) = true ∧ (atU base).me.level = .u
      ∧ (atU base).me.tokUnsound = false ∧ (atU base).me.tokBad .s = false ∧ (atU base).me.ext = none := by
  refine ⟨?_, ?_, ?_, ?_, ?_, ?_, ?_, ?_, ?_⟩ <;> decide

/-- The causes of R34 one after another: each state meets its clause and no earlier one. -/
theorem witness_IssueOrder :
    ((onMe (fun h => { h with ext := some 0 }) base).me.ext.isSome = true)
      ∧ ((onMe (fun h => { h with miller := true }) base).me.miller = true ∧ (scalarGate [] false).miller = true
        ∧ (mGate [] [] none).miller = false)
      ∧ (atU base).me.level = .u ∧ (mGate [] [] (some true)).mode = some true ∧ base.me.vec.matrix ≠ true
      ∧ (passSide [] [] none).tokAtIssue = true
      ∧ (onMe (fun h => { h with tok := some (BitVec.ofNat 32 (encode (.tok true 1 false 0))) }) base).me.tokBad .v = true
      ∧ base.me.tokBlocked .v = false ∧ base.me.owed = []
      ∧ (onCr (fun c => { c with nv := 8 }) base).me.cr.nv ≤ 8 := by
  refine ⟨?_, ⟨?_, ?_, ?_⟩, ?_, ?_, ?_, ?_, ?_, ?_, ?_, ?_⟩ <;> decide

/-- The test hart about to run a word. -/
def atWord (w : Nat) : State := { holding 0x1000 (leBytes 4 w) base with agenda := [.hart 0] }

/-- The same once its turn has begun. -/
def begun (w : Nat) : State := { atWord w with agenda := [], me := { (atWord w).me with fresh := false } }

/-- The hart of a word fetches it, in the state before or after a turn of a unit is counted. -/
theorem fetches {s : State} {i : Instr} (a : s.me.status = .running) (b : s.me.vec.pass = none) (c : s.interruptDue = none)
    (d : s.me.pause = false) (e : s.me.draining = false) (f : s.me.brun = none) {s1 : State} {loc : Nat}
    (g : ({ s with me := { s.me with fresh := false } } : State).locate s.me.pc .fetch = .ok (s1, loc))
    (h : s1.heldByOther loc 4 = false) (j : decodeBytes (s1.readLoc loc 4).2 = some i) :
    Fetches s i (s1.readLoc loc 4).1 :=
  ⟨a, fun p hp => (by rw [b] at hp; cases hp), c, d, e, f, s1, loc, g, h, j, rfl⟩

theorem witness_StepRunsInstruction :
    let s := atWord 0x20FFFFFF
    s.stopped = false ∧ s.urgent = none ∧ s.agenda = .hart s.me.num :: []
      ∧ ∃ t, Fetches (({ s with agenda := [] } : State).lookAhead) (.li 7 0x1FFFFF) t ∧ t.comesTo (.li 7 0x1FFFFF) = none :=
  ⟨rfl, rfl, rfl, _, fetches (s1 := begun 0x20FFFFFF) rfl rfl (by decide) rfl rfl rfl rfl (by decide) (by decide), rfl⟩

/-- A word of the bond sequencer: BCON s8, 1. -/
theorem witness_StepRunsInstruction_unit :
    let s := onCr (fun c => { c with tvec := home + 64 }) (atWord (encode (.bcon 8 1)))
    let u := ({ s with agenda := [] } : State).lookAhead
    s.urgent = none ∧ ∃ t w, Fetches u (.bcon 8 1) t ∧ t.comesTo (.bcon 8 1) = some 9
      ∧ Fetches (u.unitTurn 9) (.bcon 8 1) w :=
  ⟨rfl, _, _, fetches (s1 := onCr (fun c => { c with tvec := home + 64 }) (begun _)) rfl rfl (by decide) rfl rfl rfl rfl (by decide) (by decide), rfl,
    fetches rfl rfl (by decide) rfl rfl rfl rfl (by decide) (by decide)⟩

theorem witness_PrefixesLatched :
    base.me.tok = none ∧ base.me.ext = none ∧ tokened.me.tok.isSome = true
      ∧ (onMe (fun h => { h with ext := some 0 }) base).me.ext.isSome = true := ⟨rfl, rfl, rfl, rfl⟩

theorem witness_ControlRegisters :
    Ready { scalars := [8], supervisor := needsS (.crd 8 0x309) } base
      ∧ ¬ (0x420 ≤ (0x309 : BitVec 16).toNat ∧ (0x309 : BitVec 16).toNat ≤ 0x47F)
      ∧ Ready { scalars := [8], supervisor := needsS (.crd 8 0x43F) } base ∧ (0x43F : BitVec 16).toNat ≤ 0x43F
      ∧ 0x420 ≤ (0x420 : BitVec 16).toNat ∧ Ready { scalars := [8], supervisor := needsS (.crd 8 0x440) } base
      ∧ 0x440 ≤ (0x440 : BitVec 16).toNat ∧ (0x47F : BitVec 16).toNat ≤ 0x47F ∧ (0x440 : BitVec 16).toNat % 4 < 2
      ∧ (Instr.cwr 8 0x103).wf = true ∧ Ready { scalars := [8], supervisor := needsS (.cwr 8 0x103) } base := by
  refine ⟨ready (by decide), ?_, ready (by decide), ?_, ?_, ready (by decide), ?_, ?_, ?_, ?_, ready (by decide)⟩ <;> decide

theorem witness_CwrSpecial :
    Ready { scalars := [8], supervisor := true } base ∧ Ready (scalarGate [8] false) base
      ∧ base.me.wsp = sx56 base.me.cr.spillp ∧ base.me.rsp = sx56 base.me.cr.spillp - 8
      ∧ (put 8 3 deep).me.wsp ≠ sx56 (deep.me.cr.spillp + 64) ∧ (atU base).me.level = .u
      ∧ Ready (scalarGate [8] false) (atU base) ∧ base.me.level = .s
      ∧ ((put 8 0 base).me.reg 8 = 0 ∧ 32 < (put 8 33 base).me.reg 8)
      ∧ (1 ≤ ((put 8 1 base).me.reg 8).toNat ∧ ((put 8 32 base).me.reg 8).toNat ≤ 32) := by
  refine ⟨ready (by decide), ready (by decide), ?_, ?_, ?_, ?_, ready (by decide), ?_, ?_, ?_⟩ <;> decide

theorem witness_CwrSpecial_spillp :
    let s := onMe (fun h => { h with wsp := 64 }) base
    Ready { scalars := [8], supervisor := true } s ∧ s.me.wsp ≠ sx56 s.me.cr.spillp := ⟨ready (by decide), by decide⟩

theorem witness_CwrSpecial_limits :
    ((put 8 0x10010 base).me.reg 8).toNat % 32 = 16 ∧ ((put 8 0x10010 base).me.reg 8).toNat / 256 % 1024 = 256
      ∧ ((put 8 0x10110 base).me.reg 8).toNat / 256 % 1024 = 257 ∧ ((put 8 0x111 base).me.reg 8).toNat % 32 = 17
      ∧ ((put 8 262144 base).me.reg 8).toNat % 64 = 0 ∧ 262144 < ((put 8 262208 base).me.reg 8).toNat
      ∧ ((put 8 1 base).me.reg 8).toNat % 64 ≠ 0 := by
  refine ⟨?_, ?_, ?_, ?_, ?_, ?_, ?_⟩ <;> decide

/-- s8 asks a watchpoint for other agents' accesses. -/
def remoteWatch : State := put 8 0x88 (onMe (fun h => h)
  { base with cores := [{ Core.reset 0 with wpad := (Vector.replicate 4 0x0070000000002000 : Vector Word 4) }] })

theorem witness_CwrTraceWatchContext :
    Ready { scalars := [8], supervisor := (1 : BitVec 2) != 0 } base ∧ base.myCore.traceFifo = []
      ∧ (8 : BitVec 4).toNat < 12 ∧ Ready { scalars := [8], supervisor := true } remoteWatch
      ∧ (remoteWatch.me.reg 8 &&& span 7 0).getLsbD 3 = true ∧ (remoteWatch.me.reg 8 &&& span 7 0).getLsbD 7 = true
      ∧ remoteWatch.locate (sx56 (remoteWatch.myCore.wpad.toList.getD 0 0)) .read = .ok (remoteWatch, at_ 0x2000)
      ∧ base.locate (sx56 (base.myCore.wpad.toList.getD 0 0)) .read = .error .pagefault := by
  refine ⟨ready (by decide), rfl, ?_, ready (by decide), ?_, ?_, rfl, rfl⟩ <;> decide

theorem witness_CwrTraceWatchContext_context :
    Ready { scalars := [8], supervisor := true } (put 8 0 base)
      ∧ (put 8 0 base).me.reg 8 &&& span 55 8 = (put 8 0 base).me.cr.ctxbase ∧ base.me.cr.ctxbase = 0
      ∧ base.me.reg 8 &&& span 55 8 ≠ 0 ∧ base.me.copies = []
      ∧ base.readSpan (sx56 (base.me.reg 8 &&& span 55 8)) 64 = .ok (base, List.replicate 64 0)
      ∧ valueOf ((List.replicate 64 (0 : Byte)).take 8) / 2 ^ 63 % 2 = 0 := by
  refine ⟨ready (by decide), by decide, rfl, by decide, rfl, rfl, by decide⟩

theorem witness_ConfigurationResult_slmax : 64 ∈ [8, 16, 32, 64] ∧ 8 ∈ [1, 2, 4, 8] ∧ 8 ≤ 128 ∧ 128 ≤ 128 := by decide

theorem witness_ConfigurationResult :
    Ready (passGate [7, 8] []) base ∧ ((put 8 64 base).me.reg 8).toNat ∈ [8, 16, 32, 64] ∧ base.wouldRun = false
      ∧ base.myCore.partn ∈ [1, 2, 4, 8] ∧ base.myCore.lmod ≤ 128 ∧ (base.me.reg 9).toNat ∉ [8, 16, 32, 64]
      ∧ ((put 8 8 base).me.reg 8).toNat ∈ [1, 2, 4, 8] ∧ (¬ ∃ h ∈ base.others, h.core = base.me.core ∧ h.resident = true)
      ∧ base.me.cr.nv ∈ [8, 16, 32, 64] ∧ (base.me.reg 9).toNat ∉ [1, 2, 4, 8] ∧ Ready (passGate [7, 8, 9] []) base
      ∧ base.myCore.lanes ≠ 0 := by
  refine ⟨ready (by decide), ?_, ?_, ?_, ?_, ?_, ?_, ?_, ?_, ?_, ready (by decide), ?_⟩ <;> decide

theorem witness_ConfigurationResult_shared :
    let s : State := { put 8 2 base with others := [{ Hart.reset 1 0 1 false with status := .running }] }
    Ready (passGate [7, 8] []) s ∧ (s.me.reg 8).toNat ∈ [1, 2, 4, 8] ∧ (s.me.reg 8).toNat ≠ s.myCore.partn
      ∧ ∃ h ∈ s.others, h.core = s.me.core ∧ h.resident = true :=
  ⟨ready (by decide), by decide, by decide, _, List.mem_singleton_self _, by decide, by decide⟩

/-- A descriptor of I8 elements from an address on, one position after another. -/
def bytesFrom (a : Nat) (start : Nat) : BitVec 256 := BitVec.ofNat 256 (a + start * 2 ^ 64 + 2 ^ 108 + 2 ^ 128)

/-- A descriptor of F32 elements. -/
def wordsFrom (a : Nat) : BitVec 256 := BitVec.ofNat 256 (a + 7 * 2 ^ 56 + 2 ^ 108 + 4 * 2 ^ 128)

/-- A descriptor in memory at s8. -/
def described (d : BitVec 256) : State := holding 0x2000 (leBytes 32 d.toNat) base

theorem witness_StreamAndRegisters :
    Ready (passGate [8] []) (described (bytesFrom 0x70000000003000 0))
      ∧ MayRead (described (bytesFrom 0x70000000003000 0)) (base.me.reg 8) 32 (described (bytesFrom 0x70000000003000 0))
        (at_ 0x2000)
      ∧ ¬ RefusedDesc (bytesFrom 0x70000000003000 0) ∧ ¬ MisalignedDesc (bytesFrom 0x70000000003000 0)
      ∧ RefusedDesc 0 ∧ RefusedDesc (bytesFrom 0x70000000003000 0 ||| 3 <<< 59) ∧ ¬ RefusedDesc (wordsFrom 0x70000000003002)
      ∧ MisalignedDesc (wordsFrom 0x70000000003002) ∧ Ready (passGate [] [63]) base := by
  refine ⟨ready (by decide), ⟨by decide, rfl, by decide, .inr (by decide), by decide⟩, ?_, ?_, ?_, ?_, ?_, ?_, ready (by decide)⟩
    <;> first | (unfold RefusedDesc; decide) | (unfold MisalignedDesc; decide)

/-- A node of the forme. -/
def node (i : Nat) (op : NodeOp) (t : Option Tag) (srcs : List Edge) : Node :=
  ⟨i, op, t, 8, srcs, none, 0, none, home, 0, false, false, i⟩

/-- A hart in pass mode: v1 names a splat of I8, v2 an iota of I8, v3 is STALE, v5 a splat of F32, k1 a comparison, k2 a KLD
mask; the next node is number 10. -/
def inPass : State :=
  { onVec (fun v => { v with
      forme := [node 1 .splat (some .i8) [], node 2 .iota (some .i8) [], node 3 (.cmp .eq false) none [⟨1, true⟩, ⟨2, true⟩],
        node 4 (.kld 0x55) none [], node 5 .splat (some .f32) []]
      v := (((v.v.set 1 ⟨.i8, .node 1⟩).set 2 ⟨.i8, .node 2⟩).set 3 ⟨.i8, .stale 1 0x40⟩).set 5 ⟨.f32, .node 5⟩
      k := (v.k.set 1 (.node 3)).set 2 (.node 4)
      q := (v.q.set 1 (bytesFrom 0x70000000003000 0)).set 2 (bytesFrom 0x70000000004000 0) }) base with
    nextNode := 10 }

/-- A hart with a pending count of the mask k2 into s7. -/
def counting : State := onMe (fun h => { h with
  vec := { h.vec with galley := [⟨.count .pop (some 7), 4, true, none, home, 1024, 0, 0, false, 9, none⟩] }
  pend := h.pend.set 7 true }) inPass

theorem witness_VforceResult :
    base.me.tokUnsound = false ∧ base.me.tokBad .v = false ∧ base.me.ext = none ∧ base.me.miller = false
      ∧ (onVec (fun v => { v with matrix := true }) base).me.vec.matrix = true ∧ Ready (passGate [] []) base
      ∧ base.me.vec.galley = [] ∧ Ready (passGate [] []) counting ∧ counting.me.vec.galley ≠ [] := by
  refine ⟨?_, ?_, ?_, ?_, ?_, ready (by decide), ?_, ready (by decide), ?_⟩ <;> decide

theorem witness_NodeAppended :
    (∃ x, nodeSpec (.vadd 6 1 2 true false 1) inPass.regTag = some x ∧ Ready (passGate x.scalar.toList x.vregs) inPass
      ∧ x.srcs.map (fun y => (inPass.me.vec.v.get y.1.toFin).state) = [1, 2].map RegState.node
      ∧ PredicateIs inPass x.pred (some 3) ∧ x.refused ([1, 2].map inPass.nodeTag) = false
      ∧ NodeFits inPass x.dst (newNode inPass x.op x.tag ((x.srcs.zip [1, 2]).map fun y => ⟨y.2, y.1.2⟩) (some 3)
        (x.scalar.map inPass.me.reg) 0)) := by
  refine ⟨_, rfl, ready (by decide), rfl, .inr ⟨by decide, 3, rfl, rfl⟩, by decide, ?_, by decide⟩
  intro r h; have h' : (none : Option Range) = some r := h; cases h'

theorem witness_NodeAppended_vs :
    (∃ x, nodeSpec (.vfmaVs 1 2 9 true 0) inPass.regTag = some x ∧ Ready (passGate x.scalar.toList x.vregs) inPass
      ∧ x.srcs.map (fun y => (inPass.me.vec.v.get y.1.toFin).state) = [2, 1].map RegState.node
      ∧ PredicateIs inPass x.pred none ∧ x.refused ([2, 1].map inPass.nodeTag) = false) :=
  ⟨_, rfl, ready (by decide), rfl, .inl ⟨by decide, rfl⟩, by decide⟩

theorem witness_AppendErrors :
    (∃ x, nodeSpec (.vand 6 5 2 true false 0) inPass.regTag = some x ∧ Ready (passGate x.scalar.toList x.vregs) inPass
      ∧ x.srcs.map (fun y => (inPass.me.vec.v.get y.1.toFin).state) = [5, 2].map RegState.node
      ∧ PredicateIs inPass x.pred none ∧ x.refused ([5, 2].map inPass.nodeTag) = true)
      ∧ (∃ x, nodeSpec (.vadd 6 1 4 true false 0) inPass.regTag = some x
        ∧ Ready (passGate x.scalar.toList x.vregs) inPass ∧ x.srcs = [(1, true)] ++ (4, false) :: []
        ∧ (∀ z ∈ [((1 : VReg), true)], ∃ n, (inPass.me.vec.v.get z.1.toFin).state = .node n)
        ∧ inPass.me.passedChecks = false ∧ (inPass.me.vec.v.get (4 : VReg).toFin).state = .empty)
      ∧ (inPass.me.vec.v.get (3 : VReg).toFin).state = .stale 1 0x40 := by
  refine ⟨⟨_, rfl, ready (by decide), rfl, .inl ⟨by decide, rfl⟩, by decide⟩,
    ⟨_, rfl, ready (by decide), rfl, ?_, by decide, rfl⟩, rfl⟩
  intro z h; rw [List.mem_singleton.1 h]; exact ⟨1, rfl⟩

/-- The nodes of the galley differ in length. -/
def uneven : State := onVec (fun v => { v with
  forme := [{ node 1 .splat (some .i8) [] with len := 9 }, node 4 (.cmp .eq false) none [⟨1, true⟩]] }) inPass

/-- The count of node 4. -/
def countSink : Sink := newSink inPass (.count .pop none) 4 true none 0

theorem witness_AppendErrors_sinks :
    (∃ n ∈ uneven.me.vec.forme, n.id ∈ reachFrom uneven.me.vec.forme countSink.seeds ∧ n.len ≠ sinkLen uneven.me.vec countSink)
      ∧ (∀ n ∈ inPass.me.vec.forme, n.id ∈ reachFrom inPass.me.vec.forme countSink.seeds →
        n.len = sinkLen inPass.me.vec countSink)
      ∧ 8 ≤ (onVec (fun v => { v with galley := List.replicate 8 countSink }) inPass).me.vec.galley.length :=
  ⟨⟨_, List.mem_cons_self, by decide, by decide⟩, by decide, by decide⟩

theorem noLeaf : ∀ n ∈ inPass.me.vec.forme, n.isLeaf = false := by decide

theorem witness_LeafAndMaskAppended :
    inPass.me.vec.matrix = false ∧ PredicateIs inPass 1 (some 3) ∧ Ready (passSide [] [6] none) inPass
      ∧ (let d := inPass.me.vec.q.get (1 : QReg).toFin
         NodeFits inPass (.v 6) (newNode inPass (.leaf 1 d (dUno d || false) false) (some (inPass.regTag 6)) [] (some 3) none
           (dStart d)))
      ∧ Ready (passSide [] [6] (some false)) inPass := by
  refine ⟨rfl, .inr ⟨by decide, 3, rfl, rfl⟩, ready (by decide), ⟨?_, by decide⟩, ready (by decide)⟩
  intro r h; constructor
  · rfl
  · decide

theorem witness_LeafAndMaskAppended_gather :
    Ready (passSide [] [6, 2] (some false)) inPass ∧ (inPass.me.vec.v.get (2 : VReg).toFin).state = .node 2
      ∧ isInt (inPass.nodeTag 2) = true ∧ dDims (inPass.me.vec.q.get (1 : QReg).toFin) = 0 :=
  ⟨ready (by decide), rfl, by decide, by decide⟩

theorem witness_LeafAndMaskAppended_mask :
    maskSpec (.kand 3 1 0) = some (.and, 3, [1, 0]) ∧ Ready (passSide [] [] none) inPass
      ∧ (([1, 0] : List KReg).filter fun k => decide (k ≠ 0)).map (fun k => inPass.me.vec.k.get k.toFin) = [3].map RegState.node
      ∧ NodeFits inPass (.k 3) (newNode inPass (.mask .and) none ([3].map fun x => ⟨x, true⟩) none none 0) := by
  refine ⟨rfl, ready (by decide), by decide, ?_, by decide⟩
  intro r h; have h' : (none : Option Range) = some r := h; cases h'

/-- A hart in matrix mode with four tiles and a shape of 2 by 3: v1 holds BF16, k2 and k9 masks. -/
def inMat : State := onVec (fun v => { v with
    matrix := true
    tileCount := 4
    tiles := [(4096, 0x3F800000)]
    v := ((Vector.replicate 64 ⟨.bf16, .material 0x3F803F80⟩ : Vector VRegister 64).set 4 ⟨.f32, .empty⟩).set 3
      ⟨.i64, .material 5⟩
    k := (v.k.set 2 (.material 0x5)).set 9 (.material 0x00030003)
    q := (v.q.set 1 (bytesFrom 0x70000000003000 0)).set 2 (bytesFrom 0x70000000004000 0) })
  (onCr (fun c => { c with mshape := 0x302, vl := 3 }) base)

theorem witness_MatrixMasks :
    inMat.me.vec.matrix = true ∧ inMat.me.miller = false ∧ inMat.me.tokUnsound = false ∧ inMat.me.tokBad .v = false
      ∧ inMat.me.ext = none ∧ maskSpec (.kor 3 2 0) = some (.or, 3, [2, 0]) ∧ Ready (matrixSide [] []) inMat
      ∧ ([2, 0] : List KReg).map (heldMask inMat) = [0x5, BitVec.allOnes 2048].map some
      ∧ (∃ k ∈ ([1] : List KReg), k ≠ 0 ∧ inMat.me.vec.k.get k.toFin = .empty)
      ∧ (∀ k ∈ ([1] : List KReg), heldMask inMat k = none → inMat.me.vec.k.get k.toFin = .empty)
      ∧ countSpec (.kfirst 2 7) = some (.first, 2, 7) ∧ Ready (matrixSide [7] []) inMat ∧ heldMask inMat 2 = some 0x5 := by
  refine ⟨rfl, rfl, by decide, by decide, rfl, rfl, ready (by decide), rfl, ⟨1, by decide, by decide, rfl⟩, ?_, rfl,
    ready (by decide), rfl⟩
  intro k h _; rw [List.mem_singleton.1 h]; rfl

theorem witness_SinkAppended :
    inPass.me.vec.matrix = false ∧ PredicateIs inPass 0 none ∧ (inPass.me.vec.v.get (1 : VReg).toFin).state = .node 1
      ∧ Ready (passSide [] [1] none) inPass ∧ dFmt (inPass.me.vec.q.get (1 : QReg).toFin) = .i8
      ∧ SinkFits inPass (newSink inPass (.store 1 (inPass.me.vec.q.get 1) false none) 1 true none 0)
      ∧ Ready (passSide [] [1, 2] (some false)) inPass ∧ isInt (inPass.nodeTag 2) = true
      ∧ Ready (passGate [7] [1]) inPass ∧ isInt (inPass.nodeTag 1) = true := by
  refine ⟨rfl, .inl ⟨rfl, rfl⟩, rfl, ready (by decide), by decide, ⟨by decide, by decide, ?_⟩, ready (by decide), by decide,
    ready (by decide), by decide⟩
  intro r _; exact ⟨by decide, fun n hn hl => absurd hl (by rw [noLeaf n hn]; decide)⟩

theorem witness_SinkAppended_count :
    countSpec (.kpop 2 7) = some (.pop, 2, 7) ∧ (2 : KReg) ≠ 0 ∧ inPass.me.vec.k.get (2 : KReg).toFin = .node 4
      ∧ Ready (passSide [7] [] none) inPass ∧ Ready (passSide [7] [] none) inPass
      ∧ SinkFits inPass (newSink inPass (.count .pop (destination inPass.me 7)) 4 true none 0) := by
  refine ⟨rfl, by decide, rfl, ready (by decide), ready (by decide), by decide, by decide, ?_⟩
  intro r h; have h' : (none : Option Range) = some r := h; cases h'

theorem witness_MaskMemory :
    (base.me.reg 8).toNat % 8 = 0 ∧ MayReadSpan base (base.me.reg 8) 256 base [(0x70000000002000, at_ 0x2000, 256)]
      ∧ Ready (passSide [8] [] none) base ∧ MayReadSpan inMat (inMat.me.reg 8) 256 inMat
        [(0x70000000002000, at_ 0x2000, 256)]
      ∧ Ready (matrixSide [8] []) inMat ∧ base.pieces (base.me.reg 8) 256 .write = .ok (base, [(0x70000000002000, at_ 0x2000, 256)])
      ∧ StoredMask base 0 (BitVec.allOnes 2048) ∧ StoredMask inMat 2 0x5 ∧ StoredMask inPass 2 0x55
      ∧ MayWriteSpan base (base.me.reg 8) 256 base [(0x70000000002000, at_ 0x2000, 256)] ∧ (base.me.reg 9).toNat % 8 ≠ 0 := by
  refine ⟨by decide, ⟨rfl, by decide, .inr (by decide), by decide⟩, ready (by decide), ⟨rfl, by decide, .inr (by decide), by decide⟩,
    ready (by decide), rfl, .inl ⟨rfl, rfl⟩, .inr ⟨by decide, .inl rfl⟩, .inr ⟨by decide, .inr ⟨4, _, rfl, rfl, rfl⟩⟩,
    ⟨rfl, by decide, .inr (by decide), by decide, by decide⟩, by decide⟩

/-- The test hart with three tiles held. -/
def tiled : State := onVec (fun v => { v with tileCount := 3 }) base

/-- Three requests on the core's queue, the first granted. -/
def queued (n : Nat) : State := base.setCore { base.myCore with tileQueue := [⟨0, 5, true⟩, ⟨3, n, false⟩, ⟨9, 1, false⟩] }

theorem witness_MatrixMode :
    Ready { mGate [] [] (some false) with passQueue := true } base ∧ base.wouldRun = false ∧ base.me.vec.tileCount = 0
      ∧ tiled.me.vec.tileCount = (3 : BitVec 6).toNat ∧ (3 : BitVec 6) ≠ 0 ∧ (∀ x ∈ base.myCore.tileQueue, x.hart ≠ base.me.num)
      ∧ ((queued 2).myCore.tileQueue.find? fun x => x.hart == (queued 2).me.num) = some ⟨0, 5, true⟩
      ∧ Ready (mGate [] [] (some true)) inMat ∧ Ready (mGate [] [] none) base
      ∧ ((queued 3).coreAt 0).tileQueue = [⟨0, 5, true⟩] ++ ⟨3, 3, false⟩ :: [⟨9, 1, false⟩] ∧ 3 ≤ (queued 3).freeTiles 0
      ∧ (queued 4).freeTiles 0 < 4 := by
  refine ⟨ready (by decide), ?_, ?_, ?_, ?_, ?_, ?_, ready (by decide), ready (by decide), ?_, ?_, ?_⟩ <;> decide

theorem witness_ShapeAndZero :
    Ready (mGate [9, 10] [] none) (put 9 16 (put 10 256 base)) ∧ ((put 9 16 (put 10 256 base)).me.reg 9).toNat ≤ 16
      ∧ 1 ≤ ((put 9 1 base).me.reg 9).toNat ∧ ((put 10 256 base).me.reg 10).toNat ≤ 256 ∧ 16 < ((put 9 17 base).me.reg 9).toNat
      ∧ 256 < ((put 10 257 base).me.reg 10).toNat ∧ (3 : ZReg).toNat < inMat.me.vec.tileCount
      ∧ inMat.me.vec.tileCount ≤ (4 : ZReg).toNat := by
  refine ⟨ready (by decide), ?_, ?_, ?_, ?_, ?_, ?_, ?_⟩ <;> decide

theorem witness_MatrixProduct :
    Ready (mGate [] [(1 : VReg).toNat, (8 : VReg).toNat + 7] (some true)) inMat ∧ ShapeFits inMat
      ∧ (1 : ZReg).toNat < inMat.me.vec.tileCount ∧ (inMat.me.vec.v.get (1 : VReg).toFin).state = .material 0x3F803F80
      ∧ Rows inMat (8 : VReg).toNat 8 (List.replicate 8 0x3F803F80) ∧ TagsFit inMat 1 (8 : VReg).toNat 8
      ∧ TilesRising inMat.me.vec.tiles := by
  refine ⟨ready (by decide), ⟨by decide, by decide, by decide, by decide⟩, by decide, rfl, ⟨rfl, by decide⟩,
    ⟨.inl rfl, by decide, by decide⟩, by unfold TilesRising; decide⟩

theorem witness_MatrixProduct_sparse :
    Ready (mGate [] [(1 : VReg).toNat, (48 : VReg).toNat + 15] (some true)) inMat ∧ (48 : VReg).toNat + 15 < 64
      ∧ Rows inMat (48 : VReg).toNat 16 (List.replicate 16 0x3F803F80) ∧ TagsFit inMat 1 (48 : VReg).toNat 16
      ∧ inMat.me.vec.k.get (BitVec.ofNat 4 (8 + (1 : BitVec 3).toNat)).toFin = .material 0x00030003
      ∧ ∀ i, i < mOf inMat →
        ((List.range 16).filter fun p => (0x00030003 : BitVec 2048).getLsbD (16 * i + p)).length ≤ 8 := by
  refine ⟨ready (by decide), by decide, ⟨rfl, by decide⟩, ⟨.inl rfl, by decide, by decide⟩, rfl, ?_⟩
  decide

theorem witness_TileTransfers :
    Ready (mGate [8, 10] [] (some true)) inMat ∧ (inMat.me.reg 8).toNat % 4 = 0 ∧ (inMat.me.reg 10).toNat % 4 = 0
      ∧ (∃ ps, State.locateElems (some (inMat.me.reg 8).toInt) .read
          ((cornerCells inMat 1 (inMat.me.reg 8) (inMat.me.reg 10)).map fun c => some [(c.2, 4)]) inMat = (inMat, ps, none)
        ∧ (∀ p ∈ flatPieces ps, inMat.watchOwn p.1 p.2.2 .read = []) ∧ CopiesApart inMat (flatPieces ps) true
        ∧ inMat.piecesHeld (flatPieces ps) = false ∧ inMat.piecesFit (flatPieces ps) = true)
      ∧ (inMat.me.reg 9).toNat % 4 ≠ 0 :=
  ⟨ready (by decide), by decide, by decide, ⟨_, rfl, by decide, by unfold CopiesApart; decide, by decide, by decide⟩, by decide⟩

theorem witness_MatrixLoadStore :
    inMat.me.vec.matrix = true ∧ Ready (matrixSide [] [3]) inMat ∧ MatrixMask inMat 2 0x5 ∧ MatrixMask inMat 0 (BitVec.allOnes 2048)
      ∧ inMat.me.cr.vl ≤ capacity (inMat.regTag 3) ∧ dFmt (inMat.me.vec.q.get (1 : QReg).toFin) = .i8
      ∧ (∃ ps, State.locateElems (some (streamAddr (bytesFrom 0x70000000003000 0) 0)) .read
          ((List.range 3).map fun j => if (0x5 : BitVec 2048).getLsbD j
            then some (readItems (bytesFrom 0x70000000003000 0) j) else none) inMat = (inMat, ps, none)
        ∧ ElementsFree inMat ps .read)
      ∧ ReadFree inMat (matRange (bytesFrom 0x70000000003000 0) 3)
      ∧ (∃ ps, State.locateElems (some (streamAddr (bytesFrom 0x70000000003000 0) 0)) .write
          ((matWrites (bytesFrom 0x70000000003000 0) .i64 5 0x5 3 0).1.map fun w => w.map fun y => [y.1]) inMat = (inMat, ps, none)
        ∧ ElementsFree inMat ps .write ∧ inMat.piecesFit (flatPieces ps) = true)
      ∧ WriteFree inMat (matRange (bytesFrom 0x70000000003000 0) 3)
      ∧ capacity ((onCr (fun c => { c with vl := 33 }) inMat).regTag 3) < 33 := by
  refine ⟨rfl, ready (by decide), .inr ⟨by decide, rfl⟩, .inl ⟨rfl, rfl⟩, by decide, by decide, ⟨_, rfl, by decide, by decide⟩,
    .inr (by decide), ⟨_, rfl, ⟨by decide, by decide⟩, by decide⟩, .inr (by decide), by decide⟩

/-- The boundary buffer in the local window, every dimension 1 and a BF16 core at s8 of one element. -/
def bonded : State :=
  holding 0x2000 [6, 1, 1, 0, 1, 0, 1, 0] (onCr (fun c => { c with bndbuf := 0x0070000000004000, bndsize := 1024 }) base)

theorem witness_BondResult :
    Ready (bGate [9]) (put 9 255 bonded) ∧ ((put 9 255 bonded).me.reg 9).toNat ≤ 255 ∧ 255 < ((put 9 256 bonded).me.reg 9).toNat
      ∧ (47 : BitVec 6).toNat < 48 ∧ ((put 9 4095 bonded).me.reg 9).toNat ≤ 4095 ∧ 4095 < ((put 9 4096 bonded).me.reg 9).toNat
      ∧ Ready (bGate [8]) bonded ∧ dimAt bonded.me.vec.mn 0 < (2 : BitVec 6).toNat ∧ BufferInside bonded
      ∧ ¬ BufferInside base ∧ (bonded.me.reg 9).toNat % 32 ≠ 0 ∧ (bonded.me.reg 10).toNat % 16 = 0
      ∧ (bonded.me.reg 9).toNat % 16 ≠ 0 := by
  refine ⟨ready (by decide), ?_, ?_, ?_, ?_, ?_, ready (by decide), ?_, ?_, ?_, ?_, ?_, ?_⟩ <;>
    first | decide | (unfold BufferInside; decide)

theorem witness_BondResult_contracts :
    ∃ u, Contracts bonded (bonded.me.reg 8) (1 : BitVec 6).toNat false false false [] u := by
  refine ⟨_, by decide, by decide, by decide, by unfold BufferInside; decide, by decide, by decide, by decide, bonded,
    [(0x70000000002000, at_ 0x2000, 32)], .bf16, bonded, [(0x70000000002020, at_ 0x2020, 2)], bonded,
    [(0x70000000004000, at_ 0x4000, 4)], bonded, [(0x70000000004200, at_ 0x4200, 4)], bonded,
    [(0x70000000004000, at_ 0x4000, 4)], rfl, .inr (by decide), by decide, ?_, rfl, rfl, rfl, by decide, by decide, rfl⟩
  refine ⟨.inr (.inr ⟨by decide, rfl⟩), by decide, by decide, by decide, by decide, .inr (by decide), .inr (by decide), ?_, rfl⟩
  unfold EntriesFit; decide

/-- An order program of one step at s8's place for the core, at s10's. -/
def ordered (last : Nat) : State :=
  onMe (fun h => { h with brun := some 0x0070000000002400 })
    (holding 0x2400 (leBytes 16 (0x0070000000002000 + 2 ^ 64 + last * 2 ^ 75)) bonded)

theorem witness_BondResult_steps (last : Nat) (hl : last = 0 ∨ last = 1) :
    (ordered last).me.brun = some 0x0070000000002400 ∧ orderIndex (ordered last) = 0
      ∧ (ordered last).pieces (0x0070000000002400 + BitVec.ofNat 64 (16 * orderIndex (ordered last))) 16 .read
        = .ok (ordered last, [(0x0070000000002400, at_ 0x2400, 16)])
      ∧ ReadFree (ordered last) (rangeOf 0x0070000000002400 16)
      ∧ (let r := valueOf (State.readPieces [(0x0070000000002400, at_ 0x2400, 16)] (ordered last)).2
         r / 2 ^ 56 % 2 ^ 8 = 0 ∧ r / 2 ^ 76 = 0 ∧ r / 2 ^ 68 % 16 = 0 ∧ r / 2 ^ 64 % 16 = 1 ∧ r / 2 ^ 75 % 2 = last) := by
  rcases hl with rfl | rfl
  · exact ⟨rfl, by decide, rfl, .inr (by decide), by decide⟩
  · exact ⟨rfl, by decide, rfl, .inr (by decide), by decide⟩

theorem witness_BondResult_stepContracts :
    ∃ u, Contracts (ordered 1) 0x0070000000002000 1 false false false [(0x0070000000002400, at_ 0x2400, 16)] u := by
  refine ⟨_, by decide, by decide, by decide, by unfold BufferInside; decide, by decide, by decide, by decide, ordered 1,
    [(0x70000000002000, at_ 0x2000, 32)], .bf16, ordered 1, [(0x70000000002020, at_ 0x2020, 2)], ordered 1,
    [(0x70000000004000, at_ 0x4000, 4)], ordered 1, [(0x70000000004200, at_ 0x4200, 4)], ordered 1,
    [(0x70000000004000, at_ 0x4000, 4)], rfl, .inr (by decide), by decide, ?_, rfl, rfl, rfl, by decide, by decide, rfl⟩
  refine ⟨.inr (.inr ⟨by decide, rfl⟩), by decide, by decide, by decide, by decide, .inr (by decide), .inr (by decide), ?_, rfl⟩
  unfold EntriesFit; decide

theorem witness_BondCopies :
    let s := put 9 512 bonded
    Ready (bGate [8, 9]) s ∧ (s.me.reg 8).toNat % 4 = 0 ∧ (s.me.reg 9).toNat % 4 = 0 ∧ BufferInside s
      ∧ (s.me.reg 9).toNat ≤ s.me.cr.bndsize.toNat / 2 ∧ ((put 9 0 bonded).me.reg 9).toNat = 0
      ∧ WriteFree s (rangeOf s.me.cr.bndbuf 512) ∧ ReadFree s (rangeOf (s.me.reg 8) 512) ∧ EntriesFit s 2
      ∧ s.pieces (s.me.reg 8) 512 .read = .ok (s, [(0x70000000002000, at_ 0x2000, 512)])
      ∧ s.pieces s.me.cr.bndbuf 512 .write = .ok (s, [(0x70000000004000, at_ 0x4000, 512)])
      ∧ s.piecesHeld ([(0x70000000002000, at_ 0x2000, 512)] ++ [(0x70000000004000, at_ 0x4000, 512)]) = false
      ∧ s.piecesFit [(0x70000000004000, at_ 0x4000, 512)] = true
      ∧ s.me.cr.bndsize.toNat / 2 < ((put 9 516 bonded).me.reg 9).toNat := by
  refine ⟨ready (by decide), by decide, by decide, by unfold BufferInside; decide, by decide, by decide, .inr (by decide),
    .inr (by decide), by unfold EntriesFit; decide, rfl, rfl, by decide, by decide, by decide⟩

theorem witness_BondCopies_store :
    let s := put 9 512 bonded
    WriteFree s (rangeOf (s.me.reg 8) 512) ∧ ReadFree s (rangeOf s.me.cr.bndbuf 512)
      ∧ s.pieces (s.me.reg 8) 512 .write = .ok (s, [(0x70000000002000, at_ 0x2000, 512)])
      ∧ s.pieces s.me.cr.bndbuf 512 .read = .ok (s, [(0x70000000004000, at_ 0x4000, 512)])
      ∧ s.piecesFit [(0x70000000002000, at_ 0x2000, 512)] = true ∧ (bonded.me.reg 9).toNat % 4 ≠ 0 :=
  ⟨.inr (by decide), .inr (by decide), rfl, rfl, by decide, by decide⟩

/-- A copy of n bytes from an address to s8's. -/
def toCopy (src n : Word) : State := put 9 src (put 10 n base)

theorem witness_CopyEngine :
    let s := toCopy 0x0070000000003000 64
    Ready (cGate [8, 9, 10]) s ∧ s.me.signalBlocked .c = false ∧ ((toCopy 0 0).me.reg 10).toNat = 0
      ∧ 2 ^ 30 < ((toCopy 0 0x40000001).me.reg 10).toNat
      ∧ (let o := toCopy 0x0070000000002040 65
         max (o.me.reg 8).toNat (o.me.reg 9).toNat
           < min ((o.me.reg 8).toNat + (o.me.reg 10).toNat) ((o.me.reg 9).toNat + (o.me.reg 10).toNat))
      ∧ ¬ (max (s.me.reg 8).toNat (s.me.reg 9).toNat
        < min ((s.me.reg 8).toNat + (s.me.reg 10).toNat) ((s.me.reg 9).toNat + (s.me.reg 10).toNat))
      ∧ s.piecesOr (s.me.reg 9) 64 .read = .ok (s, [(0x70000000003000, at_ 0x3000, 64)])
      ∧ s.piecesOr (s.me.reg 8) 64 .write = .ok (s, [(0x70000000002000, at_ 0x2000, 64)]) ∧ s.me.cr.confirmed = true
      ∧ WriteFree s (rangeOf (s.me.reg 8) 64) ∧ ReadFree s (rangeOf (s.me.reg 9) 64) ∧ EntriesFit s 2 := by
  refine ⟨ready (by decide), by decide, by decide, by decide, by decide, by decide, rfl, rfl, rfl, .inr (by decide),
    .inr (by decide), by unfold EntriesFit; decide⟩

/-- A hart with a copy in flight. -/
def copying : State := onMe (fun h => { h with
  copies := [⟨0x0070000000002000, 0x0070000000003000, 64, home, [], none⟩] }) base

theorem witness_CopyEngine_tokens :
    copying.me.owed = [] ∧ copying.me.tokens.get (fifo 4 Queue.v.num) < 16
      ∧ ¬ (onMe (fun h => { h with tokens := h.tokens.set (fifo 4 Queue.v.num) 16 }) copying).me.tokens.get
        (fifo 4 Queue.v.num) < 16 := by decide

theorem witness_DecodeEncode : (Instr.vfma 1 2 3 true false 7).wf = true ∧ (Instr.li 7 0x1FFFFF).wf = true := ⟨rfl, rfl⟩

theorem witness_DecodeUnique : 0xB1000003 < 2 ^ 32 ∧ decode 0xB1000003 = some (.trace 8 3) := ⟨by decide, by decide⟩

theorem witness_MemoryInvariant : memWf (atWord 0x20FFFFFF).mem = true ∧ ∃ t, step (atWord 0x20FFFFFF) = .next t :=
  ⟨by decide, _, rfl⟩

/-- A gang of two harts, of which the test hart is the first. -/
def pair : Gang where
  id := 4
  entry := home
  args := 0
  slots := 1
  partn := 1
  nv := 8
  harts := 1
  cfirst := 0
  clast := 1
  firstSlot := 0
  spad := 0
  done := 0x0070000000006000
  doneLoc := at_ 0x6000
  pred := 0x0070000000006100
  predLoc := some (at_ 0x6100)
  cellLoc := some (at_ 0x6200)
  tvec := 0
  ptbase := 0
  die := 0
  predicted := true
  confirmed := true
  count := 2
  initial := 2
  started := [0, 1]
  ended := []
  squashed := []
  triggered := []
  arrivals := []
  ends := 0
  live := true

/-- The state in which the hart belongs to a gang. -/
def ganged (g : Gang) (s : State) : State := { onMe (fun h => { h with gang := some g.id }) s with gangs := [g] }

/-- A hart with a pending store of v1 over the bytes at s8. -/
def storing : State := onVec (fun v => { v with
  q := v.q.set 1 (bytesFrom 0x70000000002000 0)
  galley := [⟨.store 1 (bytesFrom 0x70000000002000 0) false none, 1, true, none, home, 1024, 0, 0, false, 9, none⟩] }) inPass

theorem witness_DemandPoints :
    (∃ v, aluSpec (.add 6 7 8 false) counting.me = some (6, [6, 7, 8], false, v)) ∧ (Instr.add 6 7 8 false).wf = true
      ∧ Ready { scalarGate [6, 7, 8] false with scalars := [] } counting ∧ counting.handlerBypass = false
      ∧ (7 : SReg) ∈ ([6, 7, 8] : List SReg) ∧ counting.me.isPending 7 = true := by
  refine ⟨⟨_, rfl⟩, rfl, ready (by decide), ?_, ?_, ?_⟩ <;> decide

theorem witness_DemandPoints_instructions :
    demandGate (.fenceEng .core) = some {} ∧ Ready {} counting ∧ counting.me.miller = false ∧ counting.me.vec.galley ≠ []
      ∧ demandGate (.amoAdd 6 8 9 true .ar .core) = some (scalarGate [6, 8, 9] false)
      ∧ Ready (scalarGate [6, 8, 9] false) counting ∧ (counting.me.reg 8).toNat % 8 = 0 ∧ counting.me.cr.confirmed = true
      ∧ demandGate .bar = some {} ∧ (ganged pair counting).me.cr.confirmed = true ∧ Ready {} (ganged pair counting)
      ∧ demandGate (.mmodeOn 3) = some { mGate [] [] (some false) with passQueue := true }
      ∧ Ready { mGate [] [] (some false) with passQueue := true } counting ∧ counting.me.vec.tileCount = 0
      ∧ demandGate .endI = some {} ∧ Ready {} counting := by
  refine ⟨rfl, ready (by decide), rfl, ?_, rfl, ready (by decide), ?_, rfl, rfl, rfl, ready (by decide), rfl, ready (by decide),
    rfl, rfl, ready (by decide)⟩ <;> decide

theorem witness_DemandPoints_load :
    Ready (scalarGate [7, 8] true) storing ∧ (address storing.me 8 7).toNat % 1 = 0
      ∧ storing.locate (address storing.me 8 7) .read = .ok (storing, at_ 0x2007)
      ∧ storing.watchOwn (address storing.me 8 7).toNat 1 .read = [] ∧ storing.handlerBypass = false
      ∧ meetsSink storing.me.vec (rangeOf (address storing.me 8 7) 1) = true
      ∧ meetsSink storing.me.vec (rangeOf (address storing.me 8 8) 1) = false := by
  refine ⟨ready (by decide), ?_, rfl, ?_, ?_, ?_, ?_⟩ <;> decide

/-- A pass over a hart's galley, at an element. -/
def passAt (s : State) (e : Nat) : Pass := { Pass.begin s.me.vec home false [] with progress := e }

/-- A hart in its pass, with an interrupt pending. -/
def passing (s : State) (p : Pass) : State :=
  onMe (fun h => { h with vec := { h.vec with pass := some p }, cr := { h.cr with timecmp := 0 } }) s

/-- A hart with a pending store whose strips are four elements long. -/
def storing4 : State := onVec (fun v => { v with galley := v.galley.map fun g => { g with sl := 4 } }) storing

theorem runs {s : State} {p : Pass} (h1 : s.me.vec.pass = some p) (h2 : p.suspended = false) (h3 : p.outstanding = 0)
    (h4 : s.me.copies = []) : PassRuns s p := by
  refine ⟨h1, h2, h3, ?_⟩
  rintro (⟨l, _, _, h⟩ | ⟨g, _, r, _, h⟩) <;> simp [Hart.copyWrites, Hart.copyReads, h4] at h

/-- NoPackets is checked sink by sink. -/
theorem noPackets {v : VecState} {pl : Plan}
    (h : ((v.galley.zip pl.sinks).all fun x => x.2.all fun c => (pl.s.carriedOf x.1 c).isNone) = true) : NoPackets v pl := by
  intro x hx c hc
  exact Option.isNone_iff_eq_none.1 (List.all_eq_true.1 (List.all_eq_true.1 h x hx) c hc)

theorem witness_PassTurns :
    (passing counting { passAt counting 0 with suspended := true }).me.vec.pass = some { passAt counting 0 with suspended := true }
      ∧ (passing counting { passAt counting 0 with outstanding := 1 }).me.vec.pass = some { passAt counting 0 with outstanding := 1 }
      ∧ PassRuns (passing counting (passAt counting 8)) (passAt counting 8)
      ∧ lengthOf (passing counting (passAt counting 8)).me.vec (passAt counting 8) ≤ (passAt counting 8).progress
      ∧ base.me.vec.pass = none :=
  ⟨rfl, rfl, runs rfl rfl rfl rfl, by decide, rfl⟩

theorem witness_PassTurns_copy :
    let s := onMe (fun h => { h with copies := [⟨0x0070000000003000, 0x0070000000002007, 1, home, [], none⟩] })
      (passing storing (passAt storing 0))
    s.me.vec.pass = some (passAt storing 0) ∧ CopyMeetsPass s (passAt storing 0) :=
  ⟨rfl, .inr ⟨_, List.mem_singleton_self _, _, rfl, .inr (by decide)⟩⟩

theorem witness_PassTurns_strip :
    PassRuns (passing counting (passAt counting 0)) (passAt counting 0)
      ∧ (passAt counting 0).progress < lengthOf (passing counting (passAt counting 0)).me.vec (passAt counting 0)
      ∧ stripEnd counting.me.vec (passAt counting 0) = lengthOf counting.me.vec (passAt counting 0)
      ∧ ∃ w pl, StripPlanned (passing counting (passAt counting 0)) (passAt counting 0)
        (stripEnd counting.me.vec (passAt counting 0)) w pl ∧ NoPackets counting.me.vec pl :=
  ⟨runs rfl rfl rfl rfl, by decide, by decide, _, _, ⟨_, _, rfl, ⟨rfl, rfl, rfl, rfl⟩, rfl, rfl, rfl, rfl, rfl⟩, noPackets rfl⟩

theorem witness_PassTurns_store :
    PassRuns (passing storing4 (passAt storing4 0)) (passAt storing4 0)
      ∧ stripEnd storing4.me.vec (passAt storing4 0) < lengthOf storing4.me.vec (passAt storing4 0)
      ∧ (∃ w pl, StripPlanned (passing storing4 (passAt storing4 0)) (passAt storing4 0)
        (stripEnd storing4.me.vec (passAt storing4 0)) w pl ∧ NoPackets storing4.me.vec pl)
      ∧ ∃ g, storing4.me.vec.galley.zip (passAt storing4 0).commits = [(g, 0)]
        ∧ g.op = .store 1 (bytesFrom 0x70000000002000 0) false none ∧ dFmt (bytesFrom 0x70000000002000 0) ≠ .d8s
        ∧ g.node ∉ compNodes storing4.me.vec.forme :=
  ⟨runs rfl rfl rfl rfl, by decide, ⟨_, _, ⟨_, _, rfl, ⟨rfl, rfl, rfl, rfl⟩, rfl, rfl, rfl, rfl, rfl⟩, noPackets rfl⟩,
    _, rfl, rfl, by decide, by decide⟩

theorem witness_PassTurns_element :
    PassRuns (passing counting (passAt counting 0)) (passAt counting 0) ∧ (passAt counting 0).progress < 7
      ∧ 7 < stripEnd counting.me.vec (passAt counting 0)
      ∧ estatusBit (passing counting (passAt counting 0)) 1 = true
      ∧ (passing counting (passAt counting 0)).me.cr.timecmp.toNat ≤ (passing counting (passAt counting 0)).time.toNat
      ∧ (passing counting (passAt counting 0)).me.yieldTurns = 0
      ∧ ∃ w pl, StripPlanned (passing counting (passAt counting 0)) (passAt counting 0) 7 w pl ∧ NoPackets counting.me.vec pl :=
  ⟨runs rfl rfl rfl rfl, by decide, by decide, by decide, by decide, rfl, _, _,
    ⟨_, _, rfl, ⟨rfl, rfl, rfl, rfl⟩, rfl, rfl, rfl, rfl, rfl⟩, noPackets rfl⟩
/-- A launch descriptor: one hart on core 3, the completion word at an address, a cell and a shape. -/
def launchDesc (done cell shape : Nat) : Nat :=
  0x70000000001000 + (3 + 3 * 2 ^ 10 + 2 ^ 20 + 8 * 2 ^ 24 + 2 ^ 32 + 2 ^ 36) * 2 ^ 64 + 0x70000000005000 * 2 ^ 128
    + done * 2 ^ 192 + cell * 2 ^ 320 + shape * 2 ^ 384

/-- The descriptor in memory at s8, and a cell that holds a doubleword. -/
def launching (d cell : Nat) : State := holding 0x3000 (leBytes 8 cell) (holding 0x2000 (leBytes 64 d) base)

theorem launching_reads (d cell dl : Nat) (h : d = launchDesc 0x70000000006000 0x70000000003000 0 ∨
    d = launchDesc 0x70000000006000 0x70000000003000 2) (hd : dl = at_ 0x6000) (hc : cell = 0 ∨ cell = 2 ^ 63 ∨ cell = 2 ^ 63 + 1) :
    LaunchReads 8 (launching d cell) (launching d cell) d dl none := by
  subst hd
  rcases h with rfl | rfl <;> rcases hc with rfl | rfl | rfl <;>
  exact ⟨_, at_ 0x2000, _, ⟨by decide, rfl, by decide, .inr (by decide), by decide⟩, by decide,
    ⟨by unfold LaunchValid; decide, rfl, .inl ⟨by decide, rfl, rfl⟩⟩, by decide⟩

theorem witness_LaunchResult :
    let d := launchDesc 0x70000000006000 0x70000000003000 0
    Ready (scalarGate [8] false) (launching d 0) ∧ (launching d 0).me.cr.confirmed = true
      ∧ LaunchReads 8 (launching d 0) (launching d 0) d (at_ 0x6000) none ∧ shapeOf d ≤ capOf d ∧ TableRoom (launching d 0)
      ∧ capOf d < shapeOf (launchDesc 0x70000000006000 0x70000000003000 2) :=
  ⟨ready (by decide), rfl, launching_reads _ _ _ (.inl rfl) rfl (.inl rfl), by decide, by unfold TableRoom; decide, by decide⟩

theorem witness_LaunchResult_cell (c : Nat) (hc : c = 0 ∨ c = 2 ^ 63 ∨ c = 2 ^ 63 + 1) :
    let d := launchDesc 0x70000000006000 0x70000000003000 0
    let s := launching d c
    Ready (scalarGate [8] false) s ∧ LaunchReads 8 s s d (at_ 0x6000) none ∧ field d 5 0 56 ≠ 0
      ∧ MayRead s (fieldAddr d 5) 8 s (at_ 0x3000) ∧ valueOf (s.readLoc (at_ 0x3000) 8).2 = c
      ∧ s.locate (fieldAddr d 5) .read = .ok (s, at_ 0x3000) ∧ TableRoom s := by
  rcases hc with rfl | rfl | rfl <;>
  exact ⟨ready (by decide), launching_reads _ _ _ (.inl rfl) rfl (by decide), by decide,
    ⟨by decide, rfl, by decide, .inr (by decide), by decide⟩, by decide, rfl, by unfold TableRoom; decide⟩

theorem witness_LaunchResult_invalid :
    MayRead (launching 0 0) (base.me.reg 8) 64 (launching 0 0) (at_ 0x2000)
      ∧ ¬ LaunchValid (launching 0 0) (valueOf ((launching 0 0).readLoc (at_ 0x2000) 64).2)
      ∧ field (launchDesc 0x70000000006000 0 0) 5 0 56 = 0 :=
  ⟨⟨by decide, rfl, by decide, .inr (by decide), by decide⟩, by unfold LaunchValid; decide, by decide⟩

/-- A gang of two harts that has started none. -/
def fresh : Gang := { pair with predLoc := none, started := [] }

theorem witness_HartStarts :
    (ganged fresh State.reset).gang? 4 = some fresh ∧ (ganged fresh State.reset).mayStart fresh 0 = true := by
  refine ⟨rfl, ?_⟩; decide

theorem witness_HartStarts_none :
    (ganged fresh base).gang? 4 = some fresh
      ∧ (∃ h ∈ (ganged fresh base).harts, h.core = 0 ∧ h.slot = 0 ∧ h.resident = true)
      ∧ ((ganged fresh base).coreAt 0).partn ≠ ({ fresh with partn := 8 } : Gang).partn
      ∧ (∃ x ∈ ({ base with gangs := [{ pair with id := 3, confirmed := false, doneLoc := at_ 0x6100 }, pair] } : State).gangs,
        x.live = true ∧ x.doneLoc = at_ 0x6100 ∧ x.id ≠ pair.id)
      ∧ fresh.count ≤ 2 := by
  refine ⟨rfl, ⟨_, List.mem_cons_self, by decide, by decide, by decide⟩, by decide,
    ⟨_, List.mem_cons_self, by decide, by decide, by decide⟩, by decide⟩

theorem witness_ShapePublished :
    Ready (scalarGate [8, 9] false) (put 9 0xFFFFFFFF base) ∧ (base.me.reg 8).toNat % 16 = 0
      ∧ ((put 9 0xFFFFFFFF base).me.reg 9).toNat < 2 ^ 32 ∧ base.me.cr.confirmed = true ∧ base.wouldRun = false
      ∧ WriteOpen base .write (base.me.reg 8) 8 base (at_ 0x2000) := by
  refine ⟨ready (by decide), by decide, by decide, rfl, by decide, rfl, by decide, .inr (by decide), by decide⟩

/-- The publication of two harts in a cell that a provisional gang watches. -/
def published : State :=
  { ganged { pair with confirmed := false } base with pubs := [⟨at_ 0x6200, 2, [4]⟩] }

theorem witness_ShapePublished_visible :
    published.pubs = ⟨at_ 0x6200, 2, [4]⟩ :: [] ∧ (published.gangs.map (·.id)).Nodup
      ∧ (∃ g ∈ published.gangs, g.live = true ∧ g.confirmed = false ∧ g.cellLoc = some (at_ 0x6200)
        ∧ g.id ∈ [4]) := by
  refine ⟨rfl, by decide, ⟨_, List.mem_cons_self, rfl, rfl, rfl, by decide⟩⟩

/-- A provisional hart of a confirmed gang, at an index, with one buffered store. -/
def provisional (i : Nat) : State := ganged pair (onMe (fun h => { h with
  spad := 64
  prov := [⟨at_ 0x9000, [1, 2], []⟩]
  cr := { h.cr with confirmed := false, hx := i } }) base)

theorem witness_ShapePublished_harts :
    (provisional 1).myGang = some pair ∧ pair.confirmed = true ∧ (provisional 1).me.cr.confirmed = false
      ∧ (provisional 1).me.resident = true ∧ (provisional 1).me.brun = none ∧ (provisional 1).me.cr.hx < pair.count
      ∧ (∀ p ∈ (provisional 1).me.prov, (provisional 1).place p.loc = .ram
        ∧ (provisional 1).heldByOther p.loc p.bytes.length = false) ∧ pair.count ≤ (provisional 2).me.cr.hx
      ∧ (∀ h ∈ (provisional 2).others, h.status ≠ .squashed ∧ h.num ≠ (provisional 2).me.num)
      ∧ (¬ ∃ h ∈ (provisional 2).harts, ∃ c ∈ h.copies, c.targets h.core (provisional 2).me = true)
      ∧ memWf (provisional 2).mem = true := by
  refine ⟨rfl, rfl, rfl, rfl, rfl, ?_, ?_, ?_, ?_, ?_, rfl⟩ <;> decide

/-- A hart of another slot with a copy into the test hart's allocation. -/
def copier : Hart := { Hart.reset 1 0 1 false with
  status := .running
  copies := [⟨0x0070000000000010, 0x0070000000023000, 8, home, [], none⟩] }

theorem witness_ShapePublished_targeted :
    let s : State := { provisional 2 with others := [copier] }
    s.myGang = some pair ∧ pair.count ≤ s.me.cr.hx ∧ (∀ h ∈ s.others, h.status ≠ .squashed ∧ h.num ≠ s.me.num)
      ∧ ∃ h ∈ s.harts, ∃ c ∈ h.copies, c.targets h.core s.me = true := by
  refine ⟨rfl, ?_, ?_, ?_⟩ <;> decide

theorem witness_TrigRule :
    Ready {} (onMe (fun h => { h with miller := true }) base) ∧ Ready {} base ∧ base.me.miller = false :=
  ⟨ready (by decide), ready (by decide), rfl⟩

/-- The test hart in the gang, at index 0, with arrivals of the other hart, and the predecessor's word. -/
def inGang (k : Nat) (w : Nat) : State :=
  holding 0x6100 (leBytes 8 w) (ganged { pair with arrivals := [(1, k)] } base)

theorem witness_GangWaits :
    Ready {} (inGang 0 (2 ^ 63)) ∧ (inGang 0 0).myGang = some { pair with arrivals := [(1, 0)] } ∧ pair.predLoc = some (at_ 0x6100)
      ∧ (inGang 0 0).watchOwn pair.pred.toNat 8 .read = [] ∧ (inGang 0 0).heldByOther (at_ 0x6100) 8 = false
      ∧ 2 ^ 63 ≤ valueOf ((inGang 0 (2 ^ 63)).readLoc (at_ 0x6100) 8).2
      ∧ valueOf ((inGang 0 (2 ^ 63 - 1)).readLoc (at_ 0x6100) 8).2 < 2 ^ 63 ∧ (ganged fresh base).myGang = some fresh
      ∧ fresh.predLoc = none ∧ base.myGang = none ∧ base.wouldRun = false ∧ base.me.miller = false
      ∧ (onMe (fun h => { h with miller := true }) base).me.miller = true
      ∧ (onCr (fun c => { c with confirmed := false }) base).me.cr.confirmed = false := by
  refine ⟨ready (by decide), rfl, rfl, ?_, ?_, ?_, ?_, rfl, rfl, rfl, ?_, rfl, rfl, rfl⟩ <;> decide

theorem witness_GangWaits_barrier :
    (inGang 1 0).wouldRun = false ∧ (inGang 1 0).me.cr.confirmed = true ∧ nextBarrier (inGang 1 0).me = 1
      ∧ (∀ i, i < 2 → (i = (inGang 1 0).me.cr.hx ∧ (inGang 1 0).me.arrived = false)
        ∨ Past { pair with arrivals := [(1, 1)] } 1 i)
      ∧ (∃ i, i < 2 ∧ ¬ (i = (inGang 0 0).me.cr.hx ∧ (inGang 0 0).me.arrived = false)
        ∧ ¬ Past { pair with arrivals := [(1, 0)] } 1 i) := by
  refine ⟨by decide, rfl, by decide, ?_, 1, by decide, by decide, by unfold Past; decide⟩
  unfold Past; decide

theorem witness_GangWaits_end :
    Issues {} (onMe (fun h => { h with miller := true }) base) ∧ Issues {} (inGang 0 0)
      ∧ (inGang 0 0).me.copies = [] ∧ (inGang 0 0).heldByOther pair.doneLoc 8 = false
      ∧ (inGang 0 0).place pair.doneLoc = .ram ∧ (inGang 0 0).hasError pair.doneLoc 8 = false
      ∧ (inGang 0 0).watchOwn (sx56 (inGang 0 0).me.cr.complp).toNat 8 .write = [] := by
  refine ⟨(ready (by decide)).1, (ready (by decide)).1, rfl, ?_, ?_, ?_, ?_⟩ <;> decide

/-- Tasks in the deque of core 0. -/
def tasks (d : List (Word × Word)) : State := base.setCore { base.myCore with deque := d }

theorem witness_TaskResult :
    Ready (scalarGate [7, 8, 9] false) base ∧ base.me.reg 7 = 0 ∧ Ready (scalarGate [8, 9, 10] false) base ∧ base.me.reg 9 ≠ 0
      ∧ base.home (base.me.reg 8) = .ok (base, 0) ∧ base.me.cr.confirmed = true ∧ (base.coreAt 0).deque.length < 64
      ∧ (∃ t, base.home 0x0000700000000000 = .error (t, .pagefault))
      ∧ Ready { scalarGate [9, 10] false with miller := false } base
      ∧ (provisional 1).me.cr.confirmed = false ∧ Issues (scalarGate [7, 8, 9] false) (provisional 1)
      ∧ Issues { scalarGate [7, 8] false with miller := false } (provisional 1)
      ∧ Issues (scalarGate [7, 8] false) (provisional 1) ∧ (provisional 1).me.miller = false := by
  refine ⟨ready (by decide), rfl, ready (by decide), ?_, rfl, rfl, ?_, ⟨_, rfl⟩, ready (by decide), rfl, (ready (by decide)).1,
    (ready (by decide)).1, (ready (by decide)).1, rfl⟩ <;> decide

/-- A full deque and a capability list whose one capability is the deque area. -/
def fullDeque : State :=
  { tasks (List.replicate 64 (1, 2)) with
    capBase := 0x1000
    mem := memPut [] 0x1000 (leBytes 8 (2 ^ 56) ++ leBytes 8 0x200000) }

theorem witness_TaskResult_full :
    (fullDeque.coreAt 0).deque = (1, 2) :: List.replicate 63 (1, 2) ∧ (fullDeque.coreAt 0).deque.length = 64
      ∧ fullDeque.capData 1 = some 0x200000 ∧ (fullDeque.coreAt 0).spilled.length < 4096
      ∧ (fullDeque.coreAt 0).spilled.Nodup := by
  refine ⟨rfl, ?_, ?_, ?_, ?_⟩ <;> decide

theorem witness_TaskResult_takes :
    Ready (scalarGate [9, 10] false) base ∧ (onMe (fun h => { h with miller := true }) base).me.miller = true
      ∧ (base.coreAt 0).deque = [] ∧ ((tasks [(1, 2), (3, 4)]).coreAt 0).deque = [(1, 2)] ++ [(3, 4)]
      ∧ ((tasks [(1, 2), (3, 4)]).coreAt 0).spilled = [] ∧ Ready (scalarGate [9, 10, 8] false) (put 8 767 base)
      ∧ ((put 8 767 base).me.reg 8).toNat ≤ 767 ∧ base.diesPresent.getLsbD (767 / 192) = true
      ∧ 767 < ((put 8 768 base).me.reg 8).toNat := by
  refine ⟨ready (by decide), rfl, rfl, rfl, rfl, ready (by decide), ?_, ?_, ?_⟩ <;> decide

/-- A future cell at s8 with a state byte, and a hart parked on it. -/
def future (x : Byte) : State :=
  { holding 0x2000 (leBytes 8 5 ++ [x]) base with
    others := [{ Hart.reset 1 0 1 false with status := .parked (at_ 0x2000) 5 }] }

theorem witness_FuturesAndYield :
    Ready (scalarGate [7, 8] false) (future 1) ∧ (base.me.reg 8).toNat % 16 = 0 ∧ ReadOpen (future 1) (base.me.reg 8) 9 (future 1) (at_ 0x2000)
      ∧ cellFull ((future 1).readLoc (at_ 0x2000) 9).2 ∧ ¬ cellFull ((future 0).readLoc (at_ 0x2000) 9).2
      ∧ Ready (scalarGate [8, 9] false) (future 0) ∧ WriteOpen (future 0) .write (base.me.reg 8) 9 (future 0) (at_ 0x2000)
      ∧ (future 0).place (at_ 0x2000) = .ram ∧ (future 0).hasError (at_ 0x2000) 9 = false
      ∧ (∃ h ∈ (future 0).others, h.status = .parked (at_ 0x2000) 5) ∧ (base.me.reg 9).toNat % 16 ≠ 0
      ∧ Ready (scalarGate [9, 9] false) base ∧ ¬ (∃ h ∈ (future 0).others, h.status = .parked (at_ 0x2010) 5)
      ∧ (∀ h ∈ (future 0).others, h.signalBlocked .s = false) := by
  refine ⟨ready (by decide), by decide, ⟨rfl, by decide, .inr (by decide), by decide⟩, by unfold cellFull; decide,
    by unfold cellFull; decide, ready (by decide), ⟨rfl, by decide, .inr (by decide), by decide⟩, rfl, rfl,
    ⟨_, List.mem_cons_self, rfl⟩, by decide, ready (by decide), by decide, by decide⟩

/-- The core traces into a buffer of 256 KiB in the window, with records waiting. -/
def tracing (n : Nat) : State := base.setCore { base.myCore with
  trbase := 0x0070000000040000
  trsize := 0x40000
  trhead := 0x3FFF0
  trptbase := some 0
  traceFifo := List.replicate n ⟨1, 2, 0, false, 3, 0⟩ }

/-- The same with an earlier record of another hart that waits for room. -/
def othersWait (n : Nat) : State :=
  (tracing n).setCore { (tracing n).myCore with traceWait := [⟨1, 2, 1, false, 3, 1⟩] }

theorem witness_TraceAndWatch :
    Ready (scalarGate [8] false) base ∧ base.myCore.trsize = 0 ∧ (tracing 63).myCore.trsize ≠ 0
      ∧ (tracing 63).myCore.traceFifo.length < 64 ∧ 64 ≤ (tracing 64).myCore.traceFifo.length
      ∧ (∃ r, waitingRecords (tracing 63) 5 2 = r :: [] ∧ r.owner = (tracing 63).me.num)
      ∧ (∃ r rest, waitingRecords (othersWait 63) 5 2 = r :: rest ∧ r.owner ≠ (othersWait 63).me.num)
      ∧ ((tracing 1).coreAt 0).traceFifo = ⟨1, 2, 0, false, 3, 0⟩ :: []
      ∧ (tracing 1).traceLoc (some 0) (sx56 0x0070000000040000 + 0x3FFF0) = (tracing 1, some (at_ 0x7FFF0))
      ∧ (tracing 1).heldByOther (at_ 0x7FFF0) 16 = false ∧ (tracing 1).traceLoc none 0 = (tracing 1, none) := by
  refine ⟨ready (by decide), rfl, ?_, ?_, ?_, ⟨_, rfl, rfl⟩, ⟨_, _, rfl, ?_⟩, rfl, rfl, ?_, rfl⟩ <;> decide

theorem witness_TraceAndWatch_watch :
    let s : State := { base with watchFlight := [watched] }
    s.watchFlight = watched :: [] ∧ (∃ h ∈ s.harts, h.num = watched.owner ∧ h.resident = true)
      ∧ (∀ h ∈ State.reset.harts, h.num = watched.owner → h.resident = false)
      ∧ ((s.coreAt watched.core).watchQueue.length < 8)
      ∧ 8 ≤ (({ Core.reset 0 with watchQueue := List.replicate 8 watched } : Core).watchQueue.length) := by
  refine ⟨rfl, ⟨_, List.mem_cons_self, by decide, by decide⟩, by decide, by decide, by decide⟩

/-- A packet of the test hart to core 1 of its cluster, of two words. -/
def packet (kind : Nat) (data : List Byte) : Packet := ⟨kind, 0, 1, 0, 2, true, 0, 5, [0, 8], data, 0, 3, [], false⟩

/-- A write that earlier packets of the test hart's pass hold back, to one place. -/
def heldBack (wait : Bool) : Packet := ⟨4, 0, 0, 0, 0, false, 0, 1, [at_ 0x9000], [7, 8], 0, 0, [], wait⟩

/-- A state in which it is the oldest. -/
def sent (p : Packet) : State := { base with packets := [p] }

theorem sent_oldest (p : Packet) : Oldest (sent p) p.kind p := ⟨[], [], rfl, rfl, by simp⟩

theorem sent_free (p : Packet) (hp : p.requester = 0) : PacketFree (sent p) p := by
  intro l _ h hh
  have : h = base.me := by simpa [State.harts, sent, base, State.reset] using hh
  subst this
  intro hn
  exact absurd hp.symm hn

theorem sent_next (p : Packet) (hk : p.kind = 2 ∨ p.kind = 4) (hp : p.requester = 0) : NextWrite (sent p) p := by
  refine ⟨[], [], rfl, ⟨hk, ?_, fun _ q hq h3 => ?_, sent_free p hp⟩, by simp⟩
  · rcases hk with h | h <;> simp [sent, h]
  · rw [List.mem_singleton.1 hq] at h3
    rcases hk with h | h <;> omega

theorem witness_PacketResult :
    Oldest (sent (packet 0 [])) 0 (packet 0 []) ∧ PacketFree (sent (packet 0 [])) (packet 0 [])
      ∧ (∀ l ∈ packetPlaces (packet 0 []), (sent (packet 0 [])).hasError l (2 ^ 2) = false)
      ∧ Oldest (sent (packet 1 (leBytes 8 77))) 1 (packet 1 (leBytes 8 77)) ∧ (packet 1 []).requester = base.me.num
      ∧ NextWrite (sent (packet 2 (leBytes 8 77))) (packet 2 (leBytes 8 77))
      ∧ NextWrite (sent (heldBack true)) (heldBack true) ∧ (heldBack true).requester = base.me.num
      ∧ (sent (heldBack true)).place ((heldBack true).offsets.headD 0) = .ram
      ∧ Oldest (sent (packet 3 [])) 3 (packet 3 []) :=
  ⟨sent_oldest _, sent_free _ rfl, by decide, sent_oldest _, rfl, sent_next _ (.inl rfl) rfl, sent_next _ (.inr rfl) rfl, rfl, rfl,
    sent_oldest _⟩
/-- Firmware whose image in slot A runs and has not reported. -/
def awaiting : Firmware := { Firmware.reset with running := some false }

theorem witness_FirmwareResult :
    Accepted Firmware.reset Firmware.reset.slotA ∧ ¬ Accepted Firmware.reset Firmware.reset.slotB
      ∧ ¬ Accepted { Firmware.reset with rollback := 2 } Firmware.reset.slotA ∧ ({ (default : BootInputs) with dieUp := 8 }).dieUp ≠ 0
      ∧ Awaited awaiting ∧ ¬ Awaited Firmware.reset ∧ runningSlot awaiting = some awaiting.slotA
      ∧ base.time.toNat < 60000000000 ∧ 60000000000 ≤ ({ base with time := 60000000000 } : State).time.toNat
      ∧ ({ kind := .management, image := ⟨1, 0, true⟩ } : FirmwareUpload).kind = .management := by
  refine ⟨⟨_, rfl, rfl, rfl, by decide⟩, ?_, ?_, by decide, ⟨by decide, rfl⟩, ?_, rfl, by decide, by decide, rfl⟩
  · rintro ⟨i, h, -⟩; cases h
  · rintro ⟨i, h, -, -, h2⟩; cases h; exact absurd h2 (by decide)
  · rintro ⟨h, -⟩; exact h rfl

/-- A mailbox at 0x200000 whose first record is posted with a code and arguments 1 to 4. -/
def posting (code a b c d : Nat) : State :=
  { base with
    capBase := 0x1000
    mem := memPut (memPut [] 0x1000 (leBytes 8 (2 * 2 ^ 56) ++ leBytes 8 0x200000)) 0x200000
      (leBytes 8 (256 + code) ++ leBytes 8 a ++ leBytes 8 b ++ leBytes 8 c ++ leBytes 8 d) }

theorem posting_is (code a b c d : Nat) (h : (posting code a b c d).posted = some 0x200000)
    (hc : (posting code a b c d).mgmtDword 0x200000 % 256 = code) (hw : memWf (posting code a b c d).mem = true) (hs : (posting code a b c d).mgmtSpan (0x200000 + 1) 1 = 1) :
    Posted (posting code a b c d) code 0x200000 := ⟨h, hc, hs, hw⟩

theorem witness_MailboxResult :
    base.posted = none ∧ Posted (posting 3 0x300000 0 0 0) 3 0x200000 ∧ Posted (posting 4 0x300000 0x400000 0 0) 4 0x200000
      ∧ Posted (posting 5 0x300000 8 0 0) 5 0x200000 :=
  ⟨by decide, posting_is _ _ _ _ _ (by decide) (by decide) (by decide) (by decide), posting_is _ _ _ _ _ (by decide) (by decide) (by decide) (by decide),
    posting_is _ _ _ _ _ (by decide) (by decide) (by decide) (by decide)⟩

/-- The same with a PTE at 0x300000. -/
def migrating (p : Nat) : State :=
  { posting 2 0x300000 0x300400 0x80000 0 with mem := memPut (posting 2 0x300000 0x300400 0x80000 0).mem 0x300000 (leBytes 8 p) }

theorem witness_MailboxResult_migration :
    Posted (migrating 0x40021) 2 0x200000 ∧ (migrating 0x40021).mgmtDword 0x300000 = 0x40021
      ∧ (migrating 0x40021).argument 0x200000 1 % 8 = 0 ∧ (migrating 0x40021).argument 0x200000 2 % 1024 = 0
      ∧ (0x40021 % 2 = 1 ∧ 0x40021 / 32 % 2 = 1 ∧ 0x40021 / 2 ^ 52 = 0 ∧ 0x40021 / 512 % 2 = 0 ∧ 0x40021 / 2 ^ 10 % 2 ^ 8 = 0
        ∧ 0x40021 / 256 % 2 = 0)
      ∧ Posted (migrating 0x40121) 2 0x200000 ∧ (migrating 0x40121).mgmtDword 0x300000 / 256 % 2 = 1 :=
  ⟨⟨by decide, by decide, by decide, by decide⟩, by decide, by decide, by decide, by decide,
    ⟨by decide, by decide, by decide, by decide⟩, by decide⟩

theorem witness_MailboxResult_dump :
    Posted (posting 1 0 767 0x300000 64) 1 0x200000 ∧ (posting 1 0 767 0x300000 64).argument 0x200000 2 = 767
      ∧ (∀ h ∈ (posting 1 0 767 0x300000 64).harts, h.vec.pass = none)
      ∧ Posted (posting 1 0 768 0x300000 63) 1 0x200000 ∧ 767 < (posting 1 0 768 0x300000 63).argument 0x200000 2
      ∧ (posting 1 0 0 0x300000 63).argument 0x200000 4 < 64 :=
  ⟨posting_is _ _ _ _ _ (by decide) (by decide) (by decide) (by decide), by decide, by decide,
    posting_is _ _ _ _ _ (by decide) (by decide) (by decide) (by decide), by decide, by decide⟩

/-- A migration whose record at 0x300400 names frames 0x40000 and 0x80000 and a progress. -/
def copied (k : Nat) : State :=
  { base with
    migrations := [⟨0x300000, 0x300400, 0x200000⟩]
    mem := memPut [] 0x300400 (leBytes 8 0x40000 ++ leBytes 8 0x80000 ++ leBytes 8 k) }

theorem witness_MailboxResult_chunk :
    (copied 258048).migrations[0]? = some ⟨0x300000, 0x300400, 0x200000⟩ ∧ memWf (copied 258048).mem = true
      ∧ (copied 258048).mgmtDword (0x300400 + 16) % 2 ^ 19 + 4096 = 262144
      ∧ (copied 258048).mgmtDword (0x300400 + 8) = 0x80000 ∧ 0x80000 + 262144 ≤ 0x300400 ∧ 0x80000 + 262144 ≤ 0x300000
      ∧ (copied 0).mgmtDword (0x300400 + 16) % 2 ^ 19 + 4096 < 262144 := by
  refine ⟨rfl, ?_, ?_, ?_, ?_, ?_, ?_⟩ <;> decide

theorem witness_LinkRetrains :
    ([(0, 1), (0, 2), (0, 3), (1, 2), (1, 3), (2, 3)] : List (Nat × Nat))[5]? = some (2, 3) ∧ base.diesPresent.getLsbD 2 = true
      ∧ base.diesPresent.getLsbD 3 = true ∧ (∀ h ∈ base.others, h.num ≠ base.me.num)
      ∧ base.retrains.toList.getD 5 0 ≠ 2
      ∧ ({ base with retrains := base.retrains.setIfInBounds 5 2 } : State).retrains.toList.getD 5 0 = 2 := by
  refine ⟨rfl, ?_, ?_, ?_, ?_, ?_⟩ <;> decide

theorem witness_PackageEvents :
    (¬ ∃ h ∈ base.harts, h.core = 5 ∧ h.resident = true) ∧ (∃ h ∈ base.harts, h.core = 0 ∧ h.resident = true)
      ∧ ((List.range 136).filter fun i => (BitVec.allOnes 128 : BitVec 128).getLsbD i).length = (base.coreAt 5).lmod
      ∧ base.mgmtSpan 0x1000 8 = [1, 2, 3, 4, 5, 6, 7, 8].length ∧ 0x1000 % 8 = 0 ∧ base.hasError 0x1000 8 = false := by
  refine ⟨?_, ⟨_, List.mem_cons_self, by decide, by decide⟩, ?_, ?_, ?_, ?_⟩ <;> decide

theorem witness_ScalarFrameKept :
    scalarOnly (.add 7 8 9 false) base = some [7] ∧ (∃ t, exec (.add 7 8 9 false) base = .next t)
      ∧ scalarOnly (.fadd 7 8 9 true) base = some [7] ∧ scalarOnly (.trap 3) base = some [] :=
  ⟨rfl, ⟨_, rfl⟩, rfl, rfl⟩

theorem witness_MemoryFrameKept :
    memWf base.mem = true ∧ (∃ t, exec (.ld 7 8 .d false 0) base = .next t) ∧ (∃ t, exec (.st 9 8 .d 8) base = .next t)
      ∧ amoSpec (.amoMaxu 7 8 9 true .rlx .core) = some (.maxu, 7, 8, 9, 8)
      ∧ ∃ t, exec (.amoMaxu 7 8 9 true .rlx .core) base = .next t := ⟨rfl, ⟨_, rfl⟩, ⟨_, rfl⟩, rfl, _, rfl⟩

theorem witness_VectorFrameKept :
    appends (.vadd 6 1 2 true false 0) inPass ∧ (∃ t, exec (.vadd 6 1 2 true false 0) inPass = .next t)
      ∧ appends (.vst 1 1 true 0 false) inPass ∧ appends (.vred 7 1 .sum true 0) inPass :=
  ⟨.inl rfl, ⟨_, rfl⟩, .inr (.inl ⟨rfl, .inr ⟨1, 1, true, false, 0, .inr rfl⟩⟩), .inr (.inr (.inr (.inr ⟨7, 1, .sum, true, 0, rfl⟩)))⟩


/-- The rows of three sources: two integers, a float and a mask. -/
def rows : Env :=
  [(1, ⟨[⟨.off, 0⟩, ⟨.elem ⟨.i8, 0x80, 0⟩, 1⟩], [], []⟩), (2, ⟨[⟨.elem ⟨.i8, 3, 0⟩, 0⟩, ⟨.elem ⟨.i8, 0xFF, 0⟩, 1⟩], [], []⟩),
    (3, ⟨[⟨.bit false, 0⟩, ⟨.bit true, 1⟩], [], []⟩),
    (5, ⟨[⟨.elem ⟨.f32, 0x3F800000, 0⟩, 0⟩, ⟨.elem ⟨.f32, 0x40000000, 0⟩, 1⟩], [], []⟩)]

/-- A division of source 1 by source 2 where mask 3 is true. -/
def dividing : Node := { node 6 (.arith .div false) (some .i16) [⟨1, true⟩, ⟨2, true⟩] with pred := some ⟨3, true⟩ }

/-- A fused multiply-add of source 5 with a scalar, accumulating source 2. -/
def fusing : Node := { node 6 (.arith .fma false) (some .f32) [⟨5, true⟩, ⟨2, true⟩] with scalar := some 0x40400000 }

theorem witness_VectorElements :
    ActiveAt rows dividing 2 1 [⟨.i8, 0x80, 0⟩, ⟨.i8, 0xFF, 0⟩]
      ∧ operandsOf dividing [⟨.i8, 0x80, 0⟩, ⟨.i8, 0xFF, 0⟩] = ⟨.i8, 0x80, 0⟩ :: ⟨.i8, 0xFF, 0⟩ :: []
      ∧ (∀ x ∈ [Tag.i8, Tag.i8], isInt x = true) ∧ ((rows.row 1).get 0).cell.elem? = none
      ∧ ((rows.row 3).get 0).cell.isTrue = false ∧ pointwise dividing.op = true := by
  refine ⟨⟨by decide, by decide, ?_⟩, ?_⟩
  · intro p h; have h' : some (⟨3, true⟩ : Edge) = some p := h; cases h'; decide
  · decide

theorem witness_VectorElements_float :
    ActiveAt rows fusing 2 1 [⟨.f32, 0x40000000, 0⟩, ⟨.i8, 0xFF, 0⟩]
      ∧ operandsOf fusing [⟨.f32, 0x40000000, 0⟩, ⟨.i8, 0xFF, 0⟩]
        = ⟨.f32, 0x40000000, 0⟩ :: ⟨.f32, 0x40400000, 0⟩ :: [⟨.i8, 0xFF, 0⟩]
      ∧ (∃ x ∈ [Tag.f32, .f32, .f32, .i8], isInt x = false) := by
  refine ⟨⟨by decide, by decide, ?_⟩, by decide, .f32, by decide⟩
  intro p h; have h' : (none : Option Edge) = some p := h; cases h'

theorem witness_VectorElements_masks :
    ActiveAt rows (node 7 (.cmp .lt true) none [⟨1, true⟩, ⟨2, true⟩]) 2 1 [⟨.i8, 0x80, 0⟩, ⟨.i8, 0xFF, 0⟩]
      ∧ (∀ z ∈ (node 8 (.mask .sbf) none [⟨3, true⟩]).srcs, 1 < (rows.row z.node).ents.length)
      ∧ (let xs := (List.range 2).filterMap fun i => ((rows.row 2).get i).cell.elem?
        2 ≤ (rows.row 2).ents.length ∧ ∀ a ∈ xs, a.tag = .i8 ∧ a.bits < 2 ^ (8 * tagBytes .i8) ∧ a.scale = 0) := by
  refine ⟨⟨by decide, by decide, ?_⟩, ?_⟩
  · intro p h; have h' : (none : Option Edge) = some p := h; cases h'
  · decide

/-- A pending sink over a node of the rows. -/
def takes (op : SinkOp) (n : Nat) : Sink := newSink inPass op n true none 0

theorem witness_VectorElements_sinks :
    isInt (indexTag [node 2 .iota (some .i8) []] (takes (.red .min false none) 2).node) = true
      ∧ (takesIn rows .i8 (takes (.red .min false none) 2) [some (5, 0), none] 2).map (fun a => elemInt a false) = [5]
      ∧ (takesIn rows .i8 (takes (.red .min false none) 2) [] 2).map (fun a => elemInt a false) = [3, -1]
      ∧ (takes (.count .first none) 3).pred = none ∧ countBit rows (takes (.count .first none) 3) [some (1, 0)] 0 = true
      ∧ countBit rows (takes (.count .first none) 3) [] 1 = true
      ∧ (takes (.red .sum true none) 5).op = .red .sum true none := by decide

theorem witness_VectorElements_rows : RowOf rows 2 .i8 ∧ ∀ e, ((rows.row 3).get e).cell.elem? = none :=
  ⟨fun e => match e with
    | 0 => .inr ⟨_, rfl, rfl⟩
    | 1 => .inr ⟨_, rfl, rfl⟩
    | _ + 2 => .inl rfl,
  fun e => match e with
    | 0 => rfl
    | 1 => rfl
    | _ + 2 => rfl⟩
/-! ### Further witnesses: the remote window, waits, spills and interrupts -/

/-- s8 points to a page that maps to the remote window. -/
def remoteHart : State := { put 8 0x40000 base with tlb := [⟨0, 0, ⟨1, false, 0xF0000000000E7⟩⟩] }

theorem witness_AtomicResult_remote :
    amoSpec (.amoMin 7 8 9 true .ar .core) = some (.min, 7, 8, 9, 8) ∧ Issues (scalarGate [7, 8, 9] false) remoteHart
      ∧ remoteHart.wouldRun = false ∧ (remoteHart.me.reg 8).toNat % 8 = 0
      ∧ (∃ loc, remoteHart.locate (remoteHart.me.reg 8) .amo = .ok (remoteHart, loc) ∧ remoteHart.place loc = .remote)
      ∧ RemoteRefuses .min 8 ∧ RemoteRefuses .add 4 ∧ ¬ RemoteRefuses .cas 8 :=
  ⟨rfl, (ready (by decide)).1, by decide, by decide, ⟨_, rfl, by decide⟩, by unfold RemoteRefuses; decide,
    by unfold RemoteRefuses; decide, by unfold RemoteRefuses; decide⟩

theorem witness_PackageEvents_remote :
    let s := onMe (fun h => { h with remoteFail := true }) remoteHart
    Ready (scalarGate [9, 8] true) s ∧ s.me.remoteFail = true ∧ s.me.prov = []
      ∧ ∃ loc, s.place loc = .remote ∧ MayRead s (address s.me 8 8) 8 s loc ∧ MayWrite s .write (address s.me 8 8) 8 s loc :=
  ⟨ready (by decide), rfl, rfl, _, by decide, ⟨by decide, rfl, by decide, .inr (by decide), by decide⟩,
    by decide, rfl, by decide, .inr (by decide), by decide⟩

/-- A copy of the test hart whose source page is pinned. -/
def pinning : State := onMe (fun h => { h with
  copies := [⟨0x0070000000002000, 0x40000, 64, home, [⟨1, false, 0x1E7⟩], none⟩]
  cr := { h.cr with tlbinva := 0x40002 } }) base

theorem witness_FenceResult_waits :
    Issues {} pinning ∧ pinning.wouldRun = false ∧ EngineWork pinning ∧ Issues { supervisor := true } pinning ∧ Pinned pinning :=
  ⟨(ready (by decide)).1, by decide, .inl (by decide), (ready (by decide)).1,
    .inl ⟨_, List.mem_cons_self, .inl ⟨_, List.mem_singleton_self _, _, List.mem_singleton_self _, by decide⟩⟩⟩

/-- A pass between strips that holds a page. -/
theorem witness_FenceResult_pass :
    let s := onCr (fun c => { c with tlbinva := 0x40002 })
      (passing counting { passAt counting 0 with pins := [(6, ⟨1, false, 0x1E7⟩)] })
    Pinned s ∧ Issues { supervisor := true } s :=
  ⟨.inl ⟨_, List.mem_cons_self, .inr ⟨_, rfl, _, List.mem_singleton_self _, by decide⟩⟩, (ready (by decide)).1⟩

theorem witness_FenceResult_write :
    let s := { onCr (fun c => { c with tlbinva := 0x40002 }) base with
      packets := [⟨4, 0, 0, 0, 0, false, 0, 1, [at_ 0x9000], [7, 8], 0, 0, [⟨1, false, 0x1E7⟩], true⟩] }
    Pinned s ∧ Issues { supervisor := true } s :=
  ⟨.inr ⟨_, List.mem_singleton_self _, _, List.mem_singleton_self _, by decide⟩, (ready (by decide)).1⟩

theorem witness_FenceResult_done : ¬ EngineWork base ∧ ¬ Pinned base := by
  refine ⟨by unfold EngineWork; decide, ?_⟩
  rintro (⟨h, hh, h1⟩ | ⟨q, hq, -⟩)
  on_goal 2 => cases hq
  have e : h = base.me := by simpa [State.harts, base, State.reset] using hh
  subst e
  rcases h1 with ⟨c, hc, -⟩ | ⟨p, hp, -⟩
  · cases hc
  · cases hp
/-- The same hart with a full return store. -/
def deepest : State := onMe (fun h => { h with rets := List.replicate 32 (home, Frame.regs24) }) deep

/-- A spill of the lowest eight registers of a hart whose window lies deep. -/
theorem deep_spills : ReturnRoom deep deep ∧ ∃ t, Spills (deep.me.wbase + frameRegs .regs8 + 24) 1 deep t :=
  ⟨.inl ⟨by decide, rfl⟩, _, by decide, by decide, _, ⟨_, _, by unfold InOwn; decide,
    ⟨by decide, rfl, by decide, .inr (by decide), by decide⟩, by decide, rfl⟩, rfl, by decide⟩

theorem deepest_room : ∃ t, ReturnRoom deepest t ∧ ∃ u, Spills (t.me.wbase + frameRegs .regs8 + 24) 1 t u :=
  ⟨_, .inr ⟨List.replicate 31 (home, Frame.regs24), home, .regs24, _, rfl, by decide, ⟨_, _, by unfold InOwn; decide,
    ⟨by decide, rfl, by decide, .inr (by decide), by decide⟩, by decide, rfl⟩, rfl⟩,
    _, by decide, by decide, _, ⟨_, _, by unfold InOwn; decide,
    ⟨by decide, rfl, by decide, .inr (by decide), by decide⟩, by decide, rfl⟩, rfl, by decide⟩

theorem witness_CallReturnResult_spill :
    Ready (scalarGate [] true) deep ∧ copies55 (wordTarget deep.me 5 24) ∧ Ready (scalarGate [8] false) deep
      ∧ (deep.me.reg 8).toNat % 4 = 0 ∧ copies55 (deep.me.reg 8) ∧ Ready (scalarGate [] true) deepest := by
  refine ⟨ready (by decide), ?_, ready (by decide), by decide, ?_, ready (by decide)⟩ <;>
  · intro k h1 h2
    have : k = 56 ∨ k = 57 ∨ k = 58 ∨ k = 59 ∨ k = 60 ∨ k = 61 ∨ k = 62 ∨ k = 63 := by omega
    rcases this with h | h | h | h | h | h | h | h <;> subst h <;> decide

/-- A hart that returns below its resident window, its return entry in the store or spilled at RSP + 8. -/
def returning (rets : List (Word × Frame)) : State :=
  holding 0x3F8 (leBytes 8 (0x0070000000001100 + 1)) (onMe (fun h => { h with
    wbase := 24
    wlo := 24
    rets := rets
    spad := 0x10000
    cr := { h.cr with spillp := 0x0070000000000400 }
    wsp := 0x0070000000000440
    rsp := 0x00700000000003F0 }) base)

/-- Registers after a fill. -/
theorem refilled_all (old : Vector Word 136) (l v : Nat) : Refilled old (Vector.ofFn fun p : Fin 136 =>
    match (List.range 8).find? fun i => decide (p = windowAt (l + i)) with
    | some i => BitVec.ofNat 64 (v / 2 ^ (64 * i))
    | none => old.get p) l v := by
  have e : ∀ (f : Fin 136 → Word) (p : Fin 136), (Vector.ofFn f).get p = f p := fun f p => Vector.get_ofFn f p
  constructor
  · intro i hi
    have hw : ∀ j, j < 8 → (windowAt (l + i) = windowAt (l + j) ↔ i = j) := by
      intro j hj
      simp only [windowAt, Fin.mk.injEq]
      omega
    have hf : ((List.range 8).find? fun j => decide (windowAt (l + i) = windowAt (l + j))) = some i := by
      rw [List.find?_eq_some_iff_getElem]
      refine ⟨by simp, i, by simpa using hi, by simp, fun j hj => ?_⟩
      have := hw j (by omega)
      simp [this]
      omega
    rw [e, hf]
  · intro p hp
    have hf : ((List.range 8).find? fun j => decide (p = windowAt (l + j))) = none := by
      rw [List.find?_eq_none]
      intro j hj
      simpa using hp j (by simpa using hj)
    rw [e, hf]

theorem witness_CallReturnResult_fill :
    Ready {} (returning [(home, .regs16)])
      ∧ (∃ s1, Pops (returning [(home, .regs16)]) s1 home .regs16 ∧ ∃ t, Fills 2 (slidBack s1 .regs16) t) := by
  refine ⟨ready (by decide), _, .inl ⟨[], rfl, rfl⟩, ?_⟩
  refine ⟨_, by decide, .inr (by decide), _, _, _, ⟨_, _, by unfold InOwn; decide,
    ⟨by decide, rfl, by decide, .inr (by decide), by decide⟩, rfl, rfl⟩, refilled_all _ _ _, by decide, .inr (by decide), _, _, _,
    ⟨_, _, by unfold InOwn; decide, ⟨by decide, rfl, by decide, .inr (by decide), by decide⟩, rfl, rfl⟩, refilled_all _ _ _, rfl,
    by decide⟩

theorem witness_CallReturnResult_pop :
    Ready {} (returning []) ∧ ∃ s1, Pops (returning []) s1 0x0070000000001100 .regs16 ∧ ∃ t, Fills 2 (slidBack s1 .regs16) t := by
  refine ⟨ready (by decide), _, .inr ⟨_, _, rfl, by decide, ⟨_, _, by unfold InOwn; decide,
    ⟨by decide, rfl, by decide, .inr (by decide), by decide⟩, rfl, rfl⟩, by decide, by decide, rfl⟩, ?_⟩
  refine ⟨_, by decide, .inr (by decide), _, _, _, ⟨_, _, by unfold InOwn; decide,
    ⟨by decide, rfl, by decide, .inr (by decide), by decide⟩, rfl, rfl⟩, refilled_all _ _ _, by decide, .inr (by decide), _, _, _,
    ⟨_, _, by unfold InOwn; decide, ⟨by decide, rfl, by decide, .inr (by decide), by decide⟩, rfl, rfl⟩, refilled_all _ _ _, rfl,
    by decide⟩

theorem witness_CallReturnResult_stops :
    deep.me.rets.length < 32 ∧ deep.me.wlo + 128 < deep.me.wbase + frameRegs .regs8 + 24
      ∧ (let s := onMe (fun h => { h with pend := h.pend.set (windowAt 7) true }) deep
         (∃ i, i < 8 ∧ s.me.pend.get (windowAt (s.me.wlo + i)) = true) ∧ s.handlerBypass = false)
      ∧ (let s := onMe (fun h => { h with spad := 0x43F }) deep
         (¬ ∃ i, i < 8 ∧ s.me.pend.get (windowAt (s.me.wlo + i)) = true) ∧ ¬ InOwn s.me s.me.wsp 64)
      ∧ Issues {} base ∧ base.me.rets = [] ∧ base.me.rsp = sx56 base.me.cr.spillp - 8 := by
  refine ⟨by decide, by decide, ⟨⟨7, by decide, by decide⟩, by decide⟩, ⟨by decide, by unfold InOwn; decide⟩,
    (ready (by decide)).1, rfl, by decide⟩
/-- A hart whose unit signals into a full FIFO. -/
def fullSignal : State := onMe (fun h => { h with tokens := h.tokens.set (fifo Queue.s.num 4) 16 }) tokened

theorem witness_Retirement_full : fullSignal.me.signalBlocked .s = true ∧ base.me.signalBlocked .s = false := by decide

theorem witness_Retirement_early :
    let u := onMe (fun h => { h with early := h.early.set (fifo 1 0) 1 }) tokened
    u.me.tookEarly 1 .s = true ∧ tokened.me.tookEarly 1 .s = false ∧ u.me.owed = [] ∧ u.me.signalBlocked .s = false := by decide

theorem witness_TrapsAndReturn_held :
    copying.me.copies ≠ [] ∧ ¬ NoCopyInto ({ onMe (fun h => { h with spad := 64 }) base with others := [copier] } : State)
      ∧ NoCopyInto base := by
  unfold NoCopyInto
  decide

theorem witness_IssueOrder_waits :
    (onMe (fun h => { h with tok := some (BitVec.ofNat 32 (encode (.tok true 1 false 0))) }) base).me.tokBlocked .s = true
      ∧ (onMe (fun h => { h with owed := [(.s, .v, home)] }) base).me.owes .s = true ∧ ¬ NoPassFirst (scalarGate [7] false) counting
      ∧ NoPassFirst (passGate [] [8]) (onCr (fun c => { c with nv := 8 }) base) := by
  refine ⟨by decide, by decide, ?_, ?_⟩ <;> (unfold NoPassFirst; decide)
/-- A hart with a context image at the address of s10's window. -/
def saving : State := put 8 0 (onCr (fun c => { c with ctxbase := 0x0070000000004000 }) base)

set_option maxHeartbeats 400000 in
theorem saving_ok : ∃ s1, saving.saveContext 0x0070000000004000 = .ok s1 := ⟨_, rfl⟩
/-- The part of an image from its control block on, of a saved hart: a handle, free bytes and zeros. -/
def lowImage : List Byte :=
  List.replicate 0x120 0 ++ handleBytes 1 ++ List.replicate 0x818 0 ++ opaqueBytes 1 0x980 4608 ++ List.replicate 0x380 0

/-- A valid header of this part, without a pass. -/
def validHeader : List Byte := leBytes 8 (2 ^ 63 + Config.partId % 2 ^ 20 * 2 ^ 12) ++ List.replicate 56 0

/-- A hart without a context image, and an image at s8. -/
def loadable : State := { base with
  mem := memPut [] (at_ 0x2000) (validHeader ++ lowImage)
  saved := [base.me.sections 1] }

theorem loadable_header : loadable.readSpan 0x0070000000002000 64 = .ok (loadable, loadable.view (at_ 0x2000) 64) := rfl
theorem readLoc_plain {s : State} (hp : s.me.prov = []) (he : s.softErrors = []) {loc : Nat} (h : 2 ^ 52 ≤ loc) (n : Nat) :
    s.readLoc loc n = (s, s.view loc n) := by
  rw [State.readLoc, State.place, if_pos h]
  simp [State.covered, hp, State.hasError, he]

theorem view_add (s : State) : ∀ (m n a : Nat), s.view a (m + n) = s.view a m ++ s.view (a + m) n := by
  intro m
  induction m with
  | zero => intro n a; simp [State.view]
  | succ m ih =>
    intro n a
    rw [show m + 1 + n = m + n + 1 by omega, State.view, State.view, ih, List.cons_append, show a + 1 + m = a + (m + 1) by omega]

theorem readPieces_append (ps qs : List Piece) (s : State) : State.readPieces (ps ++ qs) s =
    ((State.readPieces qs (State.readPieces ps s).1).1, (State.readPieces ps s).2 ++ (State.readPieces qs (State.readPieces ps s).1).2) := by
  induction ps generalizing s with
  | nil => simp [State.readPieces]
  | cons p r ih => obtain ⟨a, l, n⟩ := p; simp [State.readPieces, ih]

theorem readPieces_plain {s : State} (hp : s.me.prov = []) (he : s.softErrors = []) {loc : Nat} (h : 2 ^ 52 ≤ loc) (va : Nat) :
    ∀ k j, State.readPieces ((List.range' j k).map fun i => (va + 8 * i, loc + 8 * i, 8)) s
      = (s, s.view (loc + 8 * j) (8 * k)) := by
  intro k
  induction k with
  | zero => intro j; simp [State.readPieces, State.view]
  | succ k ih =>
    intro j
    rw [List.range'_succ, List.map_cons, State.readPieces, readLoc_plain hp he (by omega)]
    simp only [ih]
    rw [show 8 * (k + 1) = 8 + 8 * k by omega, view_add, show loc + 8 * (j + 1) = loc + 8 * j + 8 by omega]

theorem dwordPieces_aligned {va : Nat} (hv : va % 8 = 0) (loc k : Nat) :
    dwordPieces [(va, loc, 8 * k)] = (List.range' 0 k).map fun i => (va + 8 * i, loc + 8 * i, 8) := by
  rw [dwordPieces, List.flatMap_singleton]
  dsimp only
  rw [show (va % 8 + 8 * k + 7) / 8 = k by omega, List.range_eq_range']
  refine List.map_congr_left fun i hi => ?_
  have := List.mem_range'_1.1 hi
  refine Prod.ext ?_ (Prod.ext ?_ ?_) <;> dsimp only <;> omega

theorem readDwords {s : State} (hp : s.me.prov = []) (he : s.softErrors = []) {loc : Nat} (h : 2 ^ 52 ≤ loc) {va : Nat}
    (hv : va % 8 = 0) (k : Nat) (r : List Piece) : State.readPieces (dwordPieces ((va, loc, 8 * k) :: r)) s
      = ((State.readPieces (dwordPieces r) s).1, s.view loc (8 * k) ++ (State.readPieces (dwordPieces r) s).2) := by
  rw [show dwordPieces ((va, loc, 8 * k) :: r) = dwordPieces [(va, loc, 8 * k)] ++ dwordPieces r by simp [dwordPieces],
    readPieces_append, dwordPieces_aligned hv, readPieces_plain hp he h, Nat.mul_zero, Nat.add_zero]

theorem loadable_open : loadable.readOpen 0x0070000000002040 7872
  = .ok (loadable, [(0x0070000000002040, at_ 0x2040, 8 * 504), (0x0070000000003000, at_ 0x3000, 8 * 480)]) := rfl
theorem loadable_low : loadable.readSpan 0x0070000000002040 7872
    = .ok (loadable, loadable.view (at_ 0x2040) 4032 ++ (loadable.view (at_ 0x3000) 3840 ++ [])) := by
  have h : State.readPieces (dwordPieces [(0x0070000000002040, at_ 0x2040, 8 * 504), (0x0070000000003000, at_ 0x3000, 8 * 480)]) loadable
      = (loadable, loadable.view (at_ 0x2040) (8 * 504) ++ (loadable.view (at_ 0x3000) (8 * 480) ++ [])) := by
    rw [readDwords rfl rfl (by decide) (by decide), readDwords rfl rfl (by decide) (by decide)]
    rfl
  rw [State.readSpan, loadable_open]
  show Except.ok (State.readNow _ _) = _
  rw [State.readNow, h]
  rfl
theorem view_image {s : State} {a : Nat} {bs : List Byte} (hp : s.me.prov = []) (hm : s.mem = memPut [] a bs) :
    ∀ n k, k + n ≤ bs.length → s.view (a + k) n = (bs.drop k).take n := by
  intro n
  induction n with
  | zero => intro k _; simp [State.view]
  | succ n ih =>
    intro k hk
    have hlt : k < bs.length := by omega
    rw [List.drop_eq_getElem_cons hlt, List.take_succ_cons, State.view, show a + k + 1 = a + (k + 1) by omega, ih (k + 1) (by omega),
      hp, hm, memGet_memPut rfl, if_pos (by omega)]
    simp [overlay, hlt]

theorem pick (a b c : List Byte) {m n : Nat} (hm : a.length = m) (hn : b.length = n) : ((a ++ b ++ c).drop m).take n = b := by
  subst hm hn
  rw [List.append_assoc, List.drop_left, List.take_left]

theorem handle_length (n : Nat) : (handleBytes n).length = 8 := rfl
theorem opaque_length (h o n : Nat) : (opaqueBytes h o n).length = n := by rw [opaqueBytes, List.length_map, List.length_range]

theorem lowImage_length : lowImage.length = 7872 := by
  simp only [lowImage, List.length_append, handle_length, opaque_length, List.length_replicate]
theorem validHeader_length : validHeader.length = 64 := by
  rw [validHeader, List.length_append, List.length_replicate]
  rfl

theorem image_length : (validHeader ++ lowImage).length = 7936 := by
  rw [List.length_append, lowImage_length, validHeader_length]

theorem loadable_mem : loadable.mem = memPut [] (at_ 0x2000) (validHeader ++ lowImage) := by rw [loadable]

theorem loadable_header' : loadable.readSpan 0x0070000000002000 64 = .ok (loadable, validHeader) := by
  have h := view_image (s := loadable) (a := at_ 0x2000) (bs := validHeader ++ lowImage) rfl loadable_mem 64 0 (by rw [image_length]; omega)
  rw [List.drop_zero, ← validHeader_length, List.take_left, validHeader_length] at h
  rw [loadable_header, ← h]
  rfl

theorem loadable_low' : loadable.readSpan 0x0070000000002040 7872 = .ok (loadable, lowImage) := by
  have h1 := view_image (s := loadable) (a := at_ 0x2000) (bs := validHeader ++ lowImage) rfl loadable_mem 4032 64 (by rw [image_length]; omega)
  have h2 := view_image (s := loadable) (a := at_ 0x2000) (bs := validHeader ++ lowImage) rfl loadable_mem 3840 4096 (by rw [image_length])
  have e1 : (validHeader ++ lowImage).drop 64 = lowImage := by rw [← validHeader_length, List.drop_left]
  have e2 : (validHeader ++ lowImage).drop 4096 = lowImage.drop 4032 := by
    rw [show 4096 = 64 + 4032 from rfl, ← List.drop_drop, e1]
  rw [e1] at h1
  rw [e2, List.take_of_length_le (by rw [List.length_drop, lowImage_length])] at h2
  rw [loadable_low, show at_ 0x2040 = at_ 0x2000 + 64 from rfl, show at_ 0x3000 = at_ 0x2000 + 4096 from rfl, h1, h2, List.append_nil,
    List.take_append_drop]

theorem loadable_found : loadable.findSections lowImage = some (base.me.sections 1) := by
  have a : (lowImage.drop (0x160 - 0x40)).take 8 = handleBytes 1 := by
    rw [lowImage, List.append_assoc, List.append_assoc]
    exact pick _ _ _ List.length_replicate rfl
  have b : (lowImage.drop (0x980 - 0x40)).take 4608 = opaqueBytes 1 0x980 4608 := by
    rw [lowImage]
    refine pick _ _ _ ?_ (opaque_length _ _ _)
    simp only [List.length_append, handle_length, List.length_replicate]
  have c : ∀ x : SavedSections, x.handle = 1 → ((lowImage.drop (0x160 - 0x40)).take 8 == handleBytes x.handle
      && (lowImage.drop (0x980 - 0x40)).take 4608 == opaqueBytes x.handle 0x980 4608) = true := by
    intro x hx
    rw [hx, a, b, beq_self_eq_true, beq_self_eq_true]
    rfl
  exact List.find?_cons_of_pos (c _ rfl)
theorem loadable_readImage (s0 : State) : ∃ image, State.readImage s0 loadable 0x0070000000002000 validHeader = .ok (loadable, image)
    ∧ image.low = lowImage := by
  refine ⟨{ header := validHeader, low := lowImage, masks := [], materials := [], tiles := [] }, ?_, rfl⟩
  have h : leNat (validHeader.take 8) = 2 ^ 63 + 0x10768 * 2 ^ 12 := by decide
  have hl : loadable.readSpan (sx56 0x0070000000002000 + BitVec.ofNat 64 0x40) 7872 = .ok (loadable, lowImage) := loadable_low'
  unfold State.readImage
  rw [h]
  simp only [hl, undone, show imgMatrix (2 ^ 63 + 0x10768 * 2 ^ 12) = false by decide,
    show imgPsusp (2 ^ 63 + 0x10768 * 2 ^ 12) = false by decide, show imgTiles (2 ^ 63 + 0x10768 * 2 ^ 12) = 0 by decide,
    if_true, Bool.false_eq_true, if_false]
  rfl

theorem witness_CwrTraceWatchContext_load :
    let v := loadable.me.reg 8 &&& span 55 8
    Issues { scalars := [8], supervisor := true } loadable ∧ v ≠ loadable.me.cr.ctxbase ∧ v ≠ 0 ∧ loadable.me.copies = []
      ∧ NoCopyInto loadable ∧ Saved loadable loadable.me.cr.ctxbase loadable
      ∧ loadable.readSpan (sx56 v) 64 = .ok (loadable, validHeader) ∧ dwAt validHeader 0 / 2 ^ 63 % 2 = 1
      ∧ refusedWith loadable.myCore validHeader = none ∧ loadable.me.cr.confirmed = true ∧ loadable.doneHeld = false
      ∧ (∃ image, State.readImage loadable loadable v validHeader = .ok (loadable, image)
        ∧ loadable.findSections image.low = some (base.me.sections 1))
      ∧ dwAt validHeader 0 / 2 ^ 56 % 16 ≤ loadable.me.vec.tileCount
      ∧ (∃ s3, loadable.writeSpan (sx56 v + 7) (leBytes 1 (dwAt validHeader 0 / 2 ^ 56 % 128)) = .ok s3)
      ∧ loadable.me.signal = none := by
  have e : loadable.me.reg 8 &&& span 55 8 = 0x0070000000002000 := by decide
  simp only [e]
  obtain ⟨image, h1, h2⟩ := loadable_readImage loadable
  refine ⟨(ready (by decide)).1, by decide, by decide, rfl, ?_, .inl ⟨rfl, rfl⟩, loadable_header', by decide,
    by unfold refusedWith; decide, rfl, by decide, ⟨image, h1, by rw [h2]; exact loadable_found⟩, by decide, ⟨_, rfl⟩, rfl⟩
  intro h hh c hc
  have : h = base.me := by simpa [State.harts, loadable, base, State.reset] using hh
  subst this
  cases hc

theorem witness_CwrTraceWatchContext_save :
    saving.me.reg 8 &&& span 55 8 = 0 ∧ saving.me.cr.ctxbase ≠ 0 ∧ saving.me.cr.confirmed = true
      ∧ ∃ s1, saving.saveContext saving.me.cr.ctxbase = .ok s1 := ⟨by decide, by decide, rfl, _, rfl⟩

/-- A hart with the image of another device at s8: its part identity is 0. -/
def foreign : State := holding 0x2000 (leBytes 8 (2 ^ 63)) base

theorem witness_CwrTraceWatchContext_refused :
    (∃ header, foreign.readSpan 0x0070000000002000 64 = .ok (foreign, header) ∧ dwAt header 0 / 2 ^ 63 % 2 = 1
      ∧ refusedWith foreign.myCore header = some 2) ∧ ∃ s2, foreign.writeSpan 0x0070000000002008 (leBytes 2 2) = .ok s2 :=
  ⟨⟨_, rfl, by decide, by unfold refusedWith; decide⟩, _, rfl⟩
theorem witness_ControlRegisters_more :
    (Instr.cwr 8 0x009).wf = true ∧ Ready { scalars := [8], supervisor := needsS (.cwr 8 0x009) } base
      ∧ Ready { scalars := [8], supervisor := needsS (.cwr 8 0x00A) } base
      ∧ (Instr.cwr 8 0x420).wf = true ∧ Ready { scalars := [8], supervisor := needsS (.cwr 8 0x420) } base
      ∧ (Instr.cwr 8 0x47F).wf = true ∧ Ready { scalars := [8], supervisor := needsS (.cwr 8 0x47F) } base
      ∧ writableS 0x43F = span 63 0 ∧ writableS 0x440 = (span 55 2 ||| span 0 0) ∧ writableU 0x300 = 0 :=
  ⟨rfl, ready (by decide), ready (by decide), rfl, ready (by decide), rfl, ready (by decide), by decide, by decide, by decide⟩

/-- Each clause takes the bits of its field: those above it do not count. -/
theorem witness_CwrSpecial_fields :
    ((put 8 64 base).me.reg 8).toNat % 64 = 0 ∧ 32 < ((put 8 (64 + 33) base).me.reg 8).toNat % 64
      ∧ 1 ≤ ((put 8 (64 + 1) base).me.reg 8).toNat % 64 ∧ ((put 8 (64 + 32) base).me.reg 8).toNat % 64 ≤ 32
      ∧ (put 8 (2 ^ 19 + 64) base).me.reg 8 &&& span 18 0 = 64
      ∧ 262144 < ((put 8 262208 base).me.reg 8 &&& span 18 0).toNat
      ∧ ((put 8 262208 base).me.reg 8 &&& span 18 0).toNat % 64 = 0 := by decide

theorem witness_CwrTraceWatchContext_waits :
    ¬ ((tracing 1).myCore.traceFifo = [] ∧ (tracing 1).myCore.traceWait = [])
      ∧ ¬ ((othersWait 0).myCore.traceFifo = [] ∧ (othersWait 0).myCore.traceWait = [])
      ∧ Issues { scalars := [8], supervisor := (2 : BitVec 2) != 0 } (tracing 1)
      ∧ Watched remoteWatch (sx56 (remoteWatch.myCore.wpad.toList.getD 0 0)) (at_ 0x2000) [at_ 0x2000] :=
  ⟨by decide, by decide, (ready (by decide)).1, .inl ⟨rfl, .inl (by decide)⟩⟩

/-- A watchpoint on a page in migration. -/
def migratingWatch : State := put 8 0x88 { base with
  cores := [{ Core.reset 0 with wpad := (Vector.replicate 4 0x40010 : Vector Word 4) }]
  tlb := [⟨0, 0, ⟨1, false, 0x1001E7⟩⟩] }

theorem witness_CwrTraceWatchContext_migration :
    ∃ loc fs, migratingWatch.locate (sx56 (migratingWatch.myCore.wpad.toList.getD 0 0)) .read = .ok (migratingWatch, loc)
      ∧ Watched migratingWatch (sx56 (migratingWatch.myCore.wpad.toList.getD 0 0)) loc fs ∧ fs.length = 2 :=
  ⟨_, _, rfl, .inr ⟨_, _, by decide, rfl, ⟨by decide, by decide⟩, rfl⟩, by decide⟩
theorem witness_MatrixMode_mismatch :
    tiled.me.vec.tileCount ≠ 0 ∧ tiled.me.vec.tileCount ≠ (2 : BitVec 6).toNat
      ∧ Issues { mGate [] [] (some false) with passQueue := true } tiled := ⟨by decide, by decide, (ready (by decide)).1⟩

/-- The same with a mask whose first row has nine positions. -/
def nineSet : State := onVec (fun v => { v with k := v.k.set 9 (.material 0x1FF) }) inMat

theorem witness_MatrixProduct_tags :
    Issues (mGate [] [(3 : VReg).toNat, (8 : VReg).toNat + 7] (some true)) inMat
      ∧ (inMat.me.vec.v.get (3 : VReg).toFin).state = .material 5 ∧ ¬ TagsFit inMat 3 (8 : VReg).toNat 8
      ∧ nineSet.me.vec.k.get (BitVec.ofNat 4 (8 + (1 : BitVec 3).toNat)).toFin = .material 0x1FF
      ∧ ∃ i, i < mOf nineSet ∧ 8 < ((List.range 16).filter fun p => (0x1FF : BitVec 2048).getLsbD (16 * i + p)).length := by
  refine ⟨(ready (by decide)).1, rfl, ?_, rfl, 0, by decide, by decide⟩
  rintro ⟨h | h | h, -⟩ <;> exact absurd h (by decide)

/-- A D8S stream from an address on. -/
def blocksFrom (a : Nat) : BitVec 256 := BitVec.ofNat 256 (a + 5 * 2 ^ 56 + 2 ^ 108)

/-- The elements that the test hart's VST of v3 stores under a mask. -/
def storedElems : List (Option Elem) :=
  (List.range 3).map fun j => if (0x5 : BitVec 2048).getLsbD j then some (packElem .i64 5 j) else none

theorem witness_MatrixLoadStore_plain :
    (inMat.me.vec.v.get (3 : VReg).toFin).state = .material 5
      ∧ ∃ ws f ps, PlainStores (bytesFrom 0x70000000003000 0) (rmodeOf inMat.me.cr.frm) storedElems ws f
        ∧ State.locateElems (some (streamAddr (bytesFrom 0x70000000003000 0) 0)) .write (ws.map fun w => w.map fun y => [y.1]) inMat
          = (inMat, ps, none) ∧ ElementsFree inMat ps .write ∧ inMat.piecesFit (flatPieces ps) = true :=
  ⟨rfl, _, _, _, ⟨rfl, rfl⟩, rfl, ⟨by decide, by decide⟩, by decide⟩

theorem witness_MatrixLoadStore_blocks :
    let d := blocksFrom 0x70000000003000
    let s := onVec (fun v => { v with q := v.q.set 1 d }) inMat
    dFmt d = .d8s ∧ dStart d % 31 = 0
      ∧ (∃ ws f ps, BlockStores d (rmodeOf s.me.cr.frm) .i64 5 storedElems ws f
        ∧ State.locateElems (some (streamAddr d 0)) .write (ws.map fun w => w.map fun y => [y.1]) s = (s, ps, none)
        ∧ ElementsFree s ps .write ∧ s.piecesFit (flatPieces ps) = true)
      ∧ WriteFree s (matRange d 3)
      ∧ ∃ ps, State.locateElems (some (streamAddr d 0)) .read
          ((List.range 3).map fun j => if (0x5 : BitVec 2048).getLsbD j then some (readItems d j) else none) s = (s, ps, none)
        ∧ ElementsFree s ps .read :=
  ⟨by decide, by decide, ⟨_, _, _, ⟨rfl, rfl⟩, rfl, ⟨by decide, by decide⟩, by decide⟩, .inr (by decide),
    _, rfl, by decide, by decide⟩

theorem witness_CopyEngine_moves :
    let c : Copy := ⟨0x0070000000002000, 0x0070000000003000, 64, home, [], none⟩
    let r := State.pinPieces c.pins (c.count / 4096 + 2) c.src.toNat c.count copying
    let w := State.pinPieces c.pins (c.count / 4096 + 2) c.dst.toNat c.count r.1
    copying.me.copies = c :: [] ∧ copying.me.status = .running ∧ copying.copyHeld c r.2 w.2 = false
      ∧ ∀ h ∈ copying.others, h.status ≠ .squashed := by
  refine ⟨rfl, rfl, ?_, ?_⟩ <;> decide

theorem full_table (s : State) (h : (s.gangs.filter fun g => g.live).length = 1024) : ¬ TableRoom s := by
  unfold TableRoom; omega

/-- The launching hart in a package whose gang table is full. -/
def crowded : State :=
  { launching (launchDesc 0x70000000006000 0x70000000003000 0) 0 with gangs := List.replicate 1024 { pair with doneLoc := 8 } }

theorem witness_LaunchResult_full :
    let d := launchDesc 0x70000000006000 0x70000000003000 0
    Issues (scalarGate [8] false) crowded ∧ crowded.me.cr.confirmed = true ∧ LaunchReads 8 crowded crowded d (at_ 0x6000) none
      ∧ shapeOf d ≤ capOf d ∧ ¬ TableRoom crowded := by
  refine ⟨(ready (by decide)).1, rfl, ?_, by decide, full_table _ ?_⟩
  · refine ⟨crowded, at_ 0x2000, crowded, ⟨by decide, rfl, by decide, .inr (by decide), by decide⟩, by decide,
      ⟨by unfold LaunchValid; decide, rfl, .inl ⟨by decide, rfl, rfl⟩⟩, ?_⟩
    intro g hg _
    rw [show crowded.gangs = List.replicate 1024 { pair with doneLoc := 8 } from rfl] at hg
    rw [(List.mem_replicate.1 hg).2]
    decide
  · rw [show crowded.gangs = List.replicate 1024 { pair with doneLoc := 8 } from rfl,
      List.filter_replicate_of_pos rfl, List.length_replicate]
theorem witness_FirmwareResult_recovery :
    ({ base with recovery := true } : State).recovery = true ∧ base.recovery = false
      ∧ ({ (default : BootInputs) with dieUp := 0 }).dieUp = 0
      ∧ (¬ Awaited base.mgmt ∧ Awaited ({ base with millerFw := awaiting } : State).millerFw)
      ∧ ({ base with mgmt := awaiting } : State).mgmt.running = some false := by
  refine ⟨rfl, rfl, rfl, ⟨?_, by decide, rfl⟩, rfl⟩
  rintro ⟨h, -⟩; exact h rfl

/-- A core dump of core 0 to 0x300000 is posted. -/
def dumping (size : Nat) : State := posting 1 0 0 0x300000 size

theorem base_harts {s : State} (h : s.harts = [base.me]) {x : Hart} (hx : x ∈ s.harts) : x = base.me := by
  rw [h] at hx
  exact List.mem_singleton.1 hx

theorem witness_MailboxResult_dumped :
    Posted (dumping 1024) 1 0x200000 ∧ (dumping 1024).argument 0x200000 3 = 0x300000 ∧ (dumping 1024).argument 0x200000 4 = 1024
      ∧ (∀ h ∈ (dumping 1024).harts, CanStop (dumping 1024) h) ∧ (dumping 1024).mgmtSpan 0x300000 64 = 64
      ∧ 0x200000 + 1 < 0x300000 ∧ ((dumping 1024).harts.map (·.num)).Nodup
      ∧ (∀ h ∈ (dumping 1024).harts, h.core ≤ 767 → h.slot < 8 ∧ h.num = 8 * h.core + h.slot)
      ∧ (dumping 1024).mgmtSpan (0x300000 + 64) 480 = 480 ∧ (dumping 1024).diesPresent.getLsbD (0 / 192) = true := by
  refine ⟨posting_is _ _ _ _ _ (by decide) (by decide) (by decide) (by decide), by decide, by decide, ?_, by decide, by decide,
    by decide, by decide, by decide, by decide⟩
  intro h hh
  have e := base_harts (s := dumping 1024) rfl hh
  subst e
  refine ⟨fun p hp => ?_, rfl, fun x hx c hc => ?_⟩
  · have h' : (none : Option Pass) = some p := hp
    cases h'
  · have e := base_harts (s := dumping 1024) rfl hx
    subst e
    cases hc

theorem witness_MailboxResult_stops :
    let s := onMe (fun h => { h with copies := [⟨0x0070000000002000, 0x0070000000003000, 64, home, [], none⟩] }) (dumping 63)
    (∃ h ∈ s.harts, (0 ≤ h.core ∧ h.core ≤ 0 ∧ h.resident = true) ∧ ¬ CanStop s h)
      ∧ (dumping 63).argument 0x200000 4 < 64 := by
  refine ⟨⟨_, List.mem_cons_self, by decide, ?_⟩, by decide⟩
  rintro ⟨-, h, -⟩
  cases h
/-! ### Witnesses for tokens taken at issue, slot tables, packets of control registers and frames -/

theorem witness_Retirement_issued :
    tokened.me.tok.bind tokWait = some 1 ∧ tokened.me.tokens.get (fifo 1 Queue.s.num) ≠ 0 ∧ tokened.me.owed = []
      ∧ base.me.tok.bind tokWait = none ∧ (1 : Nat) < 5 := by decide

/-- A hart that holds positions 0 to 7 of its tables. -/
def weighed : State := onCr (fun c => { c with slots := 8 }) (base.setCore { base.myCore with
  slots := [base.myCore.group 0, 8, 9, 10].flatMap fun u => (List.range 8).map fun p => ⟨u, p, 0⟩ })

theorem witness_CwrSpecial_slots :
    Ready (scalarGate [9] false) base ∧ base.me.level = .s ∧ base.me.cr.slots < (base.me.reg 9).toNat % 64
      ∧ (base.me.reg 9).toNat % 64 ≤ 32 ∧ freeBelow base.myCore 8 32 = 32
      ∧ Ready (scalarGate [9] false) weighed ∧ 1 ≤ (weighed.me.reg 9).toNat % 64
      ∧ (weighed.me.reg 9).toNat % 64 ≤ weighed.me.cr.slots ∧ heldBelow weighed.myCore 8 0 7 = 7
      ∧ freeBelow weighed.myCore 9 32 = 24 := by
  refine ⟨ready (by decide), ?_, ?_, ?_, ?_, ready (by decide), ?_, ?_, ?_, ?_⟩ <;> decide

theorem witness_ControlRegisters_reads :
    (0x000, BitVec.ofNat 64 base.me.cr.vl) ∈ fixedReads base ∧ (0x202, BitVec.ofNat 64 base.me.core) ∈ fixedReads base ∧ 8 < 9 := by
  decide

/-- A hart whose forme has a node for each of its five vector registers. -/
def crammed : State := onCr (fun c => { c with nv := 5 }) counting

theorem witness_MaskMemory_room :
    (crammed.me.reg 8).toNat % 8 = 0 ∧ MayReadSpan crammed (crammed.me.reg 8) 256 crammed [(0x70000000002000, at_ 0x2000, 256)]
      ∧ crammed.me.vec.matrix = false ∧ Issues (passSide [8] [] none) crammed ∧ crammed.wouldRun = true
      ∧ crammed.me.cr.nv < (appendedVec crammed.me.vec (.k 5) (newNode crammed (.kld 0) none [] none none 0)).forme.length :=
  ⟨by decide, ⟨rfl, by decide, .inr (by decide), by decide⟩, rfl, (ready (by decide)).1, by decide, by decide⟩

/-- Two ranges that meet at address 0 (08_faults.md R116). -/
theorem witness_CopyEngine_wraps :
    let s := put 8 (-32) (toCopy (-64) 64)
    max (s.me.reg 8).toInt (s.me.reg 9).toInt
        < min ((s.me.reg 8).toInt + (s.me.reg 10).toNat) ((s.me.reg 9).toInt + (s.me.reg 10).toNat) := by decide

/-- A hart that is confirmed and whose buffered stores have not all drained. -/
def drainingHart : State := onMe (fun h => { h with prov := [⟨at_ 0x9000, [1, 2], []⟩] }) (passing counting (passAt counting 0))

theorem witness_PassTurns_draining : drainingHart.me.draining = true ∧ (passing counting (passAt counting 0)).me.draining = false := by
  decide

/-- Another hart of the core that is provisional and has 64 KiB. -/
def closedHart : Hart := { Hart.reset 1 0 1 false with
  status := .running
  spad := 65536
  cr := { CtrlRegs.reset with confirmed := false } }

/-- A launch whose completion word lies in that hart's allocation. -/
def launchingInto : State :=
  { launching (launchDesc 0x70000000016000 0x70000000003000 0) (2 ^ 63) with others := [closedHart] }

theorem witness_LaunchResult_held :
    let d := launchDesc 0x70000000016000 0x70000000003000 0
    let s := launchingInto
    Ready (scalarGate [8] false) s ∧ LaunchReads 8 s s d (at_ 0x16000) none ∧ field d 5 0 56 ≠ 0
      ∧ MayRead s (fieldAddr d 5) 8 s (at_ 0x3000) ∧ valueOf (s.readLoc (at_ 0x3000) 8).2 = 2 ^ 63
      ∧ s.locate (fieldAddr d 5) .read = .ok (s, at_ 0x3000) ∧ TableRoom s
      ∧ (∃ h ∈ s.harts, Holds h (at_ 0x16000) 8 = true) ∧ ∀ h ∈ (launching 0 0).harts, Holds h (at_ 0x6000) 8 = false := by
  refine ⟨ready (by decide), ⟨_, at_ 0x2000, _, ⟨by decide, rfl, by decide, .inr (by decide), by decide⟩, by decide,
    ⟨by unfold LaunchValid; decide, rfl, .inl ⟨by decide, rfl, rfl⟩⟩, by decide⟩, by decide,
    ⟨by decide, rfl, by decide, .inr (by decide), by decide⟩, by decide, rfl, by unfold TableRoom; decide,
    ⟨closedHart, by decide, by decide⟩, by decide⟩

/-- A gang of no hart that is still live. -/
def emptyGang : Gang := { pair with count := 0 }

theorem witness_ShapePublished_empty :
    let s : State := { base with gangs := [{ pair with id := 3 }, emptyGang] }
    s.pubs = [] ∧ s.gangs = [{ pair with id := 3 }] ++ emptyGang :: [] ∧ emptyGang.live = true ∧ emptyGang.confirmed = true
      ∧ emptyGang.count = 0 ∧ (∀ h ∈ s.harts, Holds h emptyGang.doneLoc 8 = false) ∧ ({ pair with id := 3 } : Gang).count ≠ 0
      ∧ (s.gangs.map (·.id)).Nodup ∧ (∃ h ∈ [closedHart], Holds h (at_ 0x16000) 8 = true) := by
  refine ⟨rfl, rfl, rfl, rfl, rfl, ?_, ?_, ?_, ?_⟩ <;> decide

theorem witness_GangWaits_held :
    let s := onMe (fun h => { h with tok := fullSignal.me.tok, tokens := fullSignal.me.tokens }) (inGang 1 0)
    Issues {} s ∧ s.me.signalBlocked .s = true ∧ s.wouldRun = false ∧ s.me.cr.confirmed = true
      ∧ s.myGang = some { pair with arrivals := [(1, 1)] } ∧ copying.me.copies ≠ [] ∧ Issues {} copying
      ∧ (let u := onMe (fun h => { h with owed := [(.c, .v, home)] }) base
         Issues {} u ∧ (∃ o ∈ u.me.owed, o.1 = .c) ∧ u.wouldRun = false ∧ u.me.miller = false)
      ∧ (∀ o ∈ base.me.owed, o.1 ≠ .c) := by
  refine ⟨by unfold Issues TokenReady NoPassFirst; decide, ?_, ?_, ?_, ?_, ?_, (ready (by decide)).1, ⟨(ready (by decide)).1, ?_⟩, ?_⟩
    <;> decide

/-- A hart that an FPUT has woken while its FIFO was full, and one that is parked so. -/
def wokenHart : State := onMe (fun h => { h with woke := some 5 }) base

theorem witness_FuturesAndYield_woken :
    Ready (scalarGate [7, 8] false) wokenHart ∧ wokenHart.me.woke = some 5 ∧ base.me.woke = none
      ∧ ({ fullSignal.me with status := .parked (at_ 0x2000) 5 } : Hart).signalBlocked .s = true :=
  ⟨ready (by decide), rfl, rfl, by decide⟩

/-- A migration request with its PTE, record and frame at addresses. -/
def migratingTo (pte record frame p : Nat) : State :=
  let s := posting 2 pte record frame 0
  { s with mem := memPut s.mem pte (leBytes 8 p) }

theorem migratingTo_is (s : State) (h : s.posted = some 0x200000) (hc : s.mgmtDword 0x200000 % 256 = 2) (hw : memWf s.mem = true)
    (hs : s.mgmtSpan (0x200000 + 1) 1 = 1) : Posted s 2 0x200000 := ⟨h, hc, hs, hw⟩

theorem witness_MailboxResult_moves :
    (migrating 0x40021).mgmtSpan 0x300400 64 = 64 ∧ (migrating 0x40021).argument 0x200000 3 / 2 ^ 18 % 2 ^ 34 * 2 ^ 18 = 0x80000
      ∧ (∀ x ∈ [0x40021 / 2 ^ 10 * 2 ^ 10, 0x80000],
        (migrating 0x40021).place x = .ram ∧ (migrating 0x40021).place (x + 262143) = .ram)
      ∧ 0x200000 + 1 < 0x300000 ∧ 0x200000 + 1 < 0x300400 := by decide

theorem witness_MailboxResult_misaligned :
    Posted (migratingTo 0x300004 0x300400 0x80000 0x40021) 2 0x200000
      ∧ (migratingTo 0x300004 0x300400 0x80000 0x40021).mgmtDword 0x300004 = 0x40021
      ∧ (migratingTo 0x300004 0x300400 0x80000 0x40021).argument 0x200000 1 % 8 ≠ 0 :=
  ⟨migratingTo_is _ (by decide) (by decide) (by decide) (by decide), by decide, by decide⟩

theorem witness_MailboxResult_unbacked :
    Posted (migratingTo 0x300000 (2 ^ 44) 0x80000 0x40021) 2 0x200000
      ∧ (migratingTo 0x300000 (2 ^ 44) 0x80000 0x40021).mgmtDword 0x300000 = 0x40021
      ∧ (migratingTo 0x300000 (2 ^ 44) 0x80000 0x40021).argument 0x200000 2 % 1024 = 0
      ∧ (migratingTo 0x300000 (2 ^ 44) 0x80000 0x40021).mgmtSpan (2 ^ 44) 64 ≠ 64 :=
  ⟨migratingTo_is _ (by decide) (by decide) (by decide) (by decide), by decide, by decide, by decide⟩

/-- The last chunk of a migration whose request is still posted. -/
def lastChunk : State := { copied 258048 with mem := memPut (copied 258048).mem 0x200000 (leBytes 8 (256 + 2)) }

theorem witness_MailboxResult_last :
    lastChunk.migrations[0]? = some ⟨0x300000, 0x300400, 0x200000⟩ ∧ memWf lastChunk.mem = true
      ∧ lastChunk.mgmtDword (0x300400 + 16) % 2 ^ 19 + 4096 = 262144 ∧ lastChunk.mgmtDword (0x300400 + 8) = 0x80000
      ∧ 0x80000 + 262144 ≤ 0x200000 + 1 ∧ lastChunk.mgmtDword 0x200000 / 256 % 256 = 1 ∧ lastChunk.mgmtSpan (0x200000 + 1) 1 = 1 := by
  refine ⟨rfl, ?_, ?_, ?_, ?_, ?_, ?_⟩ <;> decide

theorem witness_ScalarFrameKept_system :
    systemWrites (.loop 9 4) base = some [0x009, 0x00A, 0x00B] ∧ (∃ t, exec (.loop 9 4) base = .next t)
      ∧ systemWrites .eret base = some [0x303] ∧ (∃ t, exec .eret base = .next t)
      ∧ systemWrites (.cwr 8 0x404) base = some [0x404] ∧ (∃ t, exec (.cwr 8 0x404) base = .next t)
      ∧ systemWrites (.cwrSlots 9) base = some [0x203] ∧ (∃ t, exec (.cwrSlots 9) base = .next t)
      ∧ systemWrites (.cwrWatchpoint 8 8) remoteWatch = some [0x418] ∧ (∃ t, exec (.cwrWatchpoint 8 8) remoteWatch = .next t)
      ∧ memWf remoteWatch.mem = true ∧ systemWrites (.cwrMshape 8) inMat = some [0x500, 0x000] :=
  ⟨rfl, ⟨_, rfl⟩, rfl, ⟨_, rfl⟩, rfl, ⟨_, rfl⟩, rfl, ⟨_, rfl⟩, rfl, ⟨_, rfl⟩, rfl, rfl⟩

theorem witness_VectorFrameKept_masks :
    countSpec (.kfirst 2 7) = some (.first, 2, 7) ∧ (∃ t, exec (.kfirst 2 7) inPass = .next t) ∧ inPass.me.vec.matrix = false
      ∧ (2 : KReg) ≠ 0 ∧ countSpec (.kpop 0 7) = some (.pop, 0, 7) ∧ (∃ t, exec (.kpop 0 7) inPass = .next t)
      ∧ (∃ t, exec (.kld 4 8) inPass = .next t) ∧ memWf inPass.mem = true
      ∧ (∃ u loc, inPass.locate (inPass.me.reg 8) .read = .ok (u, loc)) :=
  ⟨rfl, ⟨_, rfl⟩, rfl, by decide, rfl, ⟨_, rfl⟩, ⟨_, rfl⟩, rfl, ⟨_, _, rfl⟩⟩
/-! ### Witnesses for the elements of logic, selection, conversion, fabric and leaves -/

/-- The nodes of the rows. -/
def rowNodes : List Node := [node 1 .splat (some .i8) [], node 2 .iota (some .i8) [], node 5 .splat (some .f32) []]

/-- An unpredicated node is active where its sources have elements. -/
theorem active {n : Node} {bound e : Nat} {as : List Elem} (hp : n.pred = none) (hb : e < bound)
    (hs : n.srcs.map (fun x => (rows.row x.node).ents[e]?.map (·.cell)) = as.map fun a => some (.elem a)) :
    ActiveAt rows n bound e as := ⟨hb, hs, fun p h => by rw [hp] at h; cases h⟩

theorem witness_VectorElements_logic :
    ActiveAt rows (node 6 (.logic .shrArith) (some .i16) [⟨1, true⟩, ⟨2, true⟩]) 2 1 [⟨.i8, 0x80, 0⟩, ⟨.i8, 0xFF, 0⟩]
      ∧ isInt .i16 = true ∧ isInt .i8 = true := ⟨active rfl (by decide) (by decide), rfl, rfl⟩

/-- A selection of source 1 where mask 3 is true, else of source 2. -/
def choosing (a b : Nat) : Node := { node 6 .sel (some .i16) [⟨a, true⟩, ⟨b, true⟩] with pred := some ⟨3, true⟩ }

theorem witness_VectorElements_select :
    (∀ z ∈ ([⟨1, true⟩, ⟨2, true⟩, ⟨3, true⟩] : List Edge), 1 < (rows.row z.node).ents.length)
      ∧ selected rows (choosing 1 2) 1 = true ∧ elemAt rows ⟨1, true⟩ 1 = some ⟨.i8, 0x80, 0⟩ ∧ indexTag rowNodes 1 = .i8
      ∧ selected rows (choosing 2 1) 0 = false ∧ elemAt rows ⟨1, true⟩ 0 = none := by decide

theorem witness_VectorElements_unary :
    ActiveAt rows (node 6 (.unary .neg) (some .i16) [⟨2, true⟩]) 2 1 [⟨.i8, 0xFF, 0⟩]
      ∧ ActiveAt rows (node 6 (.unary .log) (some .f32) [⟨5, true⟩]) 2 0 [⟨.f32, 0x3F800000, 0⟩]
      ∧ exactAt .log ((⟨.f32, 0x3F800000, 0⟩ : Elem).val false) = some 0
      ∧ exactAt .sqrt ((⟨.f32, 0x3F800000, 0⟩ : Elem).val false) = none
      ∧ ActiveAt rows (node 6 (.cvt true .satRne) (some .bf16) [⟨5, true⟩]) 2 1 [⟨.f32, 0x40000000, 0⟩] :=
  ⟨active rfl (by decide) (by decide), active rfl (by decide) (by decide), by decide, by decide,
    active rfl (by decide) (by decide)⟩

theorem witness_VectorElements_scalar :
    let n : Node := { node 6 .iota (some .f32) [] with scalar := some 7 }
    n.scalar = some 7 ∧ ActiveAt rows n 2 1 [] := ⟨rfl, active rfl (by decide) rfl⟩

/-- Rows of one tag, or with none. -/
theorem rowOf {k : Nat} {t : Tag} (h : ((rows.row k).ents.all fun x => match x.cell with
    | .off => true
    | .elem a => decide (a.tag = t)
    | .bit _ => false) = true) (hl : (rows.row k).ents.length = 2) : RowOf rows k t := by
  intro e
  by_cases he : e < (rows.row k).ents.length
  · have hx := List.all_eq_true.1 h _ (List.getElem_mem he)
    have hg : ((rows.row k).get e).cell = ((rows.row k).ents[e]).cell := by simp [Row.get, he]
    rw [hg]
    cases hc : ((rows.row k).ents[e]).cell <;> simp only [hc] at hx
    · exact .inl rfl
    · exact .inr ⟨_, of_decide_eq_true hx, rfl⟩
    · cases hx
  · refine .inl ?_
    simp [Row.get, he]

theorem witness_VectorElements_scan :
    RowOf rows 2 .i8 ∧ indexTag rowNodes 2 = .i8 ∧ 1 < (rows.row 2).ents.length
      ∧ selected rows (node 6 (.scan .minu) (some .i16) [⟨2, true⟩]) 1 = true ∧ elemAt rows ⟨2, true⟩ 1 ≠ none
      ∧ RowOf rows 5 .f32 ∧ indexTag rowNodes 5 = .f32 ∧ intOperator .max = false ∧ elemAt rows ⟨5, true⟩ 1 ≠ none
      ∧ RowOf rows 1 .i8 ∧ elemAt rows ⟨1, true⟩ 0 = none ∧ PredKnown rows (node 6 (.scan .max) (some .f32) [⟨5, true⟩]) 1
      ∧ PredKnown rows dividing 1 := by
  refine ⟨rowOf (by decide) rfl, by decide, by decide, by decide, by decide, rowOf (by decide) rfl, by decide, by decide, by decide,
    rowOf (by decide) rfl, by decide, fun p h => ?_, fun p h => ?_⟩
  · have h' : (none : Option Edge) = some p := h; cases h'
  · have h' : (some ⟨3, true⟩ : Option Edge) = some p := h; cases h'; decide

theorem witness_VectorElements_moves :
    let ps : List (Option (Nat × Int)) := [some (0x80, 0), none]
    let cs : List (Option Nat) := [some 0x80, none]
    ps[0]? = some (some (0x80, 0)) ∧ ps[1]? = some none ∧ cs[0]? = some (some 0x80) ∧ cs[1]? = some none
      ∧ (node 6 (.leaf 1 (bytesFrom 0 0) false false) (some .i16) []).op = .leaf 1 (bytesFrom 0 0) false false
      ∧ (node 4 (.kld 0x55) none []).pred = none ∧ (node 4 (.kld 0x55) none []).srcs = [] := by decide

theorem witness_VectorElements_window :
    Tag.i8 ≠ .d8s ∧ min (([none] : List (Option (Nat × Int))).length / 256 * 256 + 256) 2 ≤ (rows.row 1).ents.length
      ∧ ([none] : List (Option (Nat × Int))).length ≤ 1 ∧ 1 < min (0 + 256) 2 ∧ 1 < (rows.row 2).ents.length := by decide

theorem witness_VectorElements_floats :
    isInt (indexTag rowNodes (takes (.red .sum true none) 5).node) = false ∧ RowOf rows (takes (.red .sum true none) 5).node .f32
      ∧ intOperator .sum = false ∧ 1 ≤ 128 ∧ 128 ≤ 128 ∧ isInt (indexTag rowNodes (takes (.red .xor false none) 2).node) = true
      ∧ RowOf rows (takes (.red .xor false none) 2).node .i8 :=
  ⟨rfl, rowOf (by decide) rfl, rfl, by decide, by decide, rfl, rowOf (by decide) rfl⟩

/-- R123: a sink half the positions ahead of its leaf over one base overwrites elements that the leaf has still to read. -/
theorem test_srcovw_half_ahead :
    trails (bytesFrom 0 0) (bytesFrom 0 0) (2 ^ 39 + 5) 0 (2 ^ 39 + 10) = false
      ∧ trails (bytesFrom 0 0) (bytesFrom 0 0) (2 ^ 39 + 5) 0 (2 ^ 39 + 5) = true := by decide

/-- R7, R176: a BAR that stalls has not issued, so that its token stays in its FIFO. -/
theorem test_bar_stalls_untaken :
    let s := onMe (fun h => { h with tok := some (BitVec.ofNat 32 (encode (.tok true 1 false 0))), tokens := h.tokens.set (fifo 1 0) 1 }) (provisional 1)
    (match exec .bar s with
      | .next t => t.me.tokens.get (fifo 1 0) == 1 && t.me.early.get (fifo 1 0) == 0 && t.me.pc == s.me.pc
      | _ => false) = true := by decide

theorem witness_GangWaits_provisional :
    Issues {} (provisional 1) ∧ (provisional 1).me.miller = false ∧ (provisional 1).me.cr.confirmed = false
      ∧ (inGang 0 0).me.miller = false ∧ (inGang 0 0).me.cr.confirmed = true ∧ (inGang 0 0).wouldRun = false :=
  ⟨(ready (by decide)).1, rfl, rfl, rfl, rfl, by decide⟩

theorem witness_FirmwareResult_miller :
    let s : State := { base with millerFw := awaiting, time := 60000000000 }
    s.recovery = false ∧ 60000000000 ≤ s.time.toNat ∧ ¬ Awaited s.mgmt ∧ Awaited s.millerFw ∧ s.millerFw.running = some false := by
  refine ⟨rfl, by decide, ?_, ⟨by decide, rfl⟩, rfl⟩
  rintro ⟨h, -⟩; exact h rfl

/-! ### Ill-formed terms -/

theorem test_wf_bit_field : (Instr.bfx 8 9 4 65).wf = false ∧ (Instr.bfxS 8 9 4 100).wf = false ∧ (Instr.bfi 8 9 0 127).wf = false
    ∧ (Instr.bfx 8 9 4 64).wf = true := by decide
theorem test_wf_fcvt : (Instr.fcvt 8 9 .stod true).wf = false ∧ (Instr.fcvt 8 9 .dtos true).wf = false
    ∧ (Instr.fcvt 8 9 .sitof true).wf = true := by decide
theorem test_wf_ld : (Instr.ld 8 9 .d true 0).wf = false ∧ (Instr.ld 8 9 .w true 0).wf = true := by decide
theorem test_wf_br : (Instr.br .always 1 0 0).wf = false ∧ (Instr.br .always 0 1 0).wf = false
    ∧ (Instr.br .eq 1 1 0).wf = true := by decide
theorem test_wf_control : (Instr.crd 8 0x00C).wf = false ∧ (Instr.cwr 8 0x00C).wf = false ∧ (Instr.cwr 8 0x308).wf = false
    ∧ (Instr.cwrWatchpoint 8 12).wf = false ∧ (Instr.crd 8 0x308).wf = true := by decide
theorem test_wf_masks : (Instr.vsel 1 2 3 true true 0).wf = false ∧ (Instr.vcmp false 0 1 2 true true 0 .eq).wf = false
    ∧ (Instr.kand 0 1 2).wf = false ∧ (Instr.kor 0 1 2).wf = false ∧ (Instr.kxor 0 1 2).wf = false
    ∧ (Instr.knot 0 1).wf = false ∧ (Instr.ksbf 0 1).wf = false ∧ (Instr.ksif 0 1).wf = false
    ∧ (Instr.kld 0 8).wf = false ∧ (Instr.kst 0 8).wf = true := by decide
theorem test_wf_ranges : (Instr.vdrop 2 1).wf = false ∧ (Instr.vtag 2 1 .i8).wf = false ∧ (Instr.vtag 1 1 .i8).wf = true := by
  decide
theorem test_wf_matrix : (Instr.mmodeOn 0).wf = false ∧ (Instr.mmodeOn 9).wf = false ∧ (Instr.mma 0 1 4 true true .acc).wf = false
    ∧ (Instr.mmas 0 1 8 0 true true .acc).wf = false ∧ (Instr.mma 0 1 8 true true .acc).wf = true := by decide
theorem test_wf_bond : (Instr.bdim 8 48).wf = false ∧ (Instr.bcon 8 0).wf = false ∧ (Instr.bcon 8 16).wf = false
    ∧ (Instr.bcon 8 15).wf = true := by decide
theorem test_wf_tok : (Instr.tok false 0 false 0).wf = false ∧ (Instr.tok true 5 false 0).wf = false
    ∧ (Instr.tok false 1 true 0).wf = false ∧ (Instr.tok true 4 true 0).wf = true := by decide
theorem test_wf_events : Instr.passStrip.wf = false ∧ Instr.timer.wf = false ∧ (Instr.cpyComplete 0).wf = false
    ∧ Instr.illegalEncoding.wf = false ∧ Instr.fetchFault.wf = false := by decide

/-! ### Words that the manual prints -/

/-- Every word of the list decodes to the instruction beside it, and that instruction encodes as the word. -/
def reads (xs : List (Nat × Instr)) : Bool := xs.all fun x => decode x.1 == some x.2 && encode x.2 == x.1 && x.2.wf

/-- 18_reference_a_f.md R246, R247; 19_reference_j_s.md R280, R283, R284. -/
theorem test_decode_scalar : reads [(0x05095000, .add 8 9 10 false), (0x05095002, .add 8 9 10 true),
    (0x05095180, .and 8 9 10 false), (0x05090400, .clz 8 9 false), (0x05090442, .ctz 8 9 true),
    (0x05095103, .div 8 9 10 true true), (0x05095040, .sub 8 9 10 false), (0x050950C1, .mulh 8 9 10 false true),
    (0x05095142, .rem 8 9 10 true false), (0x05095282, .shr 8 9 10 true), (0x050952C0, .sha 8 9 10 false),
    (0x05095301, .min 8 9 10 false true), (0x050953C0, .sel 8 9 10), (0x05090480, .popc 8 9 false),
    (0x05095202, .xor 8 9 10 true)] = true := by decide
theorem test_decode_immediate : reads [(0x09090010, .addImm 8 9 16), (0x0D0900FF, .andImm 8 9 0xFF),
    (0x110900FF, .orImm 8 9 0xFF), (0x150900FF, .xorImm 8 9 0xFF), (0x19C80003, .shlImm 14 8 3),
    (0x1D09FFFF, .sltImm 8 9 0xFFFF), (0x20FFFFFF, .li 7 0x1FFFFF), (0x25091040, .bfx 8 9 4 8),
    (0x2509F041, .bfxS 8 9 60 8), (0x2509F042, .bfi 8 9 60 8)] = true := by decide

/-- 18_reference_a_f.md R263. -/
theorem test_decode_float : reads [(0x29095002, .fadd 8 9 10 true), (0x29484900, .fma 10 8 9 false),
    (0x290951C4, .fcmp 8 9 10 .lt false), (0x290951CE, .fcmp 8 9 10 .un true), (0x29091200, .fcvt 8 9 .ftosi false),
    (0x29090202, .fcvt 8 9 .sitof true), (0x29092200, .fcvt 8 9 .stod false)] = true := by decide
/-- 18_reference_a_f.md R248, R265; 19_reference_j_s.md R278, R299. -/
theorem test_decode_memory : reads [(0x2D01C000, .ld 8 1 .d false 0), (0x2D09BFFC, .ld 8 9 .w true 0x1FFC),
    (0x2D090001, .ld 8 9 .b false 1), (0x3109C000, .st 8 9 .d 0), (0x31091FFF, .st 8 9 .b 0x1FFF),
    (0x35095048, .amoAdd 8 9 10 true .rlx .package), (0x350954B4, .amoCas 8 9 10 false .ar .cluster),
    (0x38400000, .fenceFull .package), (0x39100000, .fenceAcq .core), (0x39C00000, .fenceEng .package),
    (0x3A400000, .fenceXlat .package), (0x3A800000, .fenceInst .hart)] = true := by decide
/-- 18_reference_a_f.md R253 to R255; 09_control.md R138, R140; 14_traps.md R210. -/
theorem test_decode_control : reads [(0x40212002, .br .eq 8 9 2), (0x41213FFD, .br .lt 8 9 0x1FFD),
    (0x43000002, .br .always 0 0 2), (0x44000003, .jmp 3), (0x47FFFFFE, .jmp 0x3FFFFFE), (0x48000005, .call .regs8 5),
    (0x49000005, .call .regs16 5), (0x4C090000, .jmpr 9), (0x4C096000, .callr 9 .regs24), (0x51000003, .loop 8 3),
    (0x54010001, .trap 1), (0x54020000, .eret), (0x54030007, .brk 7)] = true := by decide
/-- 18_reference_a_f.md R258; 04_registers.md R70. -/
theorem test_decode_registers : reads [(0x59000000, .crd 8 0), (0x58C00301, .crd 6 0x301), (0x5D200006, .cwr 9 6),
    (0x5CE00308, .cwrTimecmp 7), (0x5DA00501, .cwr 13 0x501), (0x5E600502, .cwrBndsize 19),
    (0x5CC00418, .cwrWatchpoint 6 8)] = true := by decide
/-- 20_reference_t_z.md R317, R323, R327; 19_reference_j_s.md R292, R293. -/
theorem test_decode_configuration : reads [(0x612A0000, .vconf 9 10), (0x61AC0080, .part 13 12), (0x61A85040, .vsetl 13 8 10),
    (0x65800003, .qset 12 3), (0x65200000, .qset 9 0), (0xB410C006, .vtag 1 3 .bf16), (0x8C114001, .vdrop 1 5),
    (0x8C000000, .vforce)] = true := by decide
theorem test_decode_streams : reads [(0x68100000, .vld 1 0 false 0 false), (0x68100084, .vld 1 0 false 2 true),
    (0x68410A08, .vldx 4 1 2 true 0 false), (0x68520010, .vldff 5 2 false 0), (0x6C320200, .vst 3 2 true 0 false),
    (0x6C631E0C, .vstx 6 3 7 true 0 true)] = true := by decide
theorem test_decode_vector : reads [(0x703042C0, .vadd 3 1 2 true true 0), (0x70304250, .vadd 3 1 2 false true 2),
    (0x703042C7, .vdivU 3 1 2 true true 0), (0x703042C4, .vfma 3 1 2 true true 0), (0x743042C6, .vshrU 3 1 2 true true 0),
    (0x743042CD, .vsel 3 1 2 true true 1), (0x78304180, .vneg 3 1 true 0), (0x783048C5, .vcvt 3 1 true true 0 .satRne),
    (0x78304882, .vcvt 3 1 true false 0 .rtz), (0x7C305300, .vaddVs 3 1 9 true 0), (0x7C510106, .vmaxVs 5 4 0 true 0),
    (0x7C305308, .vandVs 3 1 9 true 0), (0x7C30530E, .vshrUVs 3 1 9 true 0), (0x7C201210, .vsplat 2 9 0),
    (0x7C201211, .viota 2 9 0)] = true := by decide
theorem test_decode_masks : reads [(0x801042C4, .vcmp false 1 1 2 true true 0 .gt), (0x812042C2, .vcmp true 2 1 2 true true 0 .lt),
    (0x84C48000, .kand 3 1 2), (0x84C40030, .knot 3 1), (0x84C80050, .ksif 3 2), (0x84041E60, .kpop 1 15),
    (0x840C1C80, .ktail 3 14), (0x84801290, .kld 2 9), (0x840812A0, .kst 2 9)] = true := by decide
theorem test_decode_fabric : reads [(0x88F0C080, .vred 15 3 .sum true 0), (0x88F0C280, .vred 15 3 .max true 0),
    (0x8840C081, .vscan 4 3 .sum true 0), (0x8830408A, .vcomp 3 1 true 1), (0x8830408B, .vexpd 3 1 true 1),
    (0x883042C4, .vperm 3 1 2 true true 0)] = true := by decide
theorem test_decode_matrix : reads [(0x90040040, .mmodeOn 2), (0x90000000, .mmodeOff), (0x90000020, .mmodeOffRel),
    (0x9020E008, .mshape 8 14), (0x91800010, .zzero 3), (0x94004068, .mma 0 0 8 true true .ovw),
    (0x95108050, .mma 2 8 16 true false .neg), (0x94808460, .mmas 1 0 16 0 true true .acc), (0x9830D000, .zld 0 12 13),
    (0x9830D008, .zst 0 12 13)] = true := by decide
theorem test_decode_engines : reads [(0x9D000010, .bdim 8 16), (0x9D200041, .bcon 9 1), (0x9DE00080, .brun 15),
    (0x9E1400C0, .bld 16 20), (0x9E350100, .bst 17 21), (0xA12B6000, .cpy 9 11 12), (0xC2400000, .tok true 1 false 0),
    (0xC2B00000, .tok true 2 true 4), (0xC4080000, .ext 0x80000)] = true := by decide
theorem test_decode_launch : reads [(0xA5600000, .launch 11), (0xA5600040, .launchP 11), (0xA5090080, .shape 8 9),
    (0xA4000100, .wpred), (0xA4000180, .endI), (0xA9095000, .spawn 8 9 10), (0xA92A58C0, .dqsteal 9 10 11),
    (0xAD490040, .fput 10 9), (0xB2A00002, .trace 21 2)] = true := by decide
theorem test_decode_refused : decode 0x05095001 = none ∧ decode 0x190900C0 = none ∧ decode 0xC0000000 = none
    ∧ decode 0x8C000040 = none ∧ decode 0xFFFFFFFF = none := by decide

/-! ### Single steps, with the results that the manual prints -/

/-- s9 and s10 before a unit of base. -/
def given (x y : Word) : State := put 10 y (put 9 x base)

/-- A part of the state after a unit. -/
def after (i : Instr) (s : State) (f : State → Word) : Option Word :=
  match exec i s with
  | .next t => some (f t)
  | _ => none

def s8 (s : State) : Word := s.me.reg 8

/-- 18_reference_a_f.md R246. -/
theorem test_div_minus : after (.div 8 9 10 false false) (given 7 (-2)) s8 = some (-3) := by decide
theorem test_div_zero : after (.div 8 9 10 false true) (given 5 0) s8 = some (-1) := by decide
theorem test_add_w : after (.add 8 9 10 true) (given 0x7FFFFFFF 1) s8 = some 0xFFFFFFFF80000000 := by decide
theorem test_clz_w : after (.clz 8 9 true) (given 0x100000001 0) s8 = some 31 := by decide
/-- 19_reference_j_s.md R283. -/
theorem test_sub_w : after (.sub 8 9 10 true) (given 0x80000000 1) s8 = some 0x7FFFFFFF := by decide
theorem test_mulh_u : after (.mulh 8 9 10 false true) (given (-1) 2) s8 = some 1 := by decide
theorem test_mulh_w : after (.mulh 8 9 10 true false) (given 0x80000000 0x80000000) s8 = some 0x40000000 := by decide
theorem test_rem_sign : after (.rem 8 9 10 false false) (given (-7) 2) s8 = some (-1) := by decide
theorem test_shl_amount : after (.shl 8 9 10 false) (given 1 65) s8 = some 2 := by decide
theorem test_sha_w : after (.sha 8 9 10 true) (given 0xFFFFFFFF80000000 4) s8 = some 0xFFFFFFFFF8000000 := by decide
theorem test_slt_u : after (.slt 8 9 10 false true) (given (-1) 0) s8 = some 0 := by decide
/-- 18_reference_a_f.md R264. -/
theorem test_fma_exact : after (.fma 8 9 10 false) (put 8 0xBF801000 (given 0x3F800800 0x3F800800)) s8 = some 0x33800000 := by
  decide
theorem test_fcvt_saturates : after (.fcvt 8 9 .ftosi false) (given 0x5F000000 0) s8 = some 0x7FFFFFFFFFFFFFFF := by decide
theorem test_fcvt_flags : after (.fcvt 8 9 .ftoui false) (given 0xBF800000 0) (fun t => t.me.cr.vflags.setWidth 64) = some 1 := by decide

/-- 19_reference_j_s.md R278, R299: a byte's sign, and the bytes of a store, lowest first (00_scope.md R2). -/
theorem test_ld_sign : after (.ld 8 8 .w true 4) (holding 0x2004 [0xFE, 0xFF, 0xFF, 0xFF] base) s8 = some (-2) := by decide
theorem test_st_bytes : after (.st 9 8 .w 8) (given 0x11223344 0) (fun t => (memGet t.mem (at_ 0x2008)).setWidth 64)
    = some 0x44 := by decide
theorem test_st_misaligned : after (.st 9 8 .w 2) (given 1 0) (fun t => t.me.cr.eva + t.me.cr.ecause)
    = some (0x0070000000002002 + 3) := by decide
/-- 18_reference_a_f.md R248: the old value is returned. -/
theorem test_amo_add : after (.amoAdd 10 8 9 true .rlx .package) (holding 0x2000 [5] (given 7 0))
    (fun t => t.me.reg 10 * 256 + (memGet t.mem (at_ 0x2000)).setWidth 64) = some (5 * 256 + 12) := by decide
/-- 09_control.md R134: the words of a branch are counted from its own address (03_formats.md R39). -/
theorem test_br_back : after (.br .eq 9 9 0x1FFD) base (fun t => t.me.pc) = some (home - 12) := by decide
theorem test_br_not_taken : after (.br .ltu 9 9 0x1FFD) base (fun t => t.me.pc) = some (home + 4) := by decide
/-- 09_control.md R137, R138. -/
theorem test_call : after (.call .regs8 5) base (fun t => t.me.pc) = some (home + 20) := by decide
theorem test_ret_empty : after .ret base (fun t => t.me.cr.ecause) = some 13 := by decide
/-- 14_traps.md R208, R210: the unit's address, the code and the status bits. -/
theorem test_trap : after (.trap 5) base (fun t => t.me.cr.epc + t.me.cr.eva + t.me.cr.ecause) = some (home + 5 + 16) := by decide
theorem test_trap_status : after (.trap 5) base (fun t => t.me.cr.estatus &&& 7) = some 5 := by decide
theorem test_eret_user : after .eret (onCr (fun c => { c with epc := home + 64, estatus := 4 }) base)
    (fun t => t.me.pc + (if t.me.level = .u then 1 else 0)) = some (home + 65) := by decide
/-- 18_reference_a_f.md R258, R259; 14_traps.md R206: EPC is written at S only. -/
theorem test_crd_vl : after (.crd 8 0) base s8 = some 8 := by decide
theorem test_cwr_user : after (.cwr 9 0x300) (onMe (fun h => { h with level := .u }) base) (fun t => t.me.cr.epc) = some home := by
  decide
/-- 04_registers.md R69: a CWR of LEND that names its own word does not yet loop there. -/
theorem test_cwr_lend_next : after (.cwrLend 9) (given (home ||| 1) 0) (fun t => t.me.pc) = some (home + 4) := by decide
/-- 00_scope.md R5: the bits above BNDSIZE's field are ignored. -/
theorem test_cwr_bndsize : after (.cwrBndsize 9) (given (2 ^ 19 + 64) 0) (fun t => t.me.cr.bndsize) = some 64 := by decide
/-- 03_formats.md R34; 20_reference_t_z.md R305: TRAP raises although the FIFO of its signal is full. -/
theorem test_trap_full : after (.trap 5) fullSignal (fun t => t.me.cr.ecause) = some 16 := by decide
/-- 04_registers.md R67: VL is cut at 2^40 − 1. -/
theorem test_vsetl : after (.vsetl 8 9 0) (given (-1) 0) s8 = some (2 ^ 40 - 1) := by decide
/-- 06_forme.md R88: an append computes nothing and names its node. -/
theorem test_vadd_appends : after (.vadd 3 1 2 true true 0) inPass (fun t => BitVec.ofNat 64 t.me.vec.forme.length) = some 6 := by
  decide
/-- 04_registers.md R61; 14_traps.md R207: an EMPTY source is ILLEGAL, code 1. -/
theorem test_vadd_empty : after (.vadd 3 1 9 true true 0) inPass (fun t => t.me.cr.ecause) = some 1 := by decide
/-- 03_formats.md R38: an EXT widens the immediate after it; 02_assembly.md prints s8, s9, 100000. -/
theorem test_ext_widens : after (.addImm 8 9 0x86A0) (onMe (fun h => { h with ext := some 1 }) (given 1 0)) s8
    = some 100001 := by decide

/-- A fetched word runs first: LI s16, 1 at the start of the scratchpad (19_reference_j_s.md R280). -/
theorem test_step_li : (match step (State.reset.withFetchWord 32 0x22000001) with
    | .next t => decide (t.me.reg 16 = 1 ∧ t.me.pc = 0x0070000000000004)
    | _ => false) = true := by decide
theorem test_table_word : decodeTableWord 32 0x05095002 = some (.add 8 9 10 true) ∧ decodeTableWord 32 0xFFFFFFFF = none := by decide

/-- 01_device.md R14; 12_launch.md R171; 20_reference_t_z.md R302: a FIFO (V, S) full at a VFORCE that signals S; the scalar queue
issues ahead, so that its NOP takes a token. -/
def fullVs : State :=
  holding 0x1000 (leBytes 4 (encode .vforce) ++ leBytes 4 (encode (.tok true 1 false 0)) ++ leBytes 4 (encode .nop))
    (onMe (fun h => { h with
      tok := some (BitVec.ofNat 32 (encode (.tok false 0 true 0)))
      tokens := h.tokens.set (fifo 1 0) 16 }) base)
theorem test_full_fifo : after .vforce fullVs (fun t => BitVec.ofNat 64 (t.me.tokens.get (fifo 1 0)) + t.me.pc)
    = some (home + 16) := by decide
theorem test_full_fifo_ahead : fullVs.lookAhead.me.tokens.get (fifo 1 0) = 15 ∧ fullVs.lookAhead.me.early.get (fifo 1 0) = 1 := by
  decide
/-- 12_launch.md R170: turn 3 offers position 3; where its hart is not ready, the next position that names a ready one has it. -/
def tabled : Core := { Core.reset 0 with
  slots := [⟨8, 3, 5⟩, ⟨8, 4, 6⟩, ⟨8, 7, 2⟩]
  turns := (Core.reset 0).turns.set 8 ⟨3, 4⟩ }
theorem test_slot_offered : tabled.offer 8 [5, 6, 2] 6 = (5, ⟨4, 4⟩) := by decide
theorem test_slot_rotates : tabled.offer 8 [6, 2] 6 = (2, ⟨4, 7⟩) := by decide
end Sys2Proof.Tests
end

section
/-! Word offsets (03_formats.md R38, R39): what a signed word offset comes to, what a taken transfer leaves, and where LOOP sets
its bounds. -/

open Sys2Proof Sys2Proof.Machine Sys2Proof.Claims

namespace Sys2Proof.WordOffsets

/-! ### Immediates -/

/-- The value of a number below 2^n in two's complement turns negative at the half (R58). -/
theorem sext_of_lt {x n : Nat} (hn : 0 < n) (hx : x < 2 ^ n) :
    sext x n = if 2 * x < 2 ^ n then (x : Int) else (x : Int) - 2 ^ n := by
  obtain ⟨m, rfl⟩ : ∃ m, n = m + 1 := ⟨n - 1, by omega⟩
  have half : x < 2 ^ m ↔ 2 * x < 2 ^ (m + 1) := by rw [pow_succ]; omega
  simp [sext, Nat.mod_eq_of_lt hx, half]

/-- An EXT value above a field makes a number of 26 bits more, whose upper half is that of the EXT value (R38). -/
theorem extended_bounds {e f n : Nat} (he : e < 2 ^ 26) (hf : f < 2 ^ n) :
    e * 2 ^ n + f < 2 ^ (n + 26) ∧ (2 * (e * 2 ^ n + f) < 2 ^ (n + 26) ↔ e < 2 ^ 25) := by
  have below {b : Nat} (h : e < b) : e * 2 ^ n + 2 ^ n ≤ b * 2 ^ n := by
    rw [← Nat.succ_mul]; exact Nat.mul_le_mul_right _ h
  rw [pow_add, mul_comm (2 ^ n)]
  refine ⟨by have := below he; omega, fun h => ?_, fun h => by have := below h; omega⟩
  by_contra hc
  have := Nat.mul_le_mul_right (2 ^ n) (Nat.le_of_not_lt hc)
  omega

theorem immS_eq_signedImm (h : Hart) {f n : Nat} (hn : 0 < n) (hf : f < 2 ^ n) : h.immS f n = signedImm h f n := by
  unfold Hart.immS signedImm
  cases h.ext with
  | none => exact sext_of_lt hn hf
  | some e =>
    obtain ⟨fits, half⟩ := extended_bounds e.isLt hf
    dsimp only
    rw [sext_of_lt (by omega) fits]
    simp only [half]

theorem immZ_eq_plainImm (h : Hart) (f n : Nat) : h.immZ f n = plainImm h f n := by
  unfold Hart.immZ plainImm
  cases h.ext <;> rfl

/-! ### Targets -/

/-- The exact target wraps to the target modulo 2^64. -/
theorem ofInt_target (h : Hart) {n : Nat} (o : BitVec n) (hn : 0 < n) :
    BitVec.ofInt 64 (h.target o) = wordTarget h o.toNat n := by
  rw [Hart.target, wordTarget, immS_eq_signedImm h hn o.isLt, BitVec.ofInt_add, BitVec.ofInt_add, BitVec.ofInt_toInt,
    BitVec.ofInt_natCast, BitVec.ofNat_toNat, BitVec.setWidth_eq]

/-- A word whose upper bits copy bit 55 is the sign extension of its low 56 bits, and so an address (R32). -/
theorem canonicalInt_of_copies55 {w : Word} (h : copies55 w) : canonicalInt w.toInt = true := by
  have hw : (w.setWidth 56).signExtend 64 = w := by
    ext k hk
    rw [BitVec.getElem_signExtend]
    split
    next lt => simp [BitVec.getLsbD_eq_getElem hk]
    next ge =>
      rw [BitVec.msb_eq_getLsbD_last, ← BitVec.getLsbD_eq_getElem hk, h k (by omega) hk]
      simp
  rw [← hw, BitVec.toInt_signExtend_of_le (by decide)]
  have lo := BitVec.le_toInt (w.setWidth 56)
  have hi := BitVec.toInt_lt (x := w.setWidth 56)
  simp only [canonicalInt, Bool.and_eq_true, decide_eq_true_eq]
  exact ⟨lo, hi⟩

/-- The target check passes a word target that is an address. -/
theorem checkTarget_ok {s : State} {n : Nat} {o : BitVec n} (hn : 0 < n) (h : copies55 (wordTarget s.me o.toNat n)) :
    s.checkTarget (s.me.target o) = .ok (wordTarget s.me o.toNat n) := by
  rw [State.checkTarget, ofInt_target s.me o hn, if_pos (canonicalInt_of_copies55 h)]

theorem transfer_eq_jump {s : State} {n : Nat} {o : BitVec n} (hn : 0 < n) (h : copies55 (wordTarget s.me o.toNat n)) :
    s.transfer (s.me.target o) = .error (.jump s (wordTarget s.me o.toNat n)) := by
  rw [State.transfer, checkTarget_ok hn h]; rfl

theorem brHolds_iff_taken (c : BrCond) (x y : Word) : brHolds c x y = true ↔ taken c x y := by
  cases c <;> simp [brHolds, taken]

/-! ### What retiring changes of the hart -/

theorem takeToken_frame (h : Hart) (q : Queue) :
    ∃ t e g, h.takeToken q = { h with tokens := t, early := e, givers := g } := by
  unfold Hart.takeToken
  split
  · exact ⟨_, _, _, rfl⟩
  · dsimp only
    split <;> exact ⟨_, _, _, rfl⟩

theorem payAll_frame (h : Hart) : ∃ t g o, h.payAll = { h with tokens := t, givers := g, owed := o } := by
  unfold Hart.payAll
  split
  · exact ⟨_, _, _, rfl⟩
  · exact payFrom_frame h [] h.owed

theorem giveToken_frame (h : Hart) (q : Queue) (a : Word) :
    ∃ t g, h.giveToken q a = { h with tokens := t, givers := g } := by
  unfold Hart.giveToken
  split <;> exact ⟨_, _, rfl⟩

/-- Retiring changes the token FIFOs and what is kept of them, and uses up the prefixes (R42; 12_launch.md R171). -/
theorem retireTokens_frame (h : Hart) (q : Queue) (now : Bool) (a : Word) :
    ∃ t e g o, h.retireTokens q now a = { h.clearUnit with tokens := t, early := e, givers := g, owed := o } := by
  obtain ⟨t1, e, g1, eq1⟩ := takeToken_frame h q
  obtain ⟨t2, g2, o, eq2⟩ := payAll_frame { h with tokens := t1, early := e, givers := g1 }
  unfold Hart.retireTokens
  rw [eq1, eq2]
  cases now with
  | false => exact ⟨_, _, _, _, rfl⟩
  | true =>
    obtain ⟨t3, g3, eq3⟩ := giveToken_frame { h with tokens := t2, early := e, givers := g2, owed := o } q a
    exact ⟨t3, e, g3, o, by simp only [if_true]; rw [eq3]; rfl⟩

@[simp] theorem retireTokens_pc (h : Hart) (q : Queue) (now : Bool) (a : Word) : (h.retireTokens q now a).pc = h.pc := by
  obtain ⟨t, e, g, o, eq⟩ := retireTokens_frame h q now a
  rw [eq]; rfl

@[simp] theorem retireTokens_cr (h : Hart) (q : Queue) (now : Bool) (a : Word) : (h.retireTokens q now a).cr = h.cr := by
  obtain ⟨t, e, g, o, eq⟩ := retireTokens_frame h q now a
  rw [eq]; rfl

/-! ### Transfers -/

/-- A body that ends as a transfer retires its unit so, where its signal has room (09_control.md R141). -/
theorem unit_jump {g : Gate} {s u : State} {body : Res State} {t : Word} (h : Ready g s) (hb : body = .error (.jump u t)) :
    unit g s body = .next { u with
      me := ({ u.me with pc := t, cr := u.me.cr.leaveLoop t } : Hart).retireTokens g.queue true s.me.unitPc } := by
  obtain ⟨issues, room⟩ := h
  rw [unit_error issues hb]
  simp [Act.issued, settle, room]

/-- A body that has set the pc itself retires its unit with that pc, where its signal has room. -/
theorem unit_goto {g : Gate} {s u : State} {body : Res State} (h : Ready g s) (hb : body = .error (.goto u)) :
    unit g s body = .next { u with me := u.me.retireTokens g.queue true s.me.unitPc } := by
  obtain ⟨issues, room⟩ := h
  rw [unit_error issues hb]
  simp [Act.issued, settle, room]

/-- After a taken transfer the pc is the target. -/
theorem pc_of_jumps {i : Instr} {s u : State} {t : Word} (h : Jumps i s u t) : ∃ v, exec i s = .next v ∧ v.me.pc = t :=
  ⟨_, h, retireTokens_pc ..⟩

theorem br_jumps {c : BrCond} {a b : SReg} {o : BitVec 13} {s : State} (h : Ready (scalarGate [a, b] true) s)
    (ht : taken c (s.me.reg a) (s.me.reg b)) (hc : copies55 (wordTarget s.me o.toNat 13)) :
    Jumps (.br c a b o) s s (wordTarget s.me o.toNat 13) :=
  unit_jump h (by rw [if_pos ((brHolds_iff_taken ..).2 ht), transfer_eq_jump (by decide) hc])

theorem jmp_jumps {o : BitVec 26} {s : State} (h : Ready (scalarGate [] true) s)
    (hc : copies55 (wordTarget s.me o.toNat 26)) : Jumps (.jmp o) s s (wordTarget s.me o.toNat 26) :=
  unit_jump h (transfer_eq_jump (by decide) hc)

/-- A call that fits spills nothing: it pushes its return entry, slides the window and transfers (09_control.md R137). -/
theorem enterCall_of_fits {s : State} {f : Frame} (h : CallFits s f) (t : Word) :
    s.enterCall f t = .error (.jump (called s f) t) := by
  obtain ⟨rets, window⟩ := h
  have store : s.spillReturn = .ok s := by rw [State.spillReturn, if_pos rets]
  have noSpill (k : Nat) : State.spillWindow s (s.me.wbase + frameRegs f + 24) (k + 1) s = .ok s := by
    rw [State.spillWindow, if_pos window]
  simp only [State.enterCall, store, bind, Except.bind, noSpill]
  rfl

theorem call_jumps {f : Frame} {o : BitVec 24} {s : State} (h : Ready (scalarGate [] true) s) (hf : CallFits s f)
    (hc : copies55 (wordTarget s.me o.toNat 24)) : Jumps (.call f o) s (called s f) (wordTarget s.me o.toNat 24) :=
  unit_jump h (by rw [checkTarget_ok (by decide) hc]; exact enterCall_of_fits hf _)

/-! ### The bounds of the hardware loop -/

/-- A value cut to its bits hi to lo has those bits and no other (00_scope.md R5). -/
theorem getLsbD_keepBits (w : Word) {hi lo k : Nat} (hk : k < 64) :
    (keepBits w hi lo).getLsbD k = (decide (lo ≤ k) && decide (k ≤ hi) && w.getLsbD k) := by
  simp only [keepBits, BitVec.getLsbD_ofNat, hk, decide_true, Bool.true_and, Nat.testBit_mul_two_pow,
    Nat.testBit_mod_two_pow, Nat.testBit_div_two_pow, BitVec.testBit_toNat]
  by_cases low : lo ≤ k
  · have top : k - lo < hi + 1 - lo ↔ k ≤ hi := by omega
    simp only [top, Nat.sub_add_cancel low, low, decide_true, Bool.true_and]
  · simp [low]

theorem keepBits_keepBits (w : Word) (hi lo : Nat) :
    keepBits (keepBits w hi lo) hi lo = keepBits w hi lo := by
  refine BitVec.eq_of_getLsbD_eq fun k hk => ?_
  rw [getLsbD_keepBits _ hk, getLsbD_keepBits _ hk, ← Bool.and_assoc, Bool.and_self]

/-- The enable bit of LEND lies below the bits of its address (09_control.md R140). -/
theorem keepBits_or_one (w : Word) : keepBits (w ||| 1) 55 2 = keepBits w 55 2 := by
  refine BitVec.eq_of_getLsbD_eq fun k hk => ?_
  rw [getLsbD_keepBits _ hk, getLsbD_keepBits _ hk]
  by_cases low : 2 ≤ k
  · have bit : (1 : Word).getLsbD k = false := by simp; omega
    rw [BitVec.getLsbD_or, bit, Bool.or_false]
  · simp [low]

/-- An offset of at least 1 passes LOOP's check of it, so that its gate is that of any scalar instruction (R38). -/
theorem ready_loop {c : SReg} {s : State} {n : Nat} (h : Ready (scalarGate [c] true) s) (hn : 1 ≤ n) :
    Ready { ext := true, sound := decide (1 ≤ n), scalars := [c] } s := by
  rw [decide_eq_true hn]; exact h

/-- LOOP sets its bounds by its own address, whether its count is 0 or not (09_control.md R140). -/
theorem loop_bounds {c : SReg} {o : BitVec 21} {s : State} (h : Ready (scalarGate [c] true) s)
    (hn : 1 ≤ plainImm s.me o.toNat 21) :
    ∃ t, exec (.loop c o) s = .next t ∧ t.me.cr.lstart = keepBits (s.me.pc + 4) 55 2
      ∧ keepBits t.me.cr.lend 55 2 = keepBits (s.me.pc + BitVec.ofNat 64 (4 * plainImm s.me o.toNat 21)) 55 2 := by
  rw [← immZ_eq_plainImm] at hn ⊢
  refine ⟨_, unit_goto (ready_loop h hn) rfl, ?_⟩
  simp only [retireTokens_cr]
  split
  next zero => exact ⟨rfl, keepBits_keepBits ..⟩
  next counted => exact ⟨rfl, (keepBits_or_one _).trans (keepBits_keepBits ..)⟩

/-- Settles O9: the three transfers end at their word target by `pc_of_jumps`, and LOOP's bounds are `loop_bounds`. -/
theorem wordOffsetTargets : Obligations.WordOffsetTargets := by
  unfold Obligations.WordOffsetTargets
  refine ⟨?br, ?jmp, ?call, ?loop⟩
  case br => exact fun c a b o s h ht hc => pc_of_jumps (br_jumps h ht hc)
  case jmp => exact fun o s h hc => pc_of_jumps (jmp_jumps h hc)
  case call => exact fun f o s h hf hc => pc_of_jumps (call_jumps h hf hc)
  case loop => exact fun c o s h hn => loop_bounds h hn

end Sys2Proof.WordOffsets
end

section
/-! VFORCE (06_forme.md R100): the one word of major 0x23 and op 0, MODE in matrix mode (10_matrix.md R146), and the demand point
that runs the pending pass (06_forme.md R94). -/

open Sys2Proof Sys2Proof.Machine Sys2Proof.Claims

namespace Sys2Proof.VforceUnit

/-! ### The word -/

/-- A word whose fields make no instruction is none. -/
theorem decode_none_of_fields {w : Nat} (h : decodeFields w = none) : decode w = none := by
  rw [decode, h]; rfl

/-- Op 0 of major 0x23 leaves no field free: a word of it with a reserved bit set is no instruction. -/
theorem decode23_reserved {w : Nat} (op : fld w 0 3 = 0) (reserved : fld w 3 23 ≠ 0) : decode23 w = none := by
  unfold decode23
  rw [op]
  exact if_neg reserved

/-- The words of major 0x23 and op 0 other than VFORCE's hold some x > 0 in the 23 bits above the op. -/
theorem decode_vforce_reserved {x : Nat} (pos : 0 < x) (lt : x < 2 ^ 23) : decode (0x8C000000 + 8 * x) = none := by
  have major : fld (0x8C000000 + 8 * x) 26 6 = 35 := by unfold fld; omega
  have op : fld (0x8C000000 + 8 * x) 0 3 = 0 := by unfold fld; omega
  have reserved : fld (0x8C000000 + 8 * x) 3 23 = x := by unfold fld; omega
  apply decode_none_of_fields
  rw [decodeFields_23 major]
  exact decode23_reserved op (by omega)

/-! ### Matrix mode -/

/-- A pass-queue instruction without EXT and with a sound TOK comes to MODE in matrix mode, before any other wait or
exception (03_formats.md R34; 10_matrix.md R146). -/
theorem passGate_check_matrix {rs : List SReg} {vs : List VReg} {s : State} (sound : s.me.tokUnsound = false)
    (tok : s.me.tokBad .v = false) (ext : s.me.ext = none) (miller : s.me.miller = false) (matrix : s.me.vec.matrix = true) :
    (passGate rs vs).check s = .error (.trap s .mode 0) := by
  simp [Gate.check, passGate, sound, tok, ext, miller, matrix]

/-- A unit that its gate ends with an exception takes that exception. -/
theorem unit_gate_trap {g : Gate} {s u : State} {body : Res State} {c : Cause} {eva : Word}
    (h : g.check s = .error (.trap u c eva)) : unit g s body = .next (s.takeTrap u c eva) := by
  simp only [unit, issue, h, settle_trap]

/-! ### The demand point -/

/-- What issues from the pass queue is not in a handler of the hart's suspended pass (08_faults.md R127). -/
theorem handlerBypass_of_passIssues {rs : List SReg} {vs : List VReg} {s : State} (h : Issues (passGate rs vs) s) :
    s.handlerBypass = false := by
  obtain ⟨-, -, -, -, -, -, bypass, -⟩ := h
  exact bypass.resolve_left (by simp [passGate])

/-- Outside such a handler, a demand point would run a pass exactly when the galley holds a sink. -/
theorem wouldRun_iff_galley {s : State} (h : s.handlerBypass = false) : s.wouldRun = true ↔ s.me.vec.galley ≠ [] := by
  simp [State.wouldRun, h]

/-- VFORCE's body with nothing to run leaves the state as it is. -/
theorem vforce_body_idle {s : State} (h : s.wouldRun = false) :
    (do s.demandPoint; return s : Res State) = .ok s := by
  rw [State.demandPoint, if_neg (by simp [h])]; rfl

/-- VFORCE's body with a sink pending ends at its demand point. -/
theorem vforce_body_demands {s : State} (h : s.wouldRun = true) :
    (do s.demandPoint; return s : Res State) = .error (.demand s) := by
  rw [State.demandPoint, if_pos h]; rfl

theorem vforce_retires {s : State} (h : Issues (passGate [] []) s) (empty : s.me.vec.galley = [])
    (room : s.me.signalBlocked .v = false) : Retires .v .vforce s s := by
  have idle : s.wouldRun = false := by
    rw [← Bool.not_eq_true, wouldRun_iff_galley (handlerBypass_of_passIssues h)]; exact not_not_intro empty
  exact unit_done ⟨h, room⟩ (vforce_body_idle idle)

theorem vforce_runs_pass {s : State} (h : Issues (passGate [] []) s) (pending : s.me.vec.galley ≠ []) :
    exec .vforce s = .next ((s.takeIssued .v).startPass false) :=
  unit_error h (vforce_body_demands ((wouldRun_iff_galley (handlerBypass_of_passIssues h)).2 pending))

/-- Settles O22: the word by its round trip and `decode_vforce_reserved`, MODE by the gate, the pass by VFORCE's demand point. -/
theorem vforceResult : Obligations.VforceResult := by
  unfold Obligations.VforceResult
  refine ⟨?word, ?reserved, ?matrix, ?pass⟩
  case word => exact Laws.RoundTrip.vforce rfl
  case reserved => exact fun _ pos lt => decode_vforce_reserved pos lt
  case matrix => exact fun _ sound tok ext miller matrix => unit_gate_trap (passGate_check_matrix sound tok ext miller matrix)
  case pass => exact fun _ issues => ⟨vforce_retires issues, vforce_runs_pass issues⟩

end Sys2Proof.VforceUnit
end

section
/-! The K instructions in matrix mode (09_control.md R133): one body reads every mask that an instruction names and acts on whole
masks, or raises ILLEGAL; the counts read one mask up to VL. -/

open Sys2Proof Sys2Proof.Machine Sys2Proof.Claims

namespace Sys2Proof.MatrixKUnits

/-! ### Sources -/

/-- A source is read where it holds a mask, and is ILLEGAL where it holds none (10_matrix.md R146). -/
theorem matMaskReg_eq (s : State) (k : KReg) : s.matMaskReg k = (heldMask s k).elim (raise s .illegal 0) .ok := by
  unfold heldMask State.matMaskReg
  by_cases zero : k = 0
  · rw [if_pos zero, if_pos zero]
    rfl
  · rw [if_neg zero, if_neg zero]
    cases s.me.vec.k.get k.toFin <;> rfl

theorem matMaskReg_of_held {s : State} {k : KReg} {m : BitVec 2048} (h : heldMask s k = some m) : s.matMaskReg k = .ok m := by
  rw [matMaskReg_eq, h]; rfl

theorem matMaskReg_of_unheld {s : State} {k : KReg} (h : heldMask s k = none) : s.matMaskReg k = raise s .illegal 0 := by
  rw [matMaskReg_eq, h]; rfl

theorem heldMask_of_empty {s : State} {k : KReg} (named : k ≠ 0) (empty : s.me.vec.k.get k.toFin = .empty) :
    heldMask s k = none := by
  rw [heldMask, if_neg named, empty]

theorem mapM_matMaskReg_of_held {s : State} {ks : List KReg} {ms : List (BitVec 2048)}
    (h : ks.map (heldMask s) = ms.map some) : ks.mapM s.matMaskReg = .ok ms := by
  induction ks generalizing ms with
  | nil =>
    rw [List.map_eq_nil_iff.1 h.symm]
    rfl
  | cons k ks ih =>
    cases ms with
    | nil => cases h
    | cons m ms =>
      obtain ⟨head, tail⟩ := List.cons.inj h
      rw [List.mapM_cons, matMaskReg_of_held head, ih tail]
      rfl

theorem mapM_matMaskReg_of_unheld {s : State} {ks : List KReg} (h : ∃ k ∈ ks, heldMask s k = none) :
    ks.mapM s.matMaskReg = raise s .illegal 0 := by
  induction ks with
  | nil => simp at h
  | cons k ks ih =>
    rw [List.mapM_cons]
    cases head : heldMask s k with
    | none =>
      rw [matMaskReg_of_unheld head]
      rfl
    | some m =>
      have tail : ∃ x ∈ ks, heldMask s x = none := by simpa [head] using h
      rw [matMaskReg_of_held head, ih tail]
      rfl

/-! ### The mask instructions -/

/-- What a mask instruction of matrix mode does, whether it names one source or two. -/
def combineMasks (op : MaskOp) (d : KReg) (ks : List KReg) (s : State) : Res State := do
  let ms ← ks.mapM s.matMaskReg
  return (s.setMask d (maskWhole op (ms.getD 0 0) (ms.getD 1 0))).noteWriter (matK d)

theorem maskBody2_matrix {s : State} (matrix : s.me.vec.matrix = true) (op : MaskOp) (d a b : KReg) :
    maskBody2 op d a b s = combineMasks op d [a, b] s := by
  rw [maskBody2, if_pos matrix]
  simp [combineMasks, List.mapM_cons]

/-- An operation of one source makes the same of it whatever stands beside it. -/
theorem maskBody1_matrix {s : State} (matrix : s.me.vec.matrix = true) {op : MaskOp}
    (single : ∀ x, maskWhole op x x = maskWhole op x 0) (d a : KReg) : maskBody1 op d a s = combineMasks op d [a] s := by
  rw [maskBody1, if_pos matrix]
  simp [combineMasks, List.mapM_cons, single]

theorem maskGate_matrix {h : Hart} (matrix : h.vec.matrix = true) (rs : List SReg) : maskGate h rs = matrixSide rs [] := by
  simp [maskGate, matrixSide, matrix]

/-- In matrix mode each of the six is a matrix-queue unit that combines its masks (03_formats.md R44). -/
theorem exec_mask_matrix {i : Instr} {op : MaskOp} {d : KReg} {ks : List KReg} {s : State}
    (spec : maskSpec i = some (op, d, ks)) (matrix : s.me.vec.matrix = true) :
    exec i s = unit (matrixSide [] []) s (combineMasks op d ks s) := by
  rw [← maskGate_matrix matrix]
  unfold maskSpec at spec
  split at spec <;> cases spec
  case h_1 | h_2 | h_3 =>
    rw [← maskBody2_matrix matrix]
    rfl
  case h_4 | h_5 | h_6 =>
    rw [← maskBody1_matrix matrix fun _ => rfl]
    rfl

/-- Bits below f set and the others clear, as a mask. -/
theorem getLsbD_lowMask {f j : Nat} (hj : j < 2048) : (BitVec.ofNat 2048 (2 ^ f - 1)).getLsbD j = decide (j < f) := by
  rw [BitVec.getLsbD_ofNat, Nat.testBit_two_pow_sub_one, decide_eq_true hj, Bool.true_and]

/-- Position by position, the operation on whole masks is R130's. -/
theorem getLsbD_maskWhole (op : MaskOp) (ms : List (BitVec 2048)) {j : Nat} (hj : j < 2048) :
    (maskWhole op (ms.getD 0 0) (ms.getD 1 0)).getLsbD j = maskBit op ms j := by
  cases op with
  | and => exact BitVec.getLsbD_and
  | or => exact BitVec.getLsbD_or
  | xor => exact BitVec.getLsbD_xor
  | not => simp [maskWhole, maskBit, hj]
  | sbf => exact getLsbD_lowMask hj
  | sif => exact (getLsbD_lowMask hj).trans (decide_eq_decide.2 Nat.lt_succ_iff)

theorem combineMasks_of_held {s : State} {ks : List KReg} {ms : List (BitVec 2048)} (h : ks.map (heldMask s) = ms.map some)
    (op : MaskOp) (d : KReg) :
    combineMasks op d ks s = .ok ((s.setMask d (maskWhole op (ms.getD 0 0) (ms.getD 1 0))).noteWriter (matK d)) := by
  rw [combineMasks, mapM_matMaskReg_of_held h]
  rfl

theorem combineMasks_of_unheld {s : State} {ks : List KReg} (h : ∃ k ∈ ks, heldMask s k = none) (op : MaskOp) (d : KReg) :
    combineMasks op d ks s = raise s .illegal 0 := by
  rw [combineMasks, mapM_matMaskReg_of_unheld h]
  rfl

/-! ### The counts -/

/-- The search for the smallest true position ends at the bound at the latest. -/
theorem firstTrue_le (m : Nat → Bool) (n : Nat) : firstTrue m n ≤ n := by
  unfold firstTrue
  cases found : (List.range n).find? m with
  | none => exact le_rfl
  | some j => exact (List.mem_range.1 (List.mem_of_find?_eq_some found)).le

theorem countMask_eq_maskCount (op : CountOp) (m : BitVec 2048) (n : Nat) : countMask op m.getLsbD n = maskCount op m n := by
  cases op with
  | pop => rfl
  | first =>
    have lt_iff : firstTrue m.getLsbD n < n ↔ ¬ firstSet m n = n := (firstTrue_le _ _).lt_iff_ne
    by_cases absent : firstSet m n = n
    · exact (if_neg (by simpa [lt_iff])).trans (if_pos absent).symm
    · exact (if_pos (lt_iff.2 absent)).trans (if_neg absent).symm
  | tail => simp [countMask, maskCount, Nat.pos_iff_ne_zero]

/-- In matrix mode each count is a matrix-queue unit of its own body. -/
theorem exec_count_matrix {i : Instr} {op : CountOp} {k : KReg} {d : SReg} {s : State}
    (spec : countSpec i = some (op, k, d)) (matrix : s.me.vec.matrix = true) :
    exec i s = unit (matrixSide [d] []) s (countBody op k d s) := by
  rw [← maskGate_matrix matrix]
  unfold countSpec at spec
  split at spec <;> cases spec <;> rfl

theorem countBody_of_held {s : State} {k : KReg} {m : BitVec 2048} (matrix : s.me.vec.matrix = true)
    (h : heldMask s k = some m) (op : CountOp) (d : SReg) :
    countBody op k d s = .ok (s.setReg d (maskCount op m s.me.cr.vl)) := by
  rw [countBody, if_pos matrix, matMaskReg_of_held h, ← countMask_eq_maskCount]
  rfl

theorem countBody_of_unheld {s : State} {k : KReg} (matrix : s.me.vec.matrix = true) (h : heldMask s k = none) (op : CountOp)
    (d : SReg) : countBody op k d s = raise s .illegal 0 := by
  rw [countBody, if_pos matrix, matMaskReg_of_unheld h]
  rfl

/-! ### The three clauses -/

theorem vcmp_matrix {u m n : Bool} {k : KReg} {a b : VReg} {p : PReg} {r : VRel} {s : State}
    (matrix : s.me.vec.matrix = true) (miller : s.me.miller = false) (sound : s.me.tokUnsound = false)
    (tok : s.me.tokBad .v = false) (ext : s.me.ext = none) :
    exec (.vcmp u k a b m n p r) s = .next (s.takeTrap s .mode 0) :=
  VforceUnit.unit_gate_trap (VforceUnit.passGate_check_matrix sound tok ext miller matrix)

section
variable {i : Instr} {s : State} (matrix : s.me.vec.matrix = true)
include matrix

theorem mask_retires {op : MaskOp} {d : KReg} {ks : List KReg} {ms : List (BitVec 2048)}
    (spec : maskSpec i = some (op, d, ks)) (ready : Ready (matrixSide [] []) s) (held : ks.map (heldMask s) = ms.map some) :
    Retires .m i s ((s.setMask d (maskWhole op (ms.getD 0 0) (ms.getD 1 0))).noteWriter (matK d)) := by
  rw [Retires, exec_mask_matrix spec matrix]
  exact unit_done ready (combineMasks_of_held held op d)

theorem mask_illegal {op : MaskOp} {d : KReg} {ks : List KReg} (spec : maskSpec i = some (op, d, ks))
    (issues : Issues (matrixSide [] []) s) (unheld : ∃ k ∈ ks, heldMask s k = none) :
    exec i s = .next (s.takeTrap s .illegal 0) := by
  rw [exec_mask_matrix spec matrix]
  exact unit_trap issues (combineMasks_of_unheld unheld op d)

theorem count_retires {op : CountOp} {k : KReg} {d : SReg} {m : BitVec 2048} (spec : countSpec i = some (op, k, d))
    (ready : Ready (matrixSide [d] []) s) (held : heldMask s k = some m) :
    Retires .m i s (s.setReg d (maskCount op m s.me.cr.vl)) := by
  rw [Retires, exec_count_matrix spec matrix]
  exact unit_done ready (countBody_of_held matrix held op d)

theorem count_illegal {op : CountOp} {k : KReg} {d : SReg} (spec : countSpec i = some (op, k, d))
    (issues : Issues (matrixSide [d] []) s) (unheld : heldMask s k = none) : exec i s = .next (s.takeTrap s .illegal 0) := by
  rw [exec_count_matrix spec matrix]
  exact unit_trap issues (countBody_of_unheld matrix unheld op d)

end

/-- Settles O26: VCMP's gate gives MODE; the mask instructions and the counts act on the masks that they read whole, or raise
ILLEGAL at one that is not held. -/
theorem matrixMasks : Obligations.MatrixMasks := by
  unfold Obligations.MatrixMasks
  refine ⟨?vcmp, ?masks, ?counts⟩
  case vcmp => exact fun _ _ _ _ _ _ _ _ _ matrix miller sound tok ext => vcmp_matrix matrix miller sound tok ext
  case masks =>
    intro i op d ks s spec matrix issues
    refine ⟨fun ms held room => ⟨_, fun _ => getLsbD_maskWhole op ms, mask_retires matrix spec ⟨issues, room⟩ held⟩, ?_⟩
    rintro ⟨k, mem, named, empty⟩ -
    exact mask_illegal matrix spec issues ⟨k, mem, heldMask_of_empty named empty⟩
  case counts =>
    intro i op k d s spec matrix issues
    exact ⟨fun m held room => ⟨count_retires matrix spec ⟨issues, room⟩ held, State.setReg_me_pend ..⟩,
      fun named empty => count_illegal matrix spec issues (heldMask_of_empty named empty)⟩

end Sys2Proof.MatrixKUnits
end

section
/-! TRIG (12_launch.md R173): the word, the miller core that ignores it, and what it leaves of the hart and of its gang. -/

open Sys2Proof Sys2Proof.Machine Sys2Proof.Claims

namespace Sys2Proof.TrigUnit

/-! ### A gang's note of a TRIG -/

/-- What the turn's hart, once it has triggered, makes of a gang: its own notes its index while it is confirmed (R172). -/
def noteAt (s : State) (g : Gang) : Gang :=
  if s.me.gang = some g.id ∧ s.me.cr.confirmed = true ∧ s.me.cr.hx ∉ g.triggered then
    { g with triggered := s.me.cr.hx :: g.triggered }
  else g

theorem triggered_eq (s : State) :
    triggered s = { s with me := { s.me with triggered := true }, gangs := s.gangs.map (noteAt s) } := rfl

/-- A note reads the hart's gang, index and confirmation, none of which TRIG changes. -/
theorem noteAt_triggered (s : State) : noteAt (triggered s) = noteAt s := rfl

/-- A hart of no gang leaves every gang as it is. -/
theorem noteAt_of_no_gang {s : State} (h : s.me.gang = none) : noteAt s = id := by
  funext g
  exact if_neg (by simp [h])

/-- A provisional hart leaves every gang as it is. -/
theorem noteAt_of_provisional {s : State} (h : s.me.cr.confirmed = false) : noteAt s = id := by
  funext g
  exact if_neg (by simp [h])

/-- A confirmed hart's gang notes it, unless it has noted it before; the other gangs stay as they are. -/
theorem noteAt_of_confirmed {s : State} {n : Nat} (gang : s.me.gang = some n) (confirmed : s.me.cr.confirmed = true)
    (g : Gang) :
    noteAt s g = if g.id = n then
        (if g.triggered.contains s.me.cr.hx then g else { g with triggered := s.me.cr.hx :: g.triggered })
      else g := by
  by_cases own : g.id = n
  · by_cases noted : s.me.cr.hx ∈ g.triggered
    · simp [noteAt, noted]
    · simp [noteAt, gang, confirmed, own, noted]
  · simp [noteAt, gang, own, Ne.symm own]

/-- What is noted is not noted again. -/
theorem noteAt_noteAt (s : State) (g : Gang) : noteAt s (noteAt s g) = noteAt s g := by
  by_cases notes : s.me.gang = some g.id ∧ s.me.cr.confirmed = true ∧ s.me.cr.hx ∉ g.triggered
  · have once : noteAt s g = { g with triggered := s.me.cr.hx :: g.triggered } := if_pos notes
    rw [once]
    exact if_neg (by simp)
  · have stays : noteAt s g = g := if_neg notes
    rw [stays, stays]

/-- A second TRIG changes nothing (R173). -/
theorem triggered_triggered (s : State) : triggered (triggered s) = triggered s := by
  have gangs : (s.gangs.map (noteAt s)).map (noteAt s) = s.gangs.map (noteAt s) := by
    rw [List.map_map]
    exact List.map_congr_left fun g _ => noteAt_noteAt s g
  rw [triggered_eq (triggered s), noteAt_triggered]
  exact congrArg (fun gs => { triggered s with gangs := gs }) gangs

/-! ### The effect on a hart of a gang -/

/-- Where its hart counts as triggered already, noting that at its gang is all that a TRIG changes. -/
theorem noteTrig_eq_triggered {s : State} (h : s.me.triggered = true) : s.noteTrig = triggered s := by
  have keeps : s = { s with me := { s.me with triggered := true } } := by rw [← h]
  have unnoted (silent : noteAt s = id) : s = triggered s := by
    rw [triggered_eq, silent, List.map_id]
    exact keeps
  unfold State.noteTrig
  cases gang : s.me.gang with
  | none => exact unnoted (noteAt_of_no_gang gang)
  | some n =>
    cases confirmed : s.me.cr.confirmed with
    | false =>
      simp only [Bool.and_false, Bool.false_eq_true, if_false]
      exact unnoted (noteAt_of_provisional confirmed)
    | true =>
      simp only [h, Bool.and_self, if_true]
      rw [triggered_eq, funext (noteAt_of_confirmed gang confirmed), ← h]
      rfl

/-- The hart triggers, then its gang notes it. -/
theorem noteTrig_eq (s : State) : ({ s with me := { s.me with triggered := true } } : State).noteTrig = triggered s :=
  noteTrig_eq_triggered rfl

/-! ### The unit -/

/-- TRIG is a unit of the scalar queue whose body has no demand point and cannot fail. -/
theorem exec_trig (s : State) :
    exec .trig s = unit {} s (.ok (if s.me.miller then s else triggered s)) := by
  rw [← noteTrig_eq]
  rfl

theorem trig_retires {s : State} (ready : Ready {} s) :
    Retires .s .trig s (if s.me.miller then s else triggered s) := by
  rw [Retires, exec_trig]
  exact unit_done ready rfl

/-- Settles O48: the word by its round trip, both retirements by `trig_retires`, the second TRIG by `triggered_triggered`. -/
theorem trigRule : Obligations.TrigRule := by
  unfold Obligations.TrigRule
  refine ⟨?word, ?miller, ?hart, ?twice⟩
  case word => exact Laws.RoundTrip.trig rfl
  case miller =>
    intro s ready miller
    simpa [miller] using trig_retires ready
  case hart =>
    intro s ready miller
    simpa [miller] using trig_retires ready
  case twice => exact triggered_triggered

end Sys2Proof.TrigUnit
end

section
/-! The retrains of a die link (16_system.md R240): the link's number among the six and its two dies, the MACHINE records at the
miller cores of both, and the count of retrains that failed in a row. -/

open Sys2Proof Sys2Proof.Machine Sys2Proof.Claims

namespace Sys2Proof.LinkUnit

/-! ### The six links -/

theorem dieLinks_numbered :
    ∀ l ∈ dieLinks.zipIdx, dieLinks.idxOf? l.1 = some l.2 ∧ l.1.1 < l.1.2 ∧ l.1.2 < 4 := by decide

/-- A link has its number and joins two different dies of the package. -/
theorem idxOf?_dieLinks {i a b : Nat} (link : dieLinks[i]? = some (a, b)) :
    dieLinks.idxOf? (a, b) = some i ∧ a < b ∧ b < 4 :=
  dieLinks_numbered _ (List.mk_mem_zipIdx_iff_getElem?.mpr link)

theorem diePresent_of_getLsbD {s : State} {d : Nat} (up : s.diesPresent.getLsbD d = true) (lt : d < 4) :
    s.diePresent d = true := by
  simp [State.diePresent, up, lt]

/-! ### Records at harts by number -/

/-- The turn's hart has a number of its own. -/
def OwnNumber (s : State) : Prop := ∀ h ∈ s.others, h.num ≠ s.me.num

/-- The hart with one more MACHINE record, of the EVA. -/
def recorded (eva : Word) (h : Hart) : Hart := { h with machine := h.machine ++ [eva] }

/-- The hart, with one more MACHINE record where its number is among those told. -/
def told (ns : List Nat) (eva : Word) (h : Hart) : Hart :=
  if h.num ∈ ns then recorded eva h else h

/-- Every hart of the machine whose number is among those told has one more MACHINE record. -/
def tellAll (ns : List Nat) (eva : Word) (s : State) : State :=
  { s with me := told ns eva s.me, others := s.others.map (told ns eva) }

@[simp] theorem told_num (ns : List Nat) (eva : Word) (h : Hart) : (told ns eva h).num = h.num := by
  unfold told; split <;> rfl

theorem told_singleton (n : Nat) (eva : Word) (h : Hart) : told [n] eva h = if h.num = n then recorded eva h else h := by
  simp only [told, List.mem_singleton]

/-- Telling some harts and then others, none of them told before, is telling them all once. -/
theorem told_told {ms ns : List Nat} (apart : ms.Disjoint ns) (eva : Word) (h : Hart) :
    told ns eva (told ms eva h) = told (ms ++ ns) eva h := by
  by_cases before : h.num ∈ ms
  · have not_again : h.num ∉ ns := apart before
    simp [told, recorded, before, not_again]
  · simp [told, before]

theorem tellAll_tellAll {ms ns : List Nat} (apart : ms.Disjoint ns) (eva : Word) (s : State) :
    tellAll ns eva (tellAll ms eva s) = tellAll (ms ++ ns) eva s := by
  have both : told ns eva ∘ told ms eva = told (ms ++ ns) eva := funext (told_told apart eva)
  simp [tellAll, told_told apart, both]

/-- A record changes no hart's number. -/
theorem OwnNumber.tellAll {s : State} (own : OwnNumber s) (ns : List Nat) (eva : Word) : OwnNumber (tellAll ns eva s) := by
  simpa [OwnNumber, LinkUnit.tellAll] using own

/-- A record at the hart with a number goes to the turn's hart or to others, never to both. -/
theorem updHart_recorded {s : State} (own : OwnNumber s) (n : Nat) (eva : Word) :
    s.updHart n (recorded eva) = tellAll [n] eva s := by
  unfold State.updHart tellAll
  simp only [funext (told_singleton n eva)]
  split
  case isTrue mine =>
    have kept : s.others.map (fun h => if h.num = n then recorded eva h else h) = s.others :=
      (List.map_congr_left (g := id) fun h mem => if_neg (mine ▸ own h mem)).trans (List.map_id _)
    rw [kept]
  case isFalse => rfl

/-! ### The miller cores of a link's dies -/

theorem tellMillers_updHart (s : State) (d : Nat) (eva : Word) :
    s.tellMillers d eva = (s.updHart (6144 + 2 * d) (recorded eva)).updHart (6144 + 2 * d + 1) (recorded eva) := rfl

theorem tellMillers_eq {s : State} (own : OwnNumber s) (d : Nat) (eva : Word) :
    s.tellMillers d eva = tellAll (millersOf d) eva s := by
  have apart : [6144 + 2 * d].Disjoint [6144 + 2 * d + 1] := by simp
  rw [tellMillers_updHart, updHart_recorded own, updHart_recorded (own.tellAll _ _), tellAll_tellAll apart]
  rfl

/-- Two dies have no miller core in common. -/
theorem millersOf_disjoint {a b : Nat} (ne : a ≠ b) : (millersOf a).Disjoint (millersOf b) := by
  intro n ina inb
  simp only [millersOf, List.mem_cons, List.not_mem_nil, or_false] at ina inb
  omega

theorem tellMillers_tellMillers {s : State} (own : OwnNumber s) {a b : Nat} (ne : a ≠ b) (eva : Word) :
    (s.tellMillers a eva).tellMillers b eva = tellAll (millersOf a ++ millersOf b) eva s := by
  rw [tellMillers_eq own, tellMillers_eq (own.tellAll _ _), tellAll_tellAll (millersOf_disjoint ne)]

/-- The link at half width and the event in the log, before anyone is told (R240). -/
def halved (i a b : Nat) (s : State) : State :=
  { s with linkHalf := s.linkHalf ||| BitVec.ofNat 6 (2 ^ i), log := s.log ++ [.linkHalf a b] }

theorem halveLink_halved (s : State) (i a b : Nat) :
    s.halveLink i a b = ((halved i a b s).tellMillers a 0).tellMillers b 0 := rfl

theorem OwnNumber.halved {s : State} (own : OwnNumber s) (i a b : Nat) : OwnNumber (halved i a b s) := own

theorem halveLink_eq {s : State} (own : OwnNumber s) {a b : Nat} (ne : a ≠ b) (i : Nat) :
    s.halveLink i a b = tellAll (millersOf a ++ millersOf b) 0 (halved i a b s) := by
  rw [halveLink_halved, tellMillers_tellMillers (own.halved i a b) ne]

/-! ### The count -/

/-- The state whose i-th link has n failed retrains in a row. -/
def counted (i n : Nat) (s : State) : State := { s with retrains := s.retrains.setIfInBounds i n }

theorem OwnNumber.counted {s : State} (own : OwnNumber s) (i n : Nat) : OwnNumber (counted i n s) := own

section
variable {s : State} {i a b : Nat} (link : dieLinks[i]? = some (a, b)) (upa : s.diesPresent.getLsbD a = true)
  (upb : s.diesPresent.getLsbD b = true)
include link upa upb

/-- Between two present dies a retrain that succeeds clears the count; one that fails adds to it, and the third halves the
link. -/
theorem exec_linkRetrain (ok : Bool) :
    exec (.linkRetrain a b ok) s = .next (
      let n := s.retrains.toList.getD i 0 + 1
      if ok then counted i 0 s else if n = 3 then (counted i n s).halveLink i a b else counted i n s) := by
  obtain ⟨number, lt, inside⟩ := idxOf?_dieLinks link
  have both : (s.diePresent a && s.diePresent b) = true := by
    rw [diePresent_of_getLsbD upa (lt.trans inside), diePresent_of_getLsbD upb inside]; rfl
  change execLinkRetrain a b ok s = _
  unfold execLinkRetrain
  rw [number]
  cases ok <;> simp [both, counted]

theorem linkRetrain_succeeds : exec (.linkRetrain a b true) s = .next (counted i 0 s) :=
  exec_linkRetrain link upa upb true

theorem linkRetrain_fails (early : s.retrains.toList.getD i 0 ≠ 2) :
    exec (.linkRetrain a b false) s = .next (counted i (s.retrains.toList.getD i 0 + 1) s) := by
  have not_third : s.retrains.toList.getD i 0 + 1 ≠ 3 := by omega
  rw [exec_linkRetrain link upa upb]
  simp only [Bool.false_eq_true, if_false, if_neg not_third]

theorem linkRetrain_fails_third (third : s.retrains.toList.getD i 0 = 2) :
    exec (.linkRetrain a b false) s = .next ((counted i 3 s).halveLink i a b) := by
  rw [exec_linkRetrain link upa upb]
  simp only [third, Bool.false_eq_true, if_false, if_true]

end

/-- Settles O56: the count by the three cases of a retrain, the records of the third failure by `halveLink_eq`. -/
theorem linkRetrains : Obligations.LinkRetrains := by
  unfold Obligations.LinkRetrains
  intro a b i s link upa upb own
  obtain ⟨-, lt, -⟩ := idxOf?_dieLinks link
  refine ⟨linkRetrain_succeeds link upa upb, linkRetrain_fails link upa upb, fun third => ?third⟩
  case third =>
    have own : OwnNumber s := own
    rw [linkRetrain_fails_third link upa upb third, halveLink_eq (own.counted i 3) lt.ne]
    rfl

end Sys2Proof.LinkUnit
end
